-- ==== Sys2Proof/Word.lean ====
section
/-! DEFINITION. The word types of the Svetell and the type of sparse instance tables. -/

namespace Sys2Proof

/-- One byte (R7: little-endian everywhere). -/
abbrev Byte := BitVec 8

/-- A 16-bit error code of R475. -/
abbrev Code := BitVec 16

/-- A 32-bit word: a lane, a unit handle (R18), a sequencer word (R123). -/
abbrev W32 := BitVec 32

/-- A 64-bit word: a scalar register (R102), a global address (R7), a register slot (R481). -/
abbrev W64 := BitVec 64

/-- A sparse table by instance number, rising keys; an unlisted instance holds the reset value
that its reader names (Machine/Table.lean). -/
abbrev Table (α : Type) := List (Nat × α)

end Sys2Proof
end

