-- ==== Sys2Proof/Syntax.lean ====
section
/-! DEFINITION. The commands of spec/opcode_table.json, one constructor a row, with their operands. -/

namespace Sys2Proof

abbrev StreamId := BitVec 6
abbrev CoreId := BitVec 9
abbrev ClusterId := BitVec 5
abbrev VaultId := BitVec 9
abbrev PortId := BitVec 5
abbrev ChanId := BitVec 3
/-- Video engine number; 0 to 9 exist (R317). -/
abbrev EngineId := BitVec 4
/-- A context slot of this device: logical core in [11:3], slot in [2:0] (R101). -/
abbrev CtxId := BitVec 12
/-- A scalar or vector register number. -/
abbrev Reg := BitVec 5

/-- Predication of R124. -/
structure Pred where
  pn : Bool
  pi : BitVec 3
  deriving DecidableEq, Repr

/-- fn of s.alu (R125). -/
inductive AluFn where
  | add | sub | and | or | xor | sll | srl | sra | mul | mulh | mulhu | min | max | minu | maxu | divu | remu
  deriving DecidableEq, Repr

/-- Shift selection of s.shi (R125). -/
inductive ShiftKind where
  | left | logical | arithmetic
  deriving DecidableEq, Repr

/-- Condition codes of s.cmp and s.cmpi (R125). -/
inductive Cond where
  | eq | ne | lt | ge | ltu | geu
  deriving DecidableEq, Repr

/-- fn of s.pop (R125). -/
inductive PopFn where
  | and | or | xor | andNot | not
  deriving DecidableEq, Repr

/-- fn of s.amo and of an ATOM packet (R125, R355). -/
inductive AmoFn where
  | add | swap | cas | max | min | or | and
  deriving DecidableEq, Repr

/-- Scope of s.fence (R131). -/
inductive FenceFn where
  | localScope | unit | device | system
  deriving DecidableEq, Repr

/-- fn of s.info (R125). -/
inductive InfoFn where
  | cycle | device | stream | core | rank | leaves
  deriving DecidableEq, Repr

/-- The fields of a vector instruction beside class, vop and predication (R127). -/
structure VOp where
  vd : Reg
  va : Reg
  vb : Reg
  vc : Reg
  me : Bool
  vm : Reg
  imm : BitVec 11
  fn : BitVec 4
  rnd : BitVec 2
  fmt : BitVec 5
  deriving DecidableEq, Repr

/-- Who makes a register access: the host through BAR0, or a context through the register window (R261, R482). -/
inductive Agent where
  | host
  | ctx (cx : CtxId)
  deriving DecidableEq, Repr

/-- A physical failure that strikes one stored symbol of the stack (R258, R278): vault, tier, bank, row (spare row k is 6144 + k),
column (spare group k is 16 + k), and the symbol among the 16 that the tier holds of a line. -/
structure SymbolUpset where
  vault : VaultId
  tier : BitVec 3
  bank : BitVec 5
  row : BitVec 13
  col : BitVec 5
  sym : BitVec 4
  deriving DecidableEq, Repr

/-- Cluster cache hints (R137, R269). -/
inductive Hint where
  | none | stream | keep | last
  deriving DecidableEq, Repr

/-- A line-path access (R269): local address, hint, uses_left, the touching macro-instruction if any,
and for a write the bytes to store from addr on. -/
structure LineReq where
  addr : BitVec 48
  hint : Hint
  uses : BitVec 16
  tag : Option (StreamId × BitVec 10)
  wr : Option (List Byte)
  upsets : List SymbolUpset
  deriving DecidableEq, Repr

/-- What an awl request does (R274, R275). -/
inductive AwlOp where
  | read (size8 : Bool)
  | write (size8 : Bool) (v : W64)
  | atomic (fn : AmoFn) (cmp v : W64)
  deriving DecidableEq, Repr

/-- Tests of a noise source (R226). -/
inductive NoiseTest where
  | rct | apt
  deriving DecidableEq, Repr

/-- A single bit that a physical failure flips in an accumulator before readout: column and bit (R58). -/
structure Upset where
  col : BitVec 6
  bit : Nat
  deriving DecidableEq, Repr

/-- How the front of a load meets the arrays (R79, R86-R88): the ic, from the front of the last real load, at which its first
piece is delivered and its lane asked for (negative: before that front); ic the arrays hold for a streaming input, for the
lookups of a block of a pool (R298), and for the welt or a held readout; ic of the wait spent on a copy fill and on a LOADING generation (R257); and the same ic of the load
after it where its pieces are laid while this one streams. -/
structure FrontIn where
  late : Int
  hold : Nat
  walk : Nat
  welt : Nat
  copy : Nat
  gen : Nat
  ahead : Option Int
  deriving DecidableEq, Repr

/-- The core whose known-answer load starts, and the ic it waits in the gap before its lane starts (R95). -/
structure KatAt where
  core : CoreId
  wait : Nat
  deriving DecidableEq, Repr

/-- A physical failure in a known-answer load (R94, R97): the check accumulator of an array and column, the bits of A it
flips, and whether it flips nan, pinf and ninf, and the residue bits. -/
structure KatUpset where
  array : BitVec 2
  col : BitVec 6
  a : BitVec 608
  flags : BitVec 3
  res : BitVec 3
  deriving DecidableEq, Repr

/-- A fabric packet (R355, R356): header fields, byte mask of WRL, payload bytes. -/
structure Packet where
  typ : BitVec 8
  dst : BitVec 16
  src : BitVec 16
  tag : BitVec 13
  addr : BitVec 48
  code : BitVec 8
  hops : BitVec 8
  mask : BitVec 128
  pay : List Byte
  deriving DecidableEq, Repr

/-- A membership change (R370). -/
inductive Change where
  | join (dev : BitVec 16)
  | leave (dev : BitVec 16)
  | loss (dev : BitVec 16)
  deriving DecidableEq, Repr

/-- What a context of another device's stream asks that stream's device (R103, R126, R131, R153; log 28, DESIGN CHOICE): a
ticket for s.mi, the dispatch of a block, to be told when a ticket has retired, when a fence's scope holds (the ticket of the
block it runs itself is not waited for), or when given tickets and blocks are done. -/
inductive Ask where
  | mi (leaves : List (Nat × Nat))
  | disp (handle : W32) (addr : W64) (args : List W64) (leaves : List (Nat × Nat))
  | mwait (ticket : W64)
  | fence (fn : FenceFn) (mine : Option W64) (unit : List (Nat × Nat))
  | work (tickets blocks : List W64)
  deriving DecidableEq, Repr

/-- Work of a counter as the device that publishes it describes it to one that holds tiles of it (R144, R148). -/
structure Work where
  ticket : W64
  seed : W64
  cstream : BitVec 6
  desc : BitVec 256
  recs : List (BitVec 512)
  leaves : List (Nat × Nat)
  tm : Nat
  tk : Nat
  parts : Nat
  team : Nat
  prio : BitVec 2
  deriving DecidableEq, Repr

/-- Management notices received on VC2 that have no row of their own, by what the rules give them to do (R356; log 46, DEDUCED);
`unknown` is any other code. `pause` stops a stream's work for PAUSE and `paused` answers it with leaf sections by rank,
entries of macro-instructions published there, and the tiles of this device's counters whose progress the sections hold;
`resume` brings the sections back with the work they belong to; `program` and `restore` follow LOAD and RESTORE; `fenced` tells
that a fence of scope 2 or wider has completed (R299). -/
inductive Notice where
  | reserve (dev : BitVec 16) (strm : StreamId) (cores : List (CoreId × Nat)) (seed : W64) (cstream : BitVec 6)
      (leafCount : Nat) (job : BitVec 16) (prio : BitVec 2)
  | dispatch (dev : BitVec 16) (strm : StreamId) (ticket addr : W64) (args : List W64) (blocks : List (CoreId × Nat))
      (codeBase codeLen : W64)
  | stop (dev : BitVec 16) (strm : StreamId)
  | pause (dev : BitVec 16) (strm : StreamId) (prompt : Bool)
  | paused (strm : StreamId) (dev : BitVec 16) (secs : List (Nat × List Byte)) (entries : List (List Byte))
      (kept : List (W64 × Nat))
  | resume (dev : BitVec 16) (strm : StreamId) (secs : List (CoreId × List Byte)) (work : List Work)
  | program (dev : BitVec 16) (strm : StreamId) (codeBase codeLen : W64)
  | restore (dev : BitVec 16) (strm : StreamId) (seed : W64) (cstream : BitVec 6) (codeBase codeLen : W64)
      (recs : List (CoreId × List Byte × List Byte))
  | ask (dev : BitVec 16) (strm : StreamId) (cx : CtxId) (q : Ask)
  | answer (strm : StreamId) (cx : CtxId) (code : Code) (value : W64) (mi : Bool)
  | hold (cx : CtxId) (qual : Nat)
  | miEnd (strm : StreamId) (ticket : W64)
  | fenced (dev : BitVec 16) (strm : StreamId)
  | release (dev : BitVec 16) (strm : StreamId)
  | blockEnd (strm : StreamId) (ticket : W64) (dev : BitVec 16) (core : CoreId) (record : List Byte)
  | rangeReturn (strm : StreamId) (ticket : W64) (tiles : List Nat)
  | tileDone (strm : StreamId) (ticket : W64) (dev : BitVec 16) (tile : Nat) (hist present : List Nat)
  | mergePart (strm : StreamId) (ticket : W64) (dev : BitVec 16) (tile : Nat) (cells : List (Nat × BitVec 614))
  | mergeAnswer (home : BitVec 16) (strm : StreamId) (ticket : W64) (tile : Nat) (last : Bool) (cells : List (Nat × BitVec 614))
  | jobHeadwater (job : BitVec 16) (hw : BitVec 16) (matchAll : Bool) (members : List Nat)
  | jobReport (job : BitVec 16) (dev : BitVec 16) (pin : Option (BitVec 16)) (matchAll : Bool) (devs : List Nat)
      (present : Bool)
  | lag (job : BitVec 16) (dev : BitVec 16) (k : BitVec 6) (clear : Bool)
  | epochConfirm (live : List Nat) (epoch : W32) (hw : BitVec 16)
  | joinRefused (code : Code)
  | fault (strm : StreamId) (code : Code) (name : W64) (record : W32)
  | unknown (code : BitVec 8)
  deriving DecidableEq, Repr

/-- Membership states (FAB_STATUS). -/
inductive MState where
  | out | joining | live | leaving
  deriving DecidableEq, Repr

/-- What a HELLO exchange on a port tells (R371, R372). -/
structure HelloInfo where
  nbr : BitVec 16
  mstate : MState
  hw : BitVec 16
  epoch : W32
  pin : BitVec 17
  reply : Bool
  deriving DecidableEq, Repr

/-- The neighbour is a member of a system. -/
def HelloInfo.nbrLive (i : HelloInfo) : Bool := decide (i.mstate = .live) || decide (i.mstate = .leaving)

/-- A range claim at a device-level Last (R144): another device claims from a counter of this one, or this device
receives the tiles (by number of R145 and member) its own claim was granted, with the work, its priority and the tile shape
they belong to. -/
inductive RangeReq where
  | serve (dev : BitVec 16) (strm : StreamId) (ticket : W64)
  | take (home : BitVec 16) (strm : StreamId) (ticket : W64) (seed : W64) (cstream : BitVec 6)
      (desc : BitVec 256) (recs : List (BitVec 512)) (leaves : List (Nat × Nat)) (tm tk parts team : Nat)
      (prio : BitVec 2) (tiles : List Nat)
  deriving DecidableEq, Repr

/-- An amount of a timed event in a weir period: event, instance of its domain, stream if it has one, ic or ns (R469-R472). -/
structure Timed where
  ev : BitVec 8
  inst : BitVec 10
  strm : Option StreamId
  n : Nat
  deriving DecidableEq, Repr

/-- Inputs of one weir period (R381, R383, R385, R391): the sensor readings in 0.25 °C, the meters, the energy estimates of the core
islands for the ic spent on work of streams and on dummy and known-answer vectors, the residual weight, the generator slots of
islands, and what timed events the islands counted. -/
structure WeirInput where
  temps : List (Nat × Int)
  watts : Nat
  watts100 : Nat
  volts : Nat
  amps : Nat
  work : List (CoreId × StreamId × Nat)
  riffle : List (CoreId × Nat)
  rest : Nat
  slots : List (Nat × Nat)
  timed : List Timed
  deriving DecidableEq, Repr

/-- The 4,096 raw bits of the start-up test of a cluster's noise source, bit 0 first (R226). -/
structure NoiseBits where
  cl : ClusterId
  raw : BitVec 4096
  deriving DecidableEq, Repr

/-- A lane that fails in stack training: a hybrid-bond lane or a through-silicon via lane of a vault and tier (R439). -/
structure BadLane where
  vault : VaultId
  tier : BitVec 3
  bond : Bool
  lane : BitVec 9
  deriving DecidableEq, Repr

/-- Findings of start-up steps 6 to 9 (R437, R439-R441): repair entries of the signed repair data by (vault, tier,
store, index), its tier marks, lanes that fail in training, failing cores of the scan and of self-test (physical), designated
spares, a cluster whose cache fails, an island whose monitor or watchdog fails, sensors and video engines that fail, raw bits of
noise sources (those not named pass their start-up test), the static power and current, and whether a thermal trip ends the start-up
(R450). -/
structure StartupInput where
  repairs : List (Nat × W64)
  marks : List (VaultId × BitVec 6)
  lanes : List BadLane
  scanFail : List (ClusterId × BitVec 17)
  spare : List (ClusterId × BitVec 5)
  selfFail : List (ClusterId × BitVec 17)
  retestFail : List ClusterId
  cacheFail : Option ClusterId
  monitorFail : Option (BitVec 10)
  noise : List (ClusterId × List Bool)
  sensorFail : List Nat
  videoFail : List EngineId
  staticP : Nat
  staticI : Nat
  tripped : Bool
  deriving DecidableEq, Repr

/-- A fault bit on its way to the latch (R37, R458): code, source, stream, argument words, and the instruction of
that stream it concerns if any. -/
structure FaultBit where
  code : Code
  srcKind : BitVec 8
  srcIndex : BitVec 16
  strm : Option StreamId
  arg0 : W64
  arg1 : W64
  deriving DecidableEq, Repr

/-- Where SECDED finds an uncorrectable word (R452, R458), or what it corrects. -/
inductive SecdedAt where
  | store (core : CoreId) (addr : BitVec 48) (double : Bool)
  | line (cl : ClusterId) (addr : BitVec 48) (double : Bool)
  | tag (cl : ClusterId) (idx : BitVec 14) (double : Bool)
  deriving DecidableEq, Repr

/-- Which schedule register a write names (R310). -/
inductive SchedReg where
  | prog | param | shape
  deriving DecidableEq, Repr

/-- Which ring register a write names (R403-R409). -/
inductive RingReg where
  | cmd (s : StreamId)
  | cpl (s : StreamId)
  | dma (d : ChanId)
  | wb (d : ChanId)
  deriving DecidableEq, Repr

/-- A counter: of a core, of a cluster, or of the cobbler (R468). -/
inductive CounterId where
  | core (c : CoreId) (n : BitVec 3)
  | cluster (c : ClusterId) (n : BitVec 4)
  | cobbler (n : BitVec 5)
  deriving DecidableEq, Repr

/-- Requests of the SPDM responder (R466, R467); `other` is any that it does not support. -/
inductive SpdmReq where
  | version | capabilities | algorithms | digests | certificate (slot : BitVec 3) | challenge
  | measurement (index : BitVec 8) | keyExchange | finish | heartbeat | keyUpdate | endSession | other
  deriving DecidableEq, Repr

/-- A configuration request (R399, R443): a read of a double word, or a write the rules give an effect: the size of BAR2 as a
power of two (R400), the maximum read request size as the standard codes it (R398), MSI-X Enable and Function Mask, the mask bit of
an MSI-X vector (R412; the manual gives the MSI-X table no place of its own, log 53, PRESUMED). -/
inductive CfgReq where
  | read (off : BitVec 12)
  | resizeBar2 (log2 : BitVec 6)
  | readSize (code : BitVec 3)
  | msixControl (enable mask : Bool)
  | msixVector (vector : BitVec 11) (mask : Bool)
  deriving DecidableEq, Repr

/-- IDE_KM content (R413): program a key of a stream, or configure a stream. -/
inductive IdeKm where
  | program (stream : BitVec 2) (secured : Bool)
  | configure (stream : BitVec 2) (enable : Bool)
  deriving DecidableEq, Repr

/-- What a flit carries beside its sequence fields (R350): its 240 slot bytes. -/
abbrev FlitBits := BitVec 2048

/-- The commands, in the order of spec/opcode_table.json; each row's rule is named there. -/
inductive Instr where
  /-- BIND (R491). -/
  | bind (strm : StreamId) (entry : BitVec 512) (far : Option W32)
  /-- LOAD (R117). -/
  | load (strm : StreamId) (entry : BitVec 512)
  /-- START (R104). -/
  | start (strm : StreamId) (entry : BitVec 512)
  /-- PAUSE (R119). -/
  | pause (strm : StreamId) (entry : BitVec 512)
  /-- RESUME (R112). -/
  | resume (strm : StreamId) (entry : BitVec 512)
  /-- SAVE (R120). -/
  | save (strm : StreamId) (entry : BitVec 512)
  /-- RESTORE (R121). -/
  | restore (strm : StreamId) (entry : BitVec 512) (remote : List Byte)
  /-- KILL (R122). -/
  | kill (strm : StreamId) (entry : BitVec 512)
  /-- FENCE (R132). -/
  | fence (strm : StreamId) (entry : BitVec 512)
  /-- FENCE_COMPLETE (R132). -/
  | fenceComplete (strm : StreamId)
  /-- DRAIN_END (R108). -/
  | drainEnd (strm : StreamId)
  /-- COMMAND_TAIL_DOORBELL (R403). -/
  | commandTailDoorbell (strm : StreamId) (v : W32)
  /-- COMPLETION_HEAD_DOORBELL (R406). -/
  | completionHeadDoorbell (strm : StreamId) (v : W32)
  /-- S_ALU (R125). -/
  | sAlu (cx : CtxId) (p : Pred) (fn : AluFn) (d a b : Reg)
  /-- S_ADDI (R125). -/
  | sAddi (cx : CtxId) (p : Pred) (d a : Reg) (imm : BitVec 12)
  /-- S_ANDI (R125). -/
  | sAndi (cx : CtxId) (p : Pred) (d a : Reg) (imm : BitVec 12)
  /-- S_ORI (R125). -/
  | sOri (cx : CtxId) (p : Pred) (d a : Reg) (imm : BitVec 12)
  /-- S_XORI (R125). -/
  | sXori (cx : CtxId) (p : Pred) (d a : Reg) (imm : BitVec 12)
  /-- S_SHI (R125). -/
  | sShi (cx : CtxId) (p : Pred) (kind : ShiftKind) (d a : Reg) (amount : BitVec 6)
  /-- S_MOV16 (R124). -/
  | sMov16 (cx : CtxId) (hw : BitVec 2) (keep : Bool) (d : Reg) (imm : BitVec 16)
  /-- S_CMP (R125). -/
  | sCmp (cx : CtxId) (p : Pred) (cond : Cond) (d : BitVec 3) (a b : Reg)
  /-- S_CMPI (R125). -/
  | sCmpi (cx : CtxId) (p : Pred) (cond : Cond) (d : BitVec 3) (a : Reg) (imm : BitVec 9)
  /-- S_POP (R125). -/
  | sPop (cx : CtxId) (p : Pred) (fn : PopFn) (d a b : BitVec 3)
  /-- S_LD (R126). -/
  | sLd (cx : CtxId) (p : Pred) (d a : Reg) (imm : BitVec 12)
  /-- S_LDW (R126). -/
  | sLdw (cx : CtxId) (p : Pred) (d a : Reg) (imm : BitVec 12)
  /-- S_ST (R126). -/
  | sSt (cx : CtxId) (p : Pred) (d a : Reg) (imm : BitVec 12)
  /-- S_STW (R126). -/
  | sStw (cx : CtxId) (p : Pred) (d a : Reg) (imm : BitVec 12)
  /-- S_AMO (R275). -/
  | sAmo (cx : CtxId) (p : Pred) (fn : AmoFn) (d a b : Reg)
  /-- S_BR (R124). -/
  | sBr (cx : CtxId) (p : Pred) (off : BitVec 22)
  /-- S_CALL (R125). -/
  | sCall (cx : CtxId) (p : Pred) (off : BitVec 22)
  /-- S_JR (R126). -/
  | sJr (cx : CtxId) (p : Pred) (a : Reg)
  /-- S_MI (R126). -/
  | sMi (cx : CtxId) (p : Pred) (d a b : Reg)
  /-- S_MWAIT (R125). -/
  | sMwait (cx : CtxId) (p : Pred) (a : Reg)
  /-- S_DISP (R105). -/
  | sDisp (cx : CtxId) (p : Pred) (d a b : Reg)
  /-- S_FENCE (R131). -/
  | sFence (cx : CtxId) (p : Pred) (fn : FenceFn) (a : Reg)
  /-- SEQ_FENCE_COMPLETE (R131). -/
  | seqFenceComplete (cx : CtxId)
  /-- S_GDEF (R24). -/
  | sGdef (cx : CtxId) (p : Pred) (d a b : Reg)
  /-- S_GUNDEF (R25). -/
  | sGundef (cx : CtxId) (p : Pred) (d a : Reg)
  /-- S_INFO (R125). -/
  | sInfo (cx : CtxId) (p : Pred) (fn : InfoFn) (d : Reg)
  /-- S_END (R118). -/
  | sEnd (cx : CtxId) (p : Pred)
  /-- V_ADD (R188). -/
  | vAdd (cx : CtxId) (p : Pred) (v : VOp)
  /-- V_SUB (R188). -/
  | vSub (cx : CtxId) (p : Pred) (v : VOp)
  /-- V_MUL (R188). -/
  | vMul (cx : CtxId) (p : Pred) (v : VOp)
  /-- V_FMA (R188). -/
  | vFma (cx : CtxId) (p : Pred) (v : VOp)
  /-- V_MIN (R188). -/
  | vMin (cx : CtxId) (p : Pred) (v : VOp)
  /-- V_MAX (R188). -/
  | vMax (cx : CtxId) (p : Pred) (v : VOp)
  /-- V_UN (R127). -/
  | vUn (cx : CtxId) (p : Pred) (v : VOp)
  /-- V_CMP (R127). -/
  | vCmp (cx : CtxId) (p : Pred) (v : VOp)
  /-- V_SEL (R186). -/
  | vSel (cx : CtxId) (p : Pred) (v : VOp)
  /-- V_LOG (R189). -/
  | vLog (cx : CtxId) (p : Pred) (v : VOp)
  /-- V_SH (R189). -/
  | vSh (cx : CtxId) (p : Pred) (v : VOp)
  /-- V_CVT (R489). -/
  | vCvt (cx : CtxId) (p : Pred) (v : VOp)
  /-- V_SFU (R194). -/
  | vSfu (cx : CtxId) (p : Pred) (v : VOp)
  /-- V_RED (R128). -/
  | vRed (cx : CtxId) (p : Pred) (v : VOp)
  /-- V_BCAST (R127). -/
  | vBcast (cx : CtxId) (p : Pred) (v : VOp)
  /-- V_EXT (R127). -/
  | vExt (cx : CtxId) (p : Pred) (v : VOp)
  /-- V_LD (R189). -/
  | vLd (cx : CtxId) (p : Pred) (v : VOp)
  /-- V_ST (R127). -/
  | vSt (cx : CtxId) (p : Pred) (v : VOp)
  /-- V_GATHER (R127). -/
  | vGather (cx : CtxId) (p : Pred) (v : VOp)
  /-- V_SCATTER (R192). -/
  | vScatter (cx : CtxId) (p : Pred) (v : VOp)
  /-- V_IOTA (R127). -/
  | vIota (cx : CtxId) (p : Pred) (v : VOp)
  /-- V_RNG (R224). -/
  | vRng (cx : CtxId) (p : Pred) (v : VOp)
  /-- V_WELFORD (R197). -/
  | vWelford (cx : CtxId) (p : Pred) (v : VOp)
  /-- V_PERM (R127). -/
  | vPerm (cx : CtxId) (p : Pred) (v : VOp)
  /-- ORDER_WAIT_MET (R136). -/
  | orderWaitMet (strm : StreamId) (ticket : W64)
  /-- TILE_CLAIM (R146). -/
  | tileClaim (core : CoreId)
  /-- RANGE_CLAIM (R144). -/
  | rangeClaim (req : RangeReq)
  /-- LOAD_FRONT (R86). -/
  | loadFront (core : CoreId) (inp : FrontIn)
  /-- READOUT (R88). -/
  | readout (core : CoreId) (array : BitVec 2) (row : BitVec 6) (upset : Option Upset)
  /-- TEAM_STATS_COMBINE (R172). -/
  | teamStatsCombine (strm : StreamId) (ticket : W64) (batch row : Nat)
  /-- TILE_RETIRE (R149). -/
  | tileRetire (core : CoreId)
  /-- MI_RETIRE (R149). -/
  | miRetire (strm : StreamId) (ticket : W64)
  /-- KAT_DUE (R95). -/
  | katDue (core : CoreId)
  /-- KAT_FORCED (R95). -/
  | katForced (core : CoreId)
  /-- KAT_START (R95). -/
  | katStart (at_ : KatAt)
  /-- KAT_VERDICT (R97). -/
  | katVerdict (core : CoreId) (upsets : List KatUpset) (vecFail : Bool)
  /-- RIFFLE_RAMP_STEP (R91). -/
  | riffleRampStep (core : CoreId)
  /-- RIFFLE_SNAPSHOT (R98). -/
  | riffleSnapshot
  /-- SEED_REFILL (R225). -/
  | seedRefill (cl : ClusterId) (raw : BitVec 1024)
  /-- NOISE_HEALTH_FAIL (R226). -/
  | noiseHealthFail (cl : ClusterId) (raw : List Bool)
  /-- NOISE_STARTUP_PASS (R226). -/
  | noiseStartupPass (raw : NoiseBits)
  /-- NOISE_RESTART (R226). -/
  | noiseRestart (cl : ClusterId)
  /-- DELTA_GEN_LOAD (R245). -/
  | deltaGenLoad (slot : BitVec 3) (gen : BitVec 16) (mask : W32)
  /-- DELTA_GEN_RETIRE (R246). -/
  | deltaGenRetire (slot : BitVec 3) (gen : BitVec 16) (mask : W32)
  /-- DELTA_GEN_OP_REFUSED (R483). -/
  | deltaGenOpRefused (slot : BitVec 3) (gen : BitVec 16)
  /-- PENDING_LOAD_TAKE (R245). -/
  | pendingLoadTake (cl : ClusterId) (slot : BitVec 3)
  /-- CODEBOOK_COPY_DONE (R245). -/
  | codebookCopyDone (cl : ClusterId) (slot : BitVec 3)
  /-- GENERATION_EMPTY (R246). -/
  | generationEmpty (cl : ClusterId) (slot : BitVec 3)
  /-- COPY_BUFFER_FILL (R251). -/
  | copyBufferFill (core : CoreId)
  /-- BLOCK_DECODE (R252). -/
  | blockDecode (core : CoreId)
  /-- STACK_ILV_WRITE (R264). -/
  | stackIlvWrite (agent : Agent) (v : W32)
  /-- LINE_ACCESS (R269). -/
  | lineAccess (req : LineReq)
  /-- AWL_REQUEST (R275). -/
  | awlRequest (cl : ClusterId) (addr : BitVec 48) (op : AwlOp) (upsets : List SymbolUpset)
  /-- CCH_PREFETCH (R273). -/
  | cchPrefetch (cx : CtxId) (addr : BitVec 48)
  /-- CCH_PREFETCH_KEEP (R273). -/
  | cchPrefetchKeep (cx : CtxId) (addr : BitVec 48)
  /-- CCH_EVICT_FIRST (R273). -/
  | cchEvictFirst (cx : CtxId) (addr : BitVec 48)
  /-- CCH_WRITE_BACK (R273). -/
  | cchWriteBack (cx : CtxId) (addr : BitVec 48)
  /-- CCH_WRITE_BACK_INVALIDATE (R273). -/
  | cchWriteBackInvalidate (cx : CtxId) (addr : BitVec 48)
  /-- CCH_INVALIDATE (R273). -/
  | cchInvalidate (cx : CtxId) (addr : BitVec 48)
  /-- CCH_CTL_BAD (R273). -/
  | cchCtlBad (cx : CtxId) (addr : BitVec 48) (v : W64)
  /-- CCH_STATE_READ (R273). -/
  | cchStateRead (cx : CtxId) (addr : BitVec 48) (d : Reg)
  /-- PATROL_SCRUB_LINE (R280). -/
  | patrolScrubLine (vault : VaultId) (upsets : List SymbolUpset)
  /-- TIER_PROBE (R280). -/
  | tierProbe (vault : VaultId) (line : BitVec 22) (upsets : List SymbolUpset)
  /-- STK_RPR_READ (R281). -/
  | stkRprRead (vault : VaultId) (tier : BitVec 3) (store : BitVec 2) (index : BitVec 7)
  /-- STK_RPR_SOFT_WRITE (R283). -/
  | stkRprSoftWrite (vault : VaultId) (tier : BitVec 3) (store : BitVec 2) (index : BitVec 7)
  /-- STK_RPR_SOFT_CLEAR (R283). -/
  | stkRprSoftClear (vault : VaultId) (tier : BitVec 3) (store : BitVec 2) (index : BitVec 7)
  /-- STK_RPR_MARK_FAILED (R283). -/
  | stkRprMarkFailed (vault : VaultId) (tier : BitVec 3) (store : BitVec 2) (index : BitVec 7)
  /-- STK_RPR_CLEAR_FAILED (R283). -/
  | stkRprClearFailed (vault : VaultId) (tier : BitVec 3) (store : BitVec 2) (index : BitVec 7)
  /-- STK_RPR_OP_REFUSED (R483). -/
  | stkRprOpRefused (vault : VaultId) (tier : BitVec 3) (store : BitVec 2) (index : BitVec 7) (op : BitVec 3)
  /-- KV_POOL_DEFINE (R286). -/
  | kvPoolDefine (pool : Byte)
  /-- KV_POOL_REMOVE (R287). -/
  | kvPoolRemove (pool : Byte)
  /-- KV_EPOCH_ADVANCE (R299). -/
  | kvEpochAdvance (agent : Agent) (pool : Byte)
  /-- KV_EPOCH_PUBLISH (R299). -/
  | kvEpochPublish (pool : Byte)
  /-- KV_WALK (R297). -/
  | kvWalk (core : CoreId) (strm : StreamId) (ticket : W64) (idx block : Nat)
  /-- KV_TREE_HASH (R301). -/
  | kvTreeHash (strm : StreamId) (pool : Byte) (slot : W32)
  /-- KV_TREE_LOOKUP (R303). -/
  | kvTreeLookup (strm : StreamId) (pool : Byte) (slot : W32)
  /-- KV_TREE_INSERT (R303). -/
  | kvTreeInsert (strm : StreamId) (pool : Byte) (slot : W32)
  /-- KV_TREE_RELEASE (R303). -/
  | kvTreeRelease (strm : StreamId) (pool : Byte) (slot : W32)
  /-- KV_TREE_EVICT (R303). -/
  | kvTreeEvict (strm : StreamId) (pool : Byte) (slot : W32)
  /-- KV_TREE_OP_REFUSED (R303). -/
  | kvTreeOpRefused (strm : StreamId) (pool : Byte) (slot : W32) (op : BitVec 3)
  /-- SCHED_LR_READ (R307). -/
  | schedLrRead (agent : Agent) (strm : StreamId)
  /-- SCHED_WRITE (R310). -/
  | schedWrite (strm : StreamId) (which : SchedReg) (v : W64)
  /-- VID_DB (R324). -/
  | vidDb (eng : EngineId)
  /-- VID_JOB_TAKE (R324). -/
  | vidJobTake (eng : EngineId)
  /-- VID_OPEN (R328). -/
  | vidOpen (eng : EngineId)
  /-- VID_FRAME_ENCODE (R333). -/
  | vidFrameEncode (eng : EngineId)
  /-- VID_FRAME_DECODE (R339). -/
  | vidFrameDecode (eng : EngineId) (ic : Nat)
  /-- VID_CLOSE (R328). -/
  | vidClose (eng : EngineId)
  /-- VID_JOB_COMPLETE (R344). -/
  | vidJobComplete (eng : EngineId)
  /-- VID_RING_WRITE (R346). -/
  | vidRingWrite (eng : EngineId) (cpl : Bool) (v : W64)
  /-- PORT_TRAIN (R349). -/
  | portTrain (port : PortId)
  /-- PORT_UP (R349). -/
  | portUp (port : PortId) (healthy : BitVec 4)
  /-- PORT_DOWN (R353). -/
  | portDown (port : PortId)
  /-- FLIT_RECEIVE (R352). -/
  | flitReceive (port : PortId) (fec : Option Nat) (flit : FlitBits)
  /-- FLIT_REPLAY (R352). -/
  | flitReplay (port : PortId) (ack : BitVec 12)
  /-- ACK_TIMER (R352). -/
  | ackTimer (port : PortId)
  /-- FAB_STALL (R354). -/
  | fabStall (port : PortId)
  /-- RD (R357). -/
  | rd (pkt : Packet)
  /-- RDL (R357). -/
  | rdl (pkt : Packet)
  /-- WR (R357). -/
  | wr (pkt : Packet)
  /-- WRL (R357). -/
  | wrl (pkt : Packet)
  /-- ATOM (R357). -/
  | atom (pkt : Packet)
  /-- DATA (R366). -/
  | data (pkt : Packet)
  /-- ACK (R365). -/
  | ack (pkt : Packet)
  /-- ERR (R366). -/
  | err (pkt : Packet)
  /-- NOTE (R356). -/
  | note (src : BitVec 16) (n : Notice)
  /-- PACKET_FORWARD (R359). -/
  | packetForward (pkt : Packet)
  /-- REMOTE_REQUEST_TIMEOUT (R364). -/
  | remoteRequestTimeout (tag : BitVec 13)
  /-- REFERENCE_NOTICE (R25). -/
  | referenceNotice (dev : BitVec 16) (index : BitVec 16) (inc : Bool)
  /-- FAB_JOIN (R371). -/
  | fabJoin
  /-- HELLO (R371). -/
  | hello (port : PortId) (info : HelloInfo)
  /-- JOIN (R371). -/
  | join (dev : BitVec 16) (pin : BitVec 17)
  /-- MEMBERSHIP_NOTICE (R370). -/
  | membershipNotice (epoch : W32) (change : Change)
  /-- MEMBERSHIP_ACK (R370). -/
  | membershipAck (dev : BitVec 16)
  /-- FAB_LEAVE (R373). -/
  | fabLeave
  /-- LEAVE (R373). -/
  | leave (dev : BitVec 16)
  /-- SUSPECT (R375). -/
  | suspect (dev : BitVec 16)
  /-- PING (R375). -/
  | ping (src : BitVec 16) (answer : Bool)
  /-- PING_TIMEOUT (R375). -/
  | pingTimeout (dev : BitVec 16)
  /-- FAB_RT_READ (R360). -/
  | fabRtRead (index : BitVec 16)
  /-- FAB_RT_WRITE (R360). -/
  | fabRtWrite (index : BitVec 16)
  /-- FAB_RT_OP_REFUSED (R483). -/
  | fabRtOpRefused (index : BitVec 16)
  /-- FAB_PORT_RETRAIN (R353). -/
  | fabPortRetrain (port : PortId)
  /-- FAB_CFG_WRITE (R372). -/
  | fabCfgWrite (v : W64)
  /-- STRM_JOB_WRITE (R379). -/
  | strmJobWrite (strm : StreamId) (pace : Bool) (v : W64)
  /-- CBL_PRSNT_CHANGE (R424). -/
  | cblPrsntChange (port : PortId) (level : Bool)
  /-- CBL_OVERLOAD (R424). -/
  | cblOverload (conn : BitVec 2)
  /-- WEIR_PERIOD (R383). -/
  | weirPeriod (inp : WeirInput)
  /-- CURRENT_EVAL (R383). -/
  | currentEval (volts amps : Nat)
  /-- STATIC_POWER_REFRESH (R383). -/
  | staticPowerRefresh (watts amps : Nat)
  /-- DROOP_STRETCH (R389). -/
  | droopStretch (island : BitVec 10)
  /-- LAG_NOTICE (R394). -/
  | lagNotice (job : BitVec 16)
  /-- PACE_NOTICE (R395). -/
  | paceNotice (job : BitVec 16) (floor : BitVec 6)
  /-- ENERGY_RECORD_SEND (R393). -/
  | energyRecordSend (job : BitVec 16)
  /-- ENERGY_RECORD_RECEIVE (R393). -/
  | energyRecordReceive (rec : BitVec 256)
  /-- WEIR_CAP_WRITE (R385). -/
  | weirCapWrite (v : W64)
  /-- WEIR_CFG_WRITE (R381). -/
  | weirCfgWrite (v : W64)
  /-- WEIR_ELOG_WRITE (R393). -/
  | weirElogWrite (v : W64)
  /-- BAR2_READ (R401). -/
  | bar2Read (off : Nat) (size : Nat)
  /-- BAR2_WRITE (R401). -/
  | bar2Write (off : Nat) (bytes : List Byte)
  /-- HIF_WIN_WRITE (R401). -/
  | hifWinWrite (v : W64)
  /-- HIF_RING_WRITE (R403). -/
  | hifRingWrite (which : RingReg) (v : W64)
  /-- DMA_TAIL_DOORBELL (R408). -/
  | dmaTailDoorbell (chan : ChanId) (v : W32)
  /-- DMA_DESCRIPTOR (R409). -/
  | dmaDescriptor (chan : ChanId) (desc : BitVec 256)
  /-- DMA_DESCRIPTOR_DONE (R409). -/
  | dmaDescriptorDone (chan : ChanId) (host : Option (List Byte))
  /-- DMA_RESTART (R410). -/
  | dmaRestart (chan : ChanId)
  /-- IRQ_PEND_CLEAR (R412). -/
  | irqPendClear (inst : Bool) (v : W64)
  /-- CONFIG_REQUEST (R443). -/
  | configRequest (req : CfgReq)
  /-- D3HOT_ENTER (R399). -/
  | d3hotEnter
  /-- D0_RETURN (R399). -/
  | d0Return
  /-- MCTP_MESSAGE (R414). -/
  | mctpMessage (typ : Byte) (eid : Byte) (body : List Byte)
  /-- SMBUS_PACKET (R422). -/
  | smbusPacket (pecOk : Bool) (typ : Byte) (eid : Byte) (body : List Byte)
  /-- SPDM_REQUEST (R466). -/
  | spdmRequest (req : SpdmReq) (smbus : Bool) (body : List Byte)
  /-- IDE_KM (R413). -/
  | ideKm (km : IdeKm)
  /-- IDE_INTEGRITY_FAIL (R413). -/
  | ideIntegrityFail (stream : BitVec 2)
  /-- VIN_RISE (R437). -/
  | vinRise (slotId : BitVec 4)
  /-- VIN_UNDERVOLT (R427). -/
  | vinUndervolt
  /-- VIN_OVERVOLT (R427). -/
  | vinOvervolt
  /-- PWR_EN_RISE (R421). -/
  | pwrEnRise (good : Bool)
  /-- PWR_EN_FALL (R421). -/
  | pwrEnFall
  /-- RAIL_OUT_OF_REGULATION (R421). -/
  | railOutOfRegulation
  /-- STARTUP_CONTINUE (R437). -/
  | startupContinue (inp : StartupInput)
  /-- PERST_ASSERT (R447). -/
  | perstAssert (slotId : BitVec 4)
  /-- PERST_RELEASE (R443). -/
  | perstRelease
  /-- FUNCTION_LEVEL_RESET (R449). -/
  | functionLevelReset
  /-- HOST_ACK (R444). -/
  | hostAck
  /-- BOOT_RCV_FETCH (R445). -/
  | bootRcvFetch (len : BitVec 25) (slot : Bool) (image : List Byte)
  /-- BOOT_RCV_OP_REFUSED (R483). -/
  | bootRcvOpRefused (len : BitVec 25) (slot : Bool)
  /-- FAULT_LATCH (R37). -/
  | faultLatch (f : FaultBit)
  /-- FAULT_RECORD (R457). -/
  | faultRecord
  /-- HANDSHAKE_TIMEOUT (R41). -/
  | handshakeTimeout (a b : BitVec 10) (strm : Option StreamId)
  /-- CLOCK_MONITOR_TRIP (R452). -/
  | clockMonitorTrip (island : BitVec 10)
  /-- LOCKSTEP_MISMATCH (R456). -/
  | lockstepMismatch
  /-- SECDED_SCRUB (R452). -/
  | secdedScrub (loc : SecdedAt)
  /-- LEVEE_LOCK_WRITE (R461). -/
  | leveeLockWrite (agent : Agent) (v : W64)
  /-- SEC_KEY_REVOKE (R462). -/
  | secKeyRevoke (slot : BitVec 2)
  /-- SEC_FLOOR_WRITE (R463). -/
  | secFloorWrite (v : W64)
  /-- SEC_FLOOR_STORED (R463). -/
  | secFloorStored
  /-- SAFE_CORE_CLEAR (R455). -/
  | safeCoreClear (cl : ClusterId) (mask : BitVec 16)
  /-- UNIT_GDEF_DEFINE (R24). -/
  | unitGdefDefine (index : BitVec 16)
  /-- UNIT_GDEF_REMOVE (R25). -/
  | unitGdefRemove (index : BitVec 16)
  /-- UNIT_GDEF_OP_REFUSED (R483). -/
  | unitGdefOpRefused (index : BitVec 16)
  /-- EVT_SEL_WRITE (R469). -/
  | evtSelWrite (c : CounterId) (v : W64)
  /-- EVT_CNT_WRITE (R473). -/
  | evtCntWrite (c : CounterId) (v : W64)
  /-- EVT_FREEZE (R473). -/
  | evtFreeze (on : Bool)
  /-- EVT_CLEAR (R473). -/
  | evtClear
  /-- DBG_HALT (R488). -/
  | dbgHalt (core : CoreId) (on : Bool)
  /-- DBG_STEP (R487). -/
  | dbgStep (core : CoreId) (ctx : BitVec 3)
  /-- REGISTER_WRITE (R482). -/
  | registerWrite (agent : Agent) (off : BitVec 26) (size8 : Bool) (v : W64)
  /-- NOMINAL_PERIOD_RETURN (R389). -/
  | nominalPeriodReturn (island : BitVec 10)
  /-- LANE_FAIL (R349). -/
  | laneFail (port : PortId) (healthy : BitVec 4)
  /-- REGISTER_READ (R481). -/
  | registerRead (agent : Agent) (off : BitVec 26) (size8 : Bool)
  deriving DecidableEq, Repr

end Sys2Proof
end

