-- ==== Sys2Proof/Config.lean ====
section
/-! DEFINITION. What an implementation fixes and what the manual leaves open: opaque constants with no body that any proof can see. -/

namespace Sys2Proof

/-- The class of the element a piece belongs to: it decides the flags of R57 (log 40, DESIGN CHOICE). -/
inductive PKind where
  | zero | fin (neg : Bool) | inf (neg : Bool) | nan
  deriving DecidableEq, Repr, Inhabited

/-- A piece as a cell holds it (R50, R74): its element's class, a 9-bit signed significand and a 10-bit exponent. -/
structure Piece where
  kind : PKind
  sig : BitVec 9
  exp : BitVec 10
  deriving DecidableEq, Repr, Inhabited

/-- What a cell's operand register holds: one piece, or in pair mode the elements of two reduction indices (R74, R75). -/
structure Cell where
  p : Piece
  q : Piece
  deriving DecidableEq, Repr, Inhabited

/-- The zero piece. -/
def Piece.zero : Piece := ⟨.zero, 0, 0⟩
/-- A cell register that holds zero pieces. -/
def Cell.zero : Cell := ⟨.zero, .zero⟩

/-! ### What video sessions read and code (R318, R333-R343) -/

/-- A motion vector in units of 1/8 sample (R337). -/
abbrev Vec := Int × Int

/-- What a FRAME job read: an encode job its coded picture (R333), the quantiser offsets (R334) and the hints (R337) of its
blocks; a decode job its bitstream and the offsets of its poisoned bytes. -/
inductive FrameIn where
  | picture (entry : BitVec 512) (planes : List (List Nat)) (offsets : List Int) (hints : List (List Vec))
  | unit (entry : BitVec 512) (bytes : List Byte) (bad : List Nat)
  deriving DecidableEq, Repr

/-- The coding tools of the table of R318, those marked "no" included. Sizes are log2 of the side. -/
inductive Tool where
  | partition (log2 : Nat) | amp
  | directional | smooth | paeth | chromaFromLuma | hevcIntra (mode : Nat)
  | palette | intraBlockCopy
  | single | compound | lowDelayB
  | obmc | warped | globalMotion
  | dct (log2 : Nat) | adst (log2 : Nat) | flipAdst (log2 : Nat) | identity (log2 : Nat) | dst (log2 : Nat) | transformSkip
  | deblocking | cdef | wiener | sao
  | selfGuided | superres | filmGrain
  deriving DecidableEq, Repr

/-- How a 16 by 16 block is coded: intra or by references and vectors, its quantiser, and the tools it uses. -/
structure BlockCode where
  intra : Bool
  preds : List (Nat × Vec)
  quant : Int
  tools : List Tool
  deriving DecidableEq, Repr

/-- A picture as coded: a key picture or not, its tile columns, and its blocks in raster order. -/
structure PictureCode where
  key : Bool
  tileCols : Nat
  blocks : List BlockCode
  deriving DecidableEq, Repr

/-- A part of a bitstream: an HEVC recovery point SEI with its recovery_poc_cnt, or a picture with the headers its standard asks for. -/
inductive CodedUnit where
  | recoveryPoint (pocCnt : Nat)
  | picture (p : PictureCode)
  deriving DecidableEq, Repr

/-- A sequence header or parameter set: profile, level and scan within R317, picture size, bit depth, frame stores and
reordering it asks for. -/
structure SeqHeader where
  fits : Bool
  w : Nat
  h : Nat
  depth10 : Bool
  stores : Nat
  reorder : Nat
  deriving DecidableEq, Repr, Inhabited

/-- A tile, slice or slice segment of a unit: its blocks in coding order, whether a decoder may resume at it (R340), an
error in its header, and the number of its blocks decoded before an error in its data. -/
structure UnitPart where
  blocks : List Nat
  resumes : Bool
  headBad : Bool
  stop : Option Nat
  deriving DecidableEq, Repr, Inhabited

/-- What the coding standard reads in a unit (R327, R339, R340). -/
structure UnitRead where
  consumed : Nat
  seq : Option SeqHeader
  seqBad : Bool
  frame : Bool
  frameBad : Bool
  key : Bool
  w : Nat
  h : Nat
  q : BitVec 8
  grain : Bool
  parts : List UnitPart
  deriving DecidableEq, Repr, Inhabited

/-- A decoded block: intra or with a vector in its standard's units, and the blocks of reference pictures in which samples lie that
it predicts from: reference, newest first, and block. -/
structure BlockRead where
  intra : Bool
  vec : Int × Int
  reads : List (Nat × Nat)
  deriving DecidableEq, Repr, Inhabited

/-- A coefficient of the polyphase filters, in units of 2^-32: luma or chroma, phase, tap (R333, log 15, DESIGN CHOICE). -/
opaque Config.scaleTap : Bool → Nat → Nat → Int

/-- The sample under the first tap and the phase of an output sample: luma or chroma, input and output size, output position (R333,
log 15, DESIGN CHOICE). -/
opaque Config.scaleAt : Bool → Nat → Nat → Nat → Int × Nat

/-- Whether a value between two whole ones is rounded up where the manual names no direction: occasion and numerator (log 15,
DESIGN CHOICE). -/
opaque Config.roundsUp : Nat → Int → Bool

/-- The quantiser that rate control gives a picture, by descriptor and FRAME jobs of the session (R329, R343, log 15, DESIGN CHOICE). -/
opaque Config.rateQuant : BitVec 1024 → List FrameIn → Int

/-- Whether the coder codes a block intra, by descriptor, jobs and block (R343, log 15, DESIGN CHOICE). -/
opaque Config.codesIntra : BitVec 1024 → List FrameIn → Nat → Bool

/-- The references a block predicts from, by descriptor, jobs and block (R318, log 15, DESIGN CHOICE). -/
opaque Config.blockRefs : BitVec 1024 → List FrameIn → Nat → List Nat

/-- The cost of predicting a block from a reference at a vector, by descriptor, jobs, block, reference and vector (R336, log 15, DESIGN CHOICE). -/
opaque Config.matchCost : BitVec 1024 → List FrameIn → Nat → Nat → Vec → Nat

/-- The tools the coder would use on a block (R318, log 15, DESIGN CHOICE). -/
opaque Config.blockTools : BitVec 1024 → List FrameIn → Nat → List Tool

/-- The bytes the coding standard gives a part of a bitstream, by descriptor and jobs (R318, log 15, DESIGN CHOICE). -/
opaque Config.codeUnit : BitVec 1024 → List FrameIn → CodedUnit → List Byte

/-- What an encoder leaves in a buffer too short for its picture (R345, log 15, DESIGN CHOICE). -/
opaque Config.cutStream : BitVec 1024 → List FrameIn → List Byte

/-- What the coding standard reads in the last of a session's units, by descriptor and jobs (R339, R343, log 15, DESIGN CHOICE). -/
opaque Config.readUnit : BitVec 1024 → List FrameIn → UnitRead

/-- How the coding standard predicts a block of that unit (R342, log 15, DESIGN CHOICE). -/
opaque Config.readBlock : BitVec 1024 → List FrameIn → Nat → BlockRead

/-- A sample the coding standard decodes from that unit, by plane and position (R343, log 15, DESIGN CHOICE). -/
opaque Config.readSample : BitVec 1024 → List FrameIn → Nat → Nat → Nat → Nat

/-- A sample with AV1 film grain, by plane, position and decoded sample (R319, log 15, DESIGN CHOICE). -/
opaque Config.grained : BitVec 1024 → List FrameIn → Nat → Nat → Nat → Nat → Nat

/-- A decoded 8-bit sample as a 10-bit one of P010 (R332, log 15, DESIGN CHOICE). -/
opaque Config.widened : Nat → Nat

/-! ### Cores, memory and units -/

/-- The stationary piece of cell (row, column) of a pattern of the riffle pattern store (R94, log 54, DESIGN CHOICE). -/
opaque Config.katPiece : Nat → Nat → Nat → Cell

/-- The streaming element of a row in vector v of an array's vector set of a pattern (R94, log 54, DESIGN CHOICE). -/
opaque Config.katVector : Nat → Nat → Nat → Nat → Cell

/-- The weight of one unit of the check accumulators of a pattern (R94, log 54, DESIGN CHOICE). -/
opaque Config.katBase : Nat → Int

/-- An array's linear feedback generator n steps after a value (R90, log 54, DESIGN CHOICE). -/
opaque Config.lfsrAfter : Nat → W32 → W32

/-- The streaming element of a row of a dummy vector: generator value and target density in 1/256 (R90, log 54, DESIGN CHOICE). -/
opaque Config.dummyCell : W32 → Nat → Nat → Cell

/-- The result, as an fp32 value, of an output of m.resample whose input has no position (R209, R216, log 55, DESIGN CHOICE). -/
opaque Config.emptyInput : Nat → W32

/-- Rate and cycle of a schedule whose registers R310 would refuse and R308 gives no result for, of the four schedule registers
(R307, log 45, DESIGN CHOICE). -/
opaque Config.schedFree : W64 → W64 → W64 → BitVec 48 → W32 × BitVec 16

/-- A fresh 64-bit free value, numbered by State.freeCtr (log 2, DESIGN CHOICE). -/
opaque Config.freeWord : Nat → W64

/-- A fresh free byte of memory whose content the manual calls unspecified (R264, log 11, DESIGN CHOICE). -/
opaque Config.freeByte : Nat → Nat → Byte

/-- Where the free cut of one output interval of a special function of at most 1 ulp (R194, R195) lies:
function, register format, lower neighbour; the upper neighbour is written from this fraction (in 2^-32)
of the interval of exact results on (log 12, DESIGN CHOICE). -/
opaque Config.sfuCut : Nat → Nat → Nat → Nat

/-- The error a function stage of the welt makes within the bound of R160, by chain and its inputs (mantissas and
exponents in turn), in units of 2^-64 of the bound; the model clamps it (log 13, DESIGN CHOICE). -/
opaque Config.weltError : Nat → List Int → Int

/-- The digest of the public key that a signing key slot holds, fused at manufacture (R462, log 9, PRESUMED). -/
opaque Config.keyDigest : Nat → BitVec 384

/-- Whether a signing key slot is provisioned at manufacture (SEC_KEY.provisioned, log 9, PRESUMED). -/
opaque Config.keyProvisioned : Nat → Bool

/-- Whether a signing key slot's revoke fuse is already blown (SEC_KEY.revoke, log 9, PRESUMED). -/
opaque Config.keyRevoked : Nat → Bool

/-- The unique secret in the fuses of a device (R464, log 57, DESIGN CHOICE). -/
opaque Config.uniqueSecret : BitVec 384

/-- Salt and info that HKDF-SHA-384 takes for the identity key (false) and the alias key (true) (R464, log 57, DESIGN CHOICE). -/
opaque Config.kdfSalt : Bool → List Byte
opaque Config.kdfInfo : Bool → List Byte

/-- The nonce of an ECDSA signature, of the key and the digest signed (log 57, DESIGN CHOICE). -/
opaque Config.signNonce : Nat → Nat → Nat

/-- Certificates of manufacture: root, intermediate and identity, of the identity public key (R465, log 57, DESIGN CHOICE). -/
opaque Config.madeCert : Nat → Nat × Nat → List Byte

/-- The part of an alias certificate that is signed: alias public key, image digest and svn (R464, R465, log 57, DESIGN CHOICE). -/
opaque Config.aliasBody : Nat × Nat → List Byte → Nat → List Byte

/-- A certificate of a signed part and its signature in DER (R465, log 57, DESIGN CHOICE). -/
opaque Config.certOf : List Byte → Nat × Nat → List Byte

/-- How a rollback floor and its seal lie in their 64 bytes (R465, log 57, DESIGN CHOICE). -/
opaque Config.floorRecord : BitVec 16 → Nat × Nat → List Byte

/-- The boot ROM's digest (R467, log 57, DESIGN CHOICE). -/
opaque Config.romDigest : BitVec 384

/-- What the standard has the responder sign of an exchange: request and reply (R466, R467, log 16, DESIGN CHOICE). -/
opaque Config.signedPart : List Byte → List Byte → List Byte

/-- The place of the Device Serial Number capability: double words from 0x100, where the extended configuration space of the standard
begins (R399, log 16, PRESUMED). -/
opaque Config.serialAt : Nat

/-- The leaf cores that a software group of another device expands to: device, descriptor index (R13, R21, log 14, DESIGN CHOICE). -/
opaque Config.remoteLeaves : Nat → Nat → List (Nat × Nat)

/-- Whether a software group index is defined on another device (R19, R24, log 14, DESIGN CHOICE). -/
opaque Config.remoteDefined : Nat → Nat → Bool

/-- Whether a remote group's member tree reaches a group of this device: device, index, own index (R24 step 6, log 14, DESIGN CHOICE). -/
opaque Config.remoteReaches : Nat → Nat → Nat → Bool

/-- LAST_CFG.ls_reserve of a cluster of another device: device and cluster (R140, log 14, DESIGN CHOICE). -/
opaque Config.remoteReserve : Nat → Nat → Nat

/-- A byte of another device's memory as a tile or a scan reads it: question number and global address (log 14, DESIGN CHOICE). -/
opaque Config.remoteByte : Nat → Nat → Byte

/-- The scale byte of an MX operand C, for which the manual names no scale role (R138, R166, log 30, DESIGN CHOICE): row, block. -/
opaque Config.scaleC : Nat → Nat → Byte

/-- Whether a core of another device is fenced when asked (R455, log 14, DESIGN CHOICE): question number, device, core. -/
opaque Config.remoteFenced : Nat → Nat → Nat → Bool

/-- A response body of the SPDM or MCTP responder that its standard fixes and the manual does not repeat
(R414, R466, log 16, DESIGN CHOICE): request type and payload. -/
opaque Config.responseBody : Nat → List Byte → List Byte

end Sys2Proof
end

