-- ==== Sys2Proof/Machine/Codes.lean ====
section
/-! DEFINITION. Error codes (R475) and event codes (R474). -/

namespace Sys2Proof.Machine

/-! Error codes of R475. -/
abbrev eState : Code := 0x0001
abbrev eCommand : Code := 0x0002
abbrev eHandle : Code := 0x0003
abbrev eBusy : Code := 0x0004
abbrev eBounds : Code := 0x0005
abbrev eAlign : Code := 0x0006
abbrev eOperand : Code := 0x0007
abbrev eFormat : Code := 0x0008
abbrev eEncoding : Code := 0x0009
abbrev eCycle : Code := 0x000A
abbrev eOverlap : Code := 0x000B
abbrev eImage : Code := 0x000C
abbrev eLanes : Code := 0x000D
abbrev eShape : Code := 0x000E
abbrev eCoreFenced : Code := 0x000F
abbrev eReset : Code := 0x0010
abbrev eNoise : Code := 0x0011
abbrev eFuseMenu : Code := 0x0020
abbrev eFuseLong : Code := 0x0021
abbrev eFilter : Code := 0x0022
abbrev eVqHeader : Code := 0x0023
abbrev eStaleGen : Code := 0x0024
abbrev eKvPage : Code := 0x0025
abbrev eKvUnmapped : Code := 0x0026
abbrev eKvTreeFull : Code := 0x0027
abbrev eVidLevel : Code := 0x0030
abbrev eVidSyntax : Code := 0x0031
abbrev eFabUnreach : Code := 0x0040
abbrev eFabRoute : Code := 0x0041
abbrev eFabWindow : Code := 0x0042
abbrev eFabTimeout : Code := 0x0043
abbrev eFabDup : Code := 0x0044
abbrev eFabSplit : Code := 0x0045
abbrev eFabLost : Code := 0x0046
abbrev eFabStall : Code := 0x0047
abbrev eLinkDown : Code := 0x0048
abbrev eHostDma : Code := 0x0050
abbrev eIde : Code := 0x0051
abbrev eBoot : Code := 0x0060
abbrev eBootImage : Code := 0x0061
abbrev eBootSig : Code := 0x0062
abbrev eBootRollback : Code := 0x0063
abbrev eBootHw : Code := 0x0064
abbrev eResidue : Code := 0x0080
abbrev eSecded : Code := 0x0081
abbrev eStackUe : Code := 0x0082
abbrev eStackTier : Code := 0x0083
abbrev eRiffleKat : Code := 0x0084
abbrev eRiffleLate : Code := 0x0085
abbrev eVecKat : Code := 0x0086
abbrev eHandshake : Code := 0x0087
abbrev eClock : Code := 0x0088
abbrev eLockstep : Code := 0x0089
abbrev eSensor : Code := 0x008A
abbrev eNoiseHealth : Code := 0x008B
abbrev eThermalTrip : Code := 0x008C

/-! Event codes: consecutive from the block base (R474). -/
abbrev evNone : Nat := 0x00
abbrev evCoreIc : Nat := 0x01
abbrev evClusterIc : Nat := 0x02
abbrev evSeqIssue : Nat := 0x03
abbrev evSeqIdleIc : Nat := 0x04
abbrev evMiIssued : Nat := 0x05
abbrev evMiRetired : Nat := 0x06
abbrev evDispIssued : Nat := 0x07
abbrev evTilesClaimed : Nat := 0x08
abbrev evTilesRetired : Nat := 0x09
abbrev evTilesReissued : Nat := 0x0A
abbrev evMergeAdds : Nat := 0x0B
abbrev evOrderWaitIc : Nat := 0x0C
abbrev evFenceWaitIc : Nat := 0x0D
abbrev evMwaitIc : Nat := 0x0E
abbrev evHeldAtBound : Nat := 0x0F
abbrev evEmptyGroupIssue : Nat := 0x10
abbrev evLoaderRefused : Nat := 0x11
abbrev evCmdCompleted : Nat := 0x12
abbrev evCmdRefusedState : Nat := 0x13
abbrev evRegWriteRefused : Nat := 0x14
abbrev evLeveeWriteDenied : Nat := 0x15
abbrev evFaultsLatched : Nat := 0x16
abbrev evSpillBytes : Nat := 0x17
abbrev evImageBytes : Nat := 0x18
abbrev evArrayGapIc : Nat := 0x20
abbrev evRiffleDummyIc : Nat := 0x21
abbrev evFrontWaitIc : Nat := 0x22
abbrev evShortPassGapIc : Nat := 0x23
abbrev evWeltWaitIc : Nat := 0x24
abbrev evRiffleKat : Nat := 0x25
abbrev evRiffleKatForced : Nat := 0x26
abbrev evWeltVecIc : Nat := 0x28
abbrev evWeltSfuWaitIc : Nat := 0x29
abbrev evTeamWaitIc : Nat := 0x2A
abbrev evWeltRebase : Nat := 0x2B
abbrev evWeltStepwise : Nat := 0x2C
abbrev evVecIssue : Nat := 0x30
abbrev evVecLaneOps : Nat := 0x31
abbrev evVecFp32Flush : Nat := 0x32
abbrev evVecNanMade : Nat := 0x33
abbrev evVecWaitIc : Nat := 0x34
abbrev evSfuResults : Nat := 0x35
abbrev evSfuLaneWait : Nat := 0x36
abbrev evSfuContendIc : Nat := 0x37
abbrev evWelfordSteps : Nat := 0x38
abbrev evNoiseSeedsDrawn : Nat := 0x40
abbrev evNoiseHealthFail : Nat := 0x41
abbrev evRngWords : Nat := 0x42
abbrev evSampleRows : Nat := 0x43
abbrev evSampleNone : Nat := 0x44
abbrev evDeltaBlocksCoded : Nat := 0x48
abbrev evDeltaBlocksRaw : Nat := 0x49
abbrev evDeltaBytesIn : Nat := 0x4A
abbrev evDeltaLowRatio : Nat := 0x4B
abbrev evDeltaStallIc : Nat := 0x4C
abbrev evDeltaCopyWaitIc : Nat := 0x4D
abbrev evDeltaGenWaitIc : Nat := 0x4E
abbrev evStackRdLines : Nat := 0x50
abbrev evStackWrLines : Nat := 0x51
abbrev evStackTurn : Nat := 0x52
abbrev evStackBankConflict : Nat := 0x53
abbrev evStackHotNs : Nat := 0x54
abbrev evStackCe : Nat := 0x55
abbrev evStackUe : Nat := 0x56
abbrev evCchHit : Nat := 0x57
abbrev evCchMiss : Nat := 0x58
abbrev evCchStreamBypass : Nat := 0x59
abbrev evCchKeepDemote : Nat := 0x5A
abbrev evCchEvictFirst : Nat := 0x5B
abbrev evCchCtlBad : Nat := 0x5C
abbrev evAwlReq : Nat := 0x5D
abbrev evAwlHit : Nat := 0x5E
abbrev evAwlAtomic : Nat := 0x5F
abbrev evKvLabHit : Nat := 0x60
abbrev evKvLabMiss : Nat := 0x61
abbrev evKvXlatHit : Nat := 0x62
abbrev evKvXlatMiss : Nat := 0x63
abbrev evKvEpochDrop : Nat := 0x64
abbrev evKvWalkWaitIc : Nat := 0x65
abbrev evKvTreeOps : Nat := 0x66
abbrev evSchedEvals : Nat := 0x68
abbrev evSchedBadWrite : Nat := 0x69
abbrev evPresSkipTiles : Nat := 0x6A
abbrev evVidJobs : Nat := 0x70
abbrev evVidJobRefused : Nat := 0x71
abbrev evVidBlocks : Nat := 0x72
abbrev evVidBusyIc : Nat := 0x73
abbrev evVidRingWait : Nat := 0x74
abbrev evVidOutFull : Nat := 0x75
abbrev evVidSyntaxErr : Nat := 0x76
abbrev evVidConcealBlocks : Nat := 0x77
abbrev evFabTxFlits : Nat := 0x78
abbrev evFabRxFlits : Nat := 0x79
abbrev evFabFecCorr : Nat := 0x7A
abbrev evFabCrcRetry : Nat := 0x7B
abbrev evFabLinkDown : Nat := 0x7C
abbrev evFabCreditWaitIc : Nat := 0x7D
abbrev evFabRemoteReq : Nat := 0x7E
abbrev evFabLineHold : Nat := 0x7F
abbrev evFabTimeout : Nat := 0x80
abbrev evFabLateRsp : Nat := 0x81
abbrev evFabBadPkt : Nat := 0x82
abbrev evFabWindowRefused : Nat := 0x83
abbrev evFabDeadMember : Nat := 0x84
abbrev evWeirBubbleSlots : Nat := 0x88
abbrev evDroopStretchIc : Nat := 0x89
abbrev evUpstreamWaitIc : Nat := 0x8A
abbrev evLagNotice : Nat := 0x8B
abbrev evPaceApplied : Nat := 0x8C
abbrev evElogDrop : Nat := 0x8D
abbrev evHifDbBad : Nat := 0x90
abbrev evHifBadAccess : Nat := 0x91
abbrev evHifDmaBytes : Nat := 0x92
abbrev evHifCplWait : Nat := 0x93

/-- Domains an event belongs to (R469, R474). `held` is HELD_AT_BOUND: core for qualifiers 0 to 4, device for 5 to 7. -/
inductive EvDomain where
  | core | cluster | device | port | engine | island | held
  deriving DecidableEq, Repr

/-- The domain of an event code; none for a code the catalogue does not assign. Code 0 counts nothing and every level
may select it. -/
def evDomain (ev : Nat) : Option EvDomain :=
  if ev = 0x0F then some .held
  else if ev = 0x01 ∨ (0x03 ≤ ev ∧ ev ≤ 0x09) ∨ (0x0D ≤ ev ∧ ev ≤ 0x0E) ∨ ev = 0x10 ∨ (0x20 ≤ ev ∧ ev ≤ 0x26) ∨ (0x28 ≤ ev ∧ ev ≤ 0x2C) ∨ (0x30 ≤ ev ∧ ev ≤ 0x38) ∨ (0x42 ≤ ev ∧ ev ≤ 0x44) ∨ (0x4C ≤ ev ∧ ev ≤ 0x4E) ∨ ev = 0x65 ∨ ev = 0x8A then some .core
  else if ev = 0x02 ∨ ev = 0x0A ∨ ev = 0x0C ∨ ev = 0x11 ∨ (0x40 ≤ ev ∧ ev ≤ 0x41) ∨ (0x48 ≤ ev ∧ ev ≤ 0x4B) ∨ (0x50 ≤ ev ∧ ev ≤ 0x64) then some .cluster
  else if ev = 0x0B ∨ (0x12 ≤ ev ∧ ev ≤ 0x18) ∨ ev = 0x66 ∨ (0x68 ≤ ev ∧ ev ≤ 0x6A) ∨ (0x7E ≤ ev ∧ ev ≤ 0x84) ∨ (0x8B ≤ ev ∧ ev ≤ 0x8D) ∨ (0x90 ≤ ev ∧ ev ≤ 0x93) then some .device
  else if (0x78 ≤ ev ∧ ev ≤ 0x7D) then some .port
  else if (0x70 ≤ ev ∧ ev ≤ 0x77) then some .engine
  else if (0x88 ≤ ev ∧ ev ≤ 0x89) then some .island
  else none

end Sys2Proof.Machine
end

