-- ==== Sys2Proof/Machine/State.lean ====
section
/-! DEFINITION. The state of one Svetell as plain data, the reasons a step stops, and the state after reset. -/

namespace Sys2Proof.Machine

/-- Reasons to stop with a fault. No meaning of this model raises one: every refusal and fault of the manual is an
effect on the state (R109, R475). `absent` is kept for an access to state the manual says does not exist; safe. -/
inductive Fault where
  | absent
  deriving DecidableEq, Repr

/-- Reasons to refuse a command. `notModelled` stands in an arm of exec without a meaning; safe.
`undefinedEncoding` is raised by a sequencer or vector form that LOAD refuses (R125, R127, R128), which only a
restored, unchecked program can reach (R479) and for which the manual gives no effect; safe. -/
inductive Refusal where
  | notModelled (mnemonic : String)
  | undefinedEncoding
  deriving DecidableEq, Repr

/-- Stream states of R107. -/
inductive SState where
  | empty | bound | loaded | running | paused | draining | faulted
  deriving DecidableEq, Repr

/-- An exact accumulator (R54, R57, R58). -/
structure Acc where
  a : BitVec 608
  nan : Bool
  pinf : Bool
  ninf : Bool
  res : BitVec 3
  deriving DecidableEq, Repr

/-- The empty accumulator. -/
def Acc.zero : Acc := ⟨0, false, false, false, 0⟩

/-- What a question of a context was about: a ticket, a block, work that has to retire, a fence's scope. -/
inductive Asked where
  | ticket
  | block
  | work
  | scope (fn : FenceFn)
  deriving DecidableEq, Repr

/-- What a context waits for (R106, R126, R131, R153). `idle` is a block context without a block; `asked` waits for an
answer of the stream's device (log 28, DESIGN CHOICE). -/
inductive Wait where
  | idle
  | ready
  | stopped
  | bound (qual : Nat)
  | mwait (ticket : W64)
  | fence (fn : FenceFn) (tickets blocks : List W64)
  | remote (tag : BitVec 13)
  | asked (what : Asked)
  deriving DecidableEq, Repr

/-- A block dispatched to a context (R105). -/
structure Block where
  ticket : W64
  addr : W64
  args : List W64
  rank : Nat
  deriving DecidableEq, Repr

/-- A context slot (R101-R105, R221, R222). `dev` is the device of the stream that reserved it; the seed, counter stream,
leaf count, job and checked program of the stream stand beside its registers, as every device with leaf cores holds them.
`stopping` stops the context at its next instruction boundary (R109, R119), `pausing` a lead context at its next
macro-instruction boundary (R119); `granted` is the answer that an instruction asked for and has not used yet. -/
structure Ctx where
  used : Bool
  dev : BitVec 16
  strm : StreamId
  lead : Bool
  seed : W64
  cstream : BitVec 6
  leafCount : Nat
  codeBase : W64
  codeLen : W64
  pc : W64
  sreg : Table W64
  pred : Table Bool
  vreg : Table W32
  vsr : Nat
  rank : Nat
  wait : Wait
  stopping : Bool
  job : BitVec 16
  blocks : List Block
  pausing : Bool := false
  granted : Option W64 := none
  deriving DecidableEq, Repr

/-- A free context slot. -/
def Ctx.free : Ctx := ⟨false, 0, 0, false, 0, 0, 0, 0, 0, 0, [], [], [], 0, 0, .idle, false, 0, [], false, none⟩

/-- A dispatched block of a stream that has not ended: ticket, unit, leaves it still runs on (R103, R131). -/
structure Disp where
  ticket : W64
  handle : W32
  leaves : List (Nat × Nat)
  deriving DecidableEq, Repr

/-- A macro-instruction of a stream that another device publishes (R144). -/
structure FarMi where
  ticket : W64
  dev : BitVec 16
  leaves : List (Nat × Nat)
  deriving DecidableEq, Repr

/-- A stream slot (R30, R107): the binding, the program, tickets and blocks, pools whose epoch it advanced (R299), energy. Of its
work on other devices: macro-instructions published there, questions not answered yet, the registers of block contexts by rank
as they were when their last block ended, devices that have not answered a pause, and entries of what they publish. Of the
interval of R393: the energy when it began, the ns in it with a bubble on a core island of the stream, and those ns by reason. -/
structure Stream where
  state : SState
  drainPaused : Bool
  prompt : Bool
  dirty : Bool
  lastErr : Code
  estate : BitVec 16
  errArg : W64
  handle : W32
  lead : CoreId
  leaves : List (Nat × Nat)
  prio : BitVec 2
  seed : W64
  cstream : BitVec 6
  spillAddr : BitVec 48
  spillLen : W64
  codeAddr : BitVec 48
  codeLen : W64
  entry : W64
  nextMi : W64
  nextDisp : W64
  disps : List Disp
  epochs : List Byte
  energy : W64
  farMis : List FarMi := []
  asks : List (BitVec 16 × CtxId × Ask) := []
  farRecs : Table (List Byte) := []
  farPend : List Nat := []
  farEntries : List (List Byte) := []
  told : W64 := 0
  thrNs : Nat := 0
  thrBy : Table Nat := []
  deriving DecidableEq, Repr

/-- What this device holds about a stream of another device that has contexts here: its priority (R31), pools here whose
epoch it advanced (R299), and whether it is to pause, promptly or not, and has not answered yet (R119). -/
structure FarStream where
  dev : BitVec 16
  strm : StreamId
  prio : BitVec 2
  epochs : List Byte
  pausing : Option Bool
  deriving DecidableEq, Repr

/-- The per-stream registers that have resets of their own: schedule (R312), tree (R303), job and pacing (R379), rings (R415).
`ringFence` and `ringSave` are the FENCE and the SAVE to another device in progress: tag, index, state found or value. -/
structure StreamRegs where
  schedProg : W64
  schedParam : W64
  schedShape : W64
  schedStep : BitVec 48
  schedErr : Code
  treePool : Byte
  treeSlot : W32
  treeArg0 : W64
  treeArg1 : W64
  treeStatus : W64
  job : W64
  paceMatch : Bool
  cmdRing : W64
  cplRing : W64
  cmdHead : BitVec 16
  cmdTail : BitVec 16
  cplWr : BitVec 16
  cplHead : BitVec 16
  cplPhase : Bool
  held : List (BitVec 256)
  cplWaiting : Bool
  ringFence : Option (W32 × BitVec 16 × SState)
  ringSave : Option (W32 × BitVec 16 × W64) := none
  deriving DecidableEq, Repr

/-- A stream slot that is EMPTY since reset. -/
def Stream.empty : Stream :=
  ⟨.empty, false, false, false, 0, 0, 0, 0, 0, [], 0, 0, 0, 0, 0, 0, 0, 0, 0, 0, [], [], 0, [], [], [], [], [], 0, 0, []⟩

/-- Reset values of the stream registers (22_register_map.md, stream registers). -/
def StreamRegs.reset : StreamRegs :=
  ⟨0x10, 0, 0x3F80000000000000, 0, 0, 0, 0, 0, 0, 0, 0, false, 4, 4, 0, 0, 0, 0, true, [], false, none, none⟩

/-- A value of the welt's format W (R159): signed significand and exponent. -/
abbrev WVal := Int × Int

/-- Statistics in W of the blocks of a row combined so far (R171): columns, mean and m2, maximum and the sum of exp(x - max),
and the sum of x² of chain 17. -/
structure RowStat where
  n : Nat
  mean : WVal
  m2 : WVal
  mx : WVal
  se : WVal
  sq : WVal
  deriving DecidableEq, Repr

/-- The statistics of one whole row of a team tile that the cluster welt holds (R170-R173): batch, row, the statistics, and
whether an x of the row is not finite. -/
structure TeamRow where
  batch : Nat
  row : Nat
  stat : RowStat
  odd : Bool
  deriving DecidableEq, Repr

/-- A row of m.mm2 between its blocks (R176, R178): row of the tile, M, the integer l in units of the base of the second
product, whether a score was not finite, the codes in fmt_p of the block that streams against C. -/
structure AttnRow where
  row : Nat
  m : Option Int
  l : Int
  odd : Bool
  p : List Nat
  deriving DecidableEq, Repr

/-- A look-aside entry of the walker or the translation unit (R297): pool, sequence or virtual page, index, epoch,
value, start position. Most recently used first in its list. -/
structure LabEntry where
  pool : Byte
  seq : Nat
  idx : Nat
  epoch : BitVec 16
  val : W64
  start : Nat
  deriving DecidableEq, Repr

/-- The last page that a tile's walker cursor found (R297): its entry, its first position and length, whether a private page stood
before it, and whether it is private itself (R291). -/
structure PageCursor where
  idx : Nat
  start : Nat
  len : Nat
  before : Bool
  self : Bool
  deriving DecidableEq, Repr

/-- The lookups of one score block of a tile (R297, R298, R300): the first position not covered yet (walker mode), the granules
still to look up, each with the position it is for (translated mode), the entries whose reads are in flight, the entries
the block uses, and whether every lookup has been made. -/
structure KvWalk where
  block : Nat
  want : Nat
  todo : List (Nat × Nat)
  fly : List LabEntry
  ents : List LabEntry
  made : Bool
  deriving DecidableEq, Repr

/-- An outstanding macro-instruction (R134-R149, R153): identity, issuing core, unit, descriptor and records, where its
counter lies, tile shape, counter, order wait and scans, stop and fault, the tiles published where not all are, progress
units, histogram bins, PRES_OUT blocks, pinned clusters, pool, merge slots by output block, merged parts, and team rows.
`prio` is the priority of its stream (R31); `offered` counts the leaves that had their first offer (R146); `taken`
lists published indices that tiles stopped by a prompt pause hold (R119, R479).
`home` is the device of its stream; `here` tells that this device publishes its counter, else it holds tiles of a counter
that another device publishes (R144). -/
structure MI where
  strm : StreamId
  ticket : W64
  home : BitVec 16
  here : Bool
  seed : W64
  cstream : BitVec 6
  core : CoreId
  handle : W32
  leaves : List (Nat × Nat)
  desc : BitVec 256
  recs : List (BitVec 512)
  atDevice : Bool
  cluster : Nat
  slot : Nat
  tm : Nat
  tk : Nat
  nm : Nat
  nn : Nat
  chunks : Nat
  parts : Nat
  team : Nat
  total : Nat
  next : Nat
  returned : List Nat
  out : List (Nat × Nat)
  claimed : Nat
  retired : Nat
  waiting : Bool
  scanned : Bool
  stopped : Bool
  faulted : Bool
  pub : Option (List Nat)
  units : List Nat
  hist : Table Nat
  present : List Nat
  pins : List Nat
  pool : Option Nat
  mergeSlots : List (Nat × Nat)
  mergeDone : List (Nat × Nat)
  teamRows : List TeamRow
  prio : BitVec 2 := 0
  offered : Nat := 0
  taken : List Nat := []
  deriving DecidableEq, Repr

/-- A row of a tile read out and not yet written (R88, R149): its row in the tile, the bytes it writes, the histogram
bins of its outputs, the PRES_OUT blocks that received a nonzero output, and whether m.sample found no token (R231). -/
structure RowOut where
  row : Nat
  writes : List (Nat × List Byte)
  hist : List Nat
  nonzero : List Nat
  noTok : Bool := false
  deriving DecidableEq, Repr

/-- A tile a core holds (R146, R153): its macro-instruction, index, whether it has started, loads streamed, loads
whose VQ block is decoded, whether the verdict of a known-answer load is owed before readout (R97), rows read out, score
blocks of m.mm2 taken by the welt and their rows (R176), accumulators read back from its leaf section after a prompt pause and
not yet in the core's (R119), whether a part of another device's counter has gone to its merge slot and come back as the last
(R143), whether its wait for room to write was counted (R153). -/
structure Tile where
  home : BitVec 16
  strm : StreamId
  ticket : W64
  idx : Nat
  started : Bool
  loads : Nat
  decoded : List Nat
  katOwed : Bool
  outs : List RowOut
  blk : Nat := 0
  rows2 : List AttnRow := []
  walks : List KvWalk := []
  cursor : Option PageCursor := none
  saved : Option (Table Acc) := none
  asked : Bool := false
  merged : Bool := false
  waited : Bool := false
  deriving DecidableEq, Repr

/-- A load of a tile, as the arrays know it. -/
structure LoadId where
  home : BitVec 16
  strm : StreamId
  ticket : W64
  idx : Nat
  load : Nat
  deriving DecidableEq, Repr

/-- Tag of the vector in act (R74). -/
inductive VTag where
  | real | dummy | kat
  deriving DecidableEq, Repr

/-- Riffle known-answer state of a core (R94, R95). -/
inductive Kat where
  | idle | due | forced | running
  deriving DecidableEq, Repr

/-- The cells of a core's arrays and their timing (R73-R87). `cur`, `nxt` and `ld` hold the stationary pieces by row x 64 +
column, the same in the four arrays (R79): in use, for the next load, and in load lanes that wait for nxt_v to clear (R87);
`nxtOf` and `ldOf` tell whose they are, `nxtV` is nxt_v. `act` holds the streaming elements of the vector that entered last, by array x 32 +
row, `tag` its tag, `psum` by array x 64 + column what left row 31 for it. Fronts in array ic: of the last load, of the last
real load, and the lane start of the load in nxt. `gapSeen` counts the ic of the present gap already counted. -/
structure Arrays where
  cur : Table Cell
  nxt : Table Cell
  nxtV : Bool
  nxtOf : Option LoadId
  ld : Table Cell
  ldOf : Option LoadId
  act : Table Cell
  tag : VTag
  psum : Table Acc
  frontF : Nat
  frontM : Nat
  laneS : Nat
  realF : Nat
  realM : Nat
  gapSeen : Nat
  lastStrm : Option StreamId
  lastHome : BitVec 16
  deriving DecidableEq, Repr

/-- Arrays after reset. -/
def Arrays.reset : Arrays := ⟨[], [], false, .none, [], .none, [], .real, [], 0, 0, 0, 0, 0, 0, .none, 0⟩

/-- Riffle of a core (R90-R98, R455): generators by array, densities of the last real vectors in 1/256, steps of the ramp,
generator periods since the last passed known-answer load, its state, pattern and check accumulators (by array x 64 +
column), what the cobbler saw at its last snapshot, and when kat_seq last moved there, and the ic of dummy and known-answer
vectors of this weir period by the stream they are charged to (R99). -/
structure Riffle where
  lfsr : Table W32
  density : List Nat
  rampStep : BitVec 4
  periods : Nat
  kat : Kat
  pattern : BitVec 4
  check : Table Acc
  katLast : W64
  snapKat : BitVec 24
  snapPass : BitVec 32
  snapAt : W64
  ics : List (Option StreamId × Nat) := []
  deriving DecidableEq, Repr

/-- Riffle after reset. -/
def Riffle.reset : Riffle := ⟨[], [], 0, 0, .idle, 0, [], 0, 0, 0, 0, []⟩

/-- Charge ic of dummy or known-answer vectors to a stream, to none where no stream is known (R99). -/
def Riffle.charge (r : Riffle) (st : Option StreamId) (n : Nat) : Riffle :=
  if n = 0 then r
  else { r with ics := (r.ics.filter fun e => decide (e.1 ≠ st)) ++ [(st, ((r.ics.filter fun e => decide (e.1 = st)).map Prod.snd).sum + n)] }

/-- An enabled core (R73-R100, R455, R487): its arrays, accumulators by array x 4096 + column x 64 + entry, those of the
vector lanes by lane x 16 + position (R213), tiles, riffle (`mustKat`: the next load is a known-answer load; `katGate`:
claims wait for one, R455), whether its wait for a claim and for room in the awl was counted (R153), fence, debug. -/
structure Core where
  arr : Arrays
  acc : Table Acc
  lanes : Table Acc
  tiles : List Tile
  rif : Riffle
  katFail : BitVec 4
  katSeq : BitVec 24
  passSeq : BitVec 32
  copyBuf : List (BitVec 3 × BitVec 16)
  claimWait : Bool
  fenced : Bool
  mustKat : Bool
  katGate : Bool
  residueAt : Option W64
  halt : Bool
  dbgCtx : BitVec 3
  cycles : Nat
  deriving DecidableEq, Repr

/-- A core after reset. -/
def Core.reset : Core :=
  ⟨.reset, [], [], [], .reset, 0, 0, 0, [], false, false, false, false, none, false, 0, 0⟩

/-- States of a codebook generation slot (R244). -/
inductive GenState where
  | empty | loading | resident | retiring
  deriving DecidableEq, Repr

/-- A codebook generation slot (R243, R244): the tag, the image header fields and the element codes. -/
structure GenSlot where
  st : GenState
  gen : BitVec 16
  fmt : BitVec 5
  bits : Nat
  dim : Nat
  elems : List Nat
  pins : BitVec 16
  deriving DecidableEq, Repr

/-- An empty generation slot. -/
def GenSlot.empty : GenSlot := ⟨.empty, 0, 0, 0, 0, [], 0⟩

/-- A layer slot of a cluster's delta (R244): two generation slots, which holds the earlier load, the pending load, and
which slot (true for g1) the pending load waits for. -/
structure LayerSlot where
  g0 : GenSlot
  g1 : GenSlot
  older : Bool
  pending : Option GenSlot
  want : Bool
  deriving DecidableEq, Repr

/-- Retention class of a cache line (R269). -/
inductive LineClass where
  | normal | keep | evictFirst
  deriving DecidableEq, Repr

/-- A present cache line (R269): class, use count, touch tag, recency stamp, and for a dirty line the stack bytes
beneath it and whether the stack line is poisoned there. -/
structure Line where
  cls : LineClass
  count : BitVec 16
  tag : BitVec 16
  stamp : Nat
  shadow : Option (List Byte × Bool)
  deriving DecidableEq, Repr

/-- The health tests of a noise source between two raw bits (R226): the last bit and how often it came in a row, the first bit of the
window, how often it recurred, bits of the window so far. -/
structure Health where
  last : Bool
  run : Nat
  first : Bool
  seen : Nat
  pos : Nat
  deriving DecidableEq, Repr

/-- The tests before the first raw bit. -/
def Health.reset : Health := ⟨false, 0, false, 0, 0⟩

/-- A cluster: its registers, noise source, delta, cache, look-aside buffers, grant round and welt. -/
structure Cluster where
  riffleCfg : W32
  lastCfg : W32
  cchCfg : W32
  awlCfg : W32
  coreSpare : W64
  healthy : Bool
  starting : Bool
  rctFail : Bool
  aptFail : Bool
  pool : List W64
  failCount : BitVec 16
  delta : Table LayerSlot
  lines : Table (Option Line)
  stamp : Nat
  walkLab : List LabEntry
  xlatLab : List LabEntry
  round : Table Nat
  health : Health := .reset
  decTurn : BitVec 4 := 0
  deriving DecidableEq, Repr

/-- An unused layer slot. -/
def LayerSlot.empty : LayerSlot := ⟨.empty, .empty, false, none, false⟩

/-- A cluster after reset (22_register_map.md, cluster registers). -/
def Cluster.reset : Cluster :=
  ⟨0x0E100201, 0x900, 0xC, 0x2000, 0, false, true, false, false, [], 0, [], [], 0, [], [], [], .reset, 0⟩

/-- A vault (STK_VAULT_STATUS, R280). -/
structure Vault where
  hot : Bool
  failed : BitVec 6
  suspect : BitVec 6
  ce : BitVec 16
  ceTier : BitVec 6
  ue : BitVec 16
  patrol : Nat
  probed : BitVec 6
  deriving DecidableEq, Repr

/-- A vault after reset. -/
def Vault.reset : Vault := ⟨false, 0, 0, 0, 0, 0, 0, 0⟩

/-- A software group descriptor (R20) with the member entries read at definition (R25); `far` tells how many of its references
other devices hold (R374). -/
structure Group where
  defined : Bool
  listAddr : BitVec 48
  members : List W64
  leafCount : Nat
  refs : W32
  far : Table Nat
  bound : BitVec 7
  deriving DecidableEq, Repr

/-- An undefined descriptor. -/
def Group.none : Group := ⟨false, 0, [], 0, 0, [], 0⟩

/-- A key-value pool (R285-R287, R299). -/
structure Pool where
  defined : Bool
  img : BitVec 512
  epoch : BitVec 16
  pend : BitVec 16
  users : BitVec 16
  deriving DecidableEq, Repr

/-- An undefined pool. -/
def Pool.none : Pool := ⟨false, 0, 0, 0, 0⟩

/-- A decoded picture: size, bit depth, planes in raster order, and by block the vector and the taint. -/
structure Pic where
  w : Nat
  h : Nat
  depth10 : Bool
  planes : List (List Nat)
  vecs : List (Option (Int × Int))
  taint : List Bool
  deriving DecidableEq, Repr

/-- What a decoder discards data up to: nothing, a sequence header it accepts, or a key picture after one (R319). -/
inductive Discard where
  | nothing | header | key
  deriving DecidableEq, Repr

/-- An open session of a video engine: its descriptor (R328), pictures numbered so far, pictures since the last key picture (R338), whether
it has a reference, and what its FRAME jobs read, oldest first (R343); an encoder's reference pictures' vectors by block, a decoder's
decoded pictures, both newest first; a decoder's active sequence header and what it waits for. -/
structure Session where
  desc : BitVec 1024
  pictures : Nat
  sinceKey : Nat
  hasRef : Bool
  past : List FrameIn
  refs : List (List (Option Vec))
  pics : List Pic
  seq : Option SeqHeader
  want : Discard
  deriving DecidableEq, Repr

/-- A session just opened. -/
def Session.new (d : BitVec 1024) : Session := ⟨d, 0, 0, false, [], [], [], none, .nothing⟩

/-- A job in progress on a video engine: its entry, start time and the outcome its completion record will carry. -/
structure Job where
  entry : BitVec 512
  tStart : W64
  status : Code
  cycle : BitVec 16
  bytes : W32
  picture : W32
  kind : Byte
  q : Byte
  blocksA : W32
  blocksB : W32
  finished : Bool
  deriving DecidableEq, Repr

/-- A video engine (R323-R347). -/
structure Engine where
  ring : W64
  cpl : W64
  head : BitVec 16
  waiting : Bool
  job : Option Job
  lastErr : Code
  refused : BitVec 16
  withheld : Bool
  sessions : Table (Option Session)
  deriving DecidableEq, Repr

/-- A video engine after reset. -/
def Engine.reset : Engine :=
  ⟨0x0004000000000000, 0x0004000000000000, 0, false, none, 0, 0, false, []⟩

/-- Link states of a fabric port (FAB_PORT_STATUS). -/
inductive Link where
  | down | training | up4 | up2
  deriving DecidableEq, Repr

/-- A fabric port (R348-R354): link, neighbour, sequence numbers, replay buffer (oldest first, with the packets each
flit carries), credits of VC0 to VC2 in use (R354), packets waiting for one, resends of the oldest flit, data flits accepted since the
last ack. -/
structure Port where
  enable : Bool
  link : Link
  nbr : BitVec 16
  nbrValid : Bool
  nbrHw : Option (BitVec 16)
  foreign : Bool
  splitTold : Bool
  retries : BitVec 16
  downs : BitVec 16
  rxNext : BitVec 12
  txNext : BitVec 12
  replay : List (BitVec 12 × List Packet)
  resends : Nat
  unacked : Nat
  used : Table Nat
  queue : List Packet
  rxSlots : List (BitVec 128)
  deriving DecidableEq, Repr

/-- A fabric port after reset. -/
def Port.reset : Port := ⟨true, .down, 0, false, .none, false, false, 0, 0, 0, 0, [], 0, 0, [], [], []⟩

/-- What lines of other devices are read for (R362): the scans of a macro-instruction, its histogram record, or a step of
tile idx, numbered n. -/
inductive FarPart where
  | scan
  | hist
  | load (idx n : Nat)
  | row (idx n : Nat)
  | block (idx n : Nat)
  | team (idx n : Nat)
  deriving DecidableEq, Repr

/-- A macro-instruction and what it reads lines of other devices for. -/
structure FarUse where
  home : BitVec 16
  strm : StreamId
  ticket : W64
  part : FarPart
  deriving DecidableEq, Repr

/-- A line of another device, by its global line number, that a macro-instruction reads (R362): whether its RDL is sent, and its
bytes once the answer is here. -/
structure FarLine where
  use : FarUse
  line : Nat
  asked : Bool
  got : Option (List Byte)
  deriving DecidableEq, Repr

/-- Who made an outstanding remote request (R363, R366). -/
inductive Requester where
  | ctxLoad (cx : CtxId) (d : Reg) (size8 : Bool)
  | ctxStore (dev : BitVec 16) (strm : StreamId) (cx : CtxId)
  | ctxAtomic (cx : CtxId) (d : Reg)
  | macroWrite (home : BitVec 16) (strm : StreamId) (ticket : W64)
  | farRead (use : FarUse) (line : Nat)
  | bar2 (off : Nat) (size : Nat)
  | dma (ch : Nat)
  | dmaRead (ch : Nat) (off skip n : Nat)
  | save (strm : StreamId)
  | posted
  deriving DecidableEq, Repr

/-- An outstanding remote request (R363): the packet sent, who waits, whether it was given up (R402). -/
structure Req where
  pkt : Packet
  who : Requester
  dropped : Bool
  deriving DecidableEq, Repr

/-- A job (R378, R394, R395): its headwater, what each device that holds streams of it reports to the system headwater
(its pin if all its streams agree, whether all match, the other devices of its leaf cores), the members and policy as the
headwater told them, whether energy records are one a job (R393), the lags the job headwater knows, the pacing floor in
force, and the fraction this device last told while lagging and when; whether its local fraction is above 8/64 and since when
(R394); the throttle ns of its streams' core islands in the interval of R393, in all and by reason. -/
structure JobInfo where
  hw : BitVec 16
  reports : List (Nat × Option (BitVec 16) × Bool × List Nat)
  members : List Nat
  matchAll : Bool
  whole : Bool
  lags : List (Nat × BitVec 6)
  floor : BitVec 6
  told : Option (BitVec 6)
  toldAt : W64 := 0
  isOver : Bool := false
  since : W64 := 0
  thrNs : Nat := 0
  thrBy : Table Nat := []
  deriving DecidableEq, Repr

/-- A job nobody has joined. -/
def JobInfo.none : JobInfo := ⟨0, [], [], false, false, [], 0, .none, 0, false, 0, 0, []⟩

/-- Fabric registers and membership of the device (R348-R380). `waiting` holds requests of the host port that wait for a
tag or a line (R361, R363), `helloHw` is the headwater that neighbours name to a joiner,
`sent` tells that JOIN or LEAVE has gone out, `changes` are those a headwater has to publish, the first in progress while
`ackWait` names members that have not acknowledged it. -/
structure Fab where
  cfg : W64
  mstate : MState
  isHw : Bool
  done : Bool
  hw : BitVec 16
  err : Code
  epoch : W32
  live : Table Bool
  routes : Table W64
  rtIndex : BitVec 16
  rtDone : Bool
  rtErr : Code
  rtData : W64
  inwin : Table W64
  reqs : Table (Option Req)
  waiting : List Req
  helloHw : Option (BitVec 16)
  sent : Bool
  ackWait : List Nat
  changes : List Change
  suspects : List Nat
  jobs : Table JobInfo
  deriving DecidableEq, Repr

/-- Fabric registers after reset: timeout 0x064 in [44:33] (FAB_CFG). -/
def Fab.reset : Fab :=
  ⟨0xC800000000, .out, false, false, 0, 0, 0, [], [], 0, false, 0, 0, [], [], [], none, false, [], [], [], []⟩

/-- A temperature sensor (R381, R382, R388): reading in 0.25 °C, marks, periods off its neighbours, periods 5 °C over. -/
structure Sensor where
  temp : BitVec 12
  failed : Bool
  above : Bool
  off : Nat
  hot : Nat
  deriving DecidableEq, Repr

/-- A sensor after reset. -/
def Sensor.reset : Sensor := ⟨0, false, false, 0, 0⟩

/-- The weir (R381-R397). `exc` is X in ns; `fracT` the largest temperature term of each island by its index of R469 with its
reason, `fracP` and `fracI` the power and current terms; `meanK` the sum of k over the 512 enabled core islands; static
power in W and static current in 10 mA. `tripping` holds every island at 56/64 after a thermal trip (R388). -/
structure Weir where
  cap : W64
  cfg : W64
  kmax : BitVec 6
  reason : BitVec 4
  trip : Bool
  exc : Nat
  excStuck : Bool
  elogHead : BitVec 16
  meter : W64
  sensors : Table Sensor
  reasonNs : Table W64
  elog : W64
  fracT : Table (Nat × BitVec 4)
  fracP : Nat
  fracI : Nat
  stretched : List Nat
  stretchSeen : Bool
  staticP : Nat
  staticI : Nat
  meanK : Nat
  tripping : Bool
  coolNs : Nat
  deriving DecidableEq, Repr

/-- The weir after reset. -/
def Weir.reset : Weir :=
  ⟨0x1C80, 0x28100A0A06, 0, 0, false, 2000000, false, 0, 0, [], [], 0x0004000000000000, [], 0, 0, [], false, 0, 0, 0, false, 0⟩

/-- A DMA channel (R408-R410): ring and write-back registers, head, tail, halt; the transfers started and not completed;
`sent` tells that the oldest one has sent its remote lines and waits for their answers, `got` holds bytes that came by their
offset; `asked` counts its read requests outstanding at the host, `owed` those the bound of R411 keeps back. -/
structure Chan where
  ring : W64
  wb : W64
  head : BitVec 16
  started : BitVec 16
  tail : BitVec 16
  halted : Bool
  err : Code
  work : List (BitVec 256)
  sent : Bool
  got : Table Byte := []
  asked : Nat := 0
  owed : Nat := 0
  deriving DecidableEq, Repr

/-- A DMA channel after reset. -/
def Chan.reset : Chan := ⟨4, 0, 0, 0, 0, false, 0, [], false, [], 0, 0⟩

/-- An IDE stream (R413). -/
structure Ide where
  enabled : Bool
  keyed : Bool
  secure : Bool
  deriving DecidableEq, Repr

/-- The host port (R398-R416) and the management endpoints over PCI Express and SMBus (R414, R422, R466). `held` and
`msixHeld` are writes and messages that wait for the return from D3hot (R399). Of MSI-X: Enable, Function Mask, the vectors
whose mask bit is clear, and the vectors whose message waits for that (R412, log 53, PRESUMED). `readLog2` is the exponent of the
maximum read request size, `turn` the DMA channel whose turn of the link comes next (R398, R411). -/
structure Hif where
  win : W64
  irqMap : Table W32
  pend : BitVec 88
  dma : Table Chan
  linkUp : Bool
  d3hot : Bool
  bar2Log2 : Nat
  held : List (W64 × List Byte)
  msixHeld : List (BitVec 11)
  msixEn : Bool
  msixMask : Bool
  vecOpen : Table Bool
  msixPba : List (BitVec 11)
  ide : Table Ide
  eid : Byte
  eidSmb : Byte
  sessions : Nat
  readLog2 : Nat := 9
  turn : Nat := 0
  deriving DecidableEq, Repr

/-- The host port after reset. -/
def Hif.reset : Hif := ⟨0, [], 0, [], false, false, 28, [], [], false, false, [], [], [], 0, 0, 0, 9, 0⟩

/-- Module pins and power (R418-R432). -/
structure Pins where
  standby : Bool
  pwrEn : Bool
  pwrGood : Bool
  perst : Bool
  thermTrip : Bool
  corePower : Bool
  slotId : BitVec 4
  prsnt : BitVec 32
  cblOff : BitVec 4
  deriving DecidableEq, Repr

/-- Phases of BOOT_STATUS. -/
inductive Phase where
  | rom | image | rails | repair | stack | sparing | selftest | ready | running | failed | recovery
  deriving DecidableEq, Repr

/-- Start-up state (R433-R451). `flrAt` is the time at which a function-level reset began that waits for remote requests (R449). -/
structure Boot where
  phase : Phase
  imageOk : Bool
  slot : Bool
  lastReset : BitVec 3
  err : Code
  svn : BitVec 16
  rcvAddr : W64
  rcvLen : BitVec 25
  rcvSlot : Bool
  rcvDone : Bool
  rcvErr : Code
  flash : Table Byte
  flrAt : Option W64 := none
  deriving DecidableEq, Repr

/-- Levee bits, debug enable, keys, floor (R461-R463). `revoked` holds revocations written since manufacture, `bootKey` the private
alias key that MC2 derived at this boot (R464). -/
structure Sec where
  levee : BitVec 4
  dbgEn : Bool
  revoked : BitVec 4
  floor : BitVec 16
  floorPend : Option (BitVec 16)
  floorDone : Bool
  bootKey : Option Nat := none
  deriving DecidableEq, Repr

/-- Fault collection (R37, R457-R459): the latch holds each bit with its class of R454 and its time. -/
structure Flt where
  latch : List (FaultBit × BitVec 8 × W64)
  records : Table (BitVec 512)
  read : Table Bool
  next : W32
  overrun : BitVec 16
  ring : W64
  lockstep : Bool
  hold : Bool
  deriving DecidableEq, Repr

/-- Event counters (R468-R473), by counter number of Ops. -/
structure Evt where
  sel : Table W64
  cnt : Table (BitVec 49)
  freeze : Bool
  pend : Table Nat := []
  snapAt : Table W64 := []
  deriving DecidableEq, Repr

/-- A register set whose operations take time (R29, R256, R304, STK_RPR_CTL, KV_TREE_STATUS, BOOT_RCV_CTL). -/
inductive RegSet where
  | gdef | delta | rpr | pool | rcv
  | tree (i : StreamId)
  deriving DecidableEq, Repr

/-- An operation that a write of an op field started, with its own copy of the fields of that register (R28, R256, R287,
R299, R303, R281, R445). A host's advance is in progress as `poolPublish` until its epoch is published. -/
inductive RegOp where
  | gdefDefine (index : BitVec 16)
  | gdefRemove (index : BitVec 16)
  | deltaLoad (slot : BitVec 3) (gen : BitVec 16) (mask : W32)
  | deltaRetire (slot : BitVec 3) (gen : BitVec 16) (mask : W32)
  | rprOp (op : BitVec 3) (vault : VaultId) (tier : BitVec 3) (store : BitVec 2) (index : BitVec 7)
  | poolDefine (pool : Byte)
  | poolRemove (pool : Byte)
  | poolAdvance (who : Agent) (pool : Byte)
  | poolPublish (pool : Byte)
  | treeOp (op : BitVec 3) (i : StreamId) (pool : Byte) (slot : W32)
  | rcvFetch (len : BitVec 25) (slot : Bool)
  deriving DecidableEq, Repr

/-- The register set of an operation. -/
def RegOp.set : RegOp → RegSet
  | .gdefDefine _ => .gdef
  | .gdefRemove _ => .gdef
  | .deltaLoad _ _ _ => .delta
  | .deltaRetire _ _ _ => .delta
  | .rprOp _ _ _ _ _ => .rpr
  | .poolDefine _ => .pool
  | .poolRemove _ => .pool
  | .poolAdvance _ _ => .pool
  | .poolPublish _ => .pool
  | .treeOp _ i _ _ => .tree i
  | .rcvFetch _ _ => .rcv

/-- Group, delta, stack repair and pool register sets of the device. -/
structure DevRegs where
  gdefSrc : BitVec 48
  gdefIndex : BitVec 16
  gdefDone : Bool
  gdefErr : Code
  deltaSrc : BitVec 48
  deltaSlot : BitVec 3
  deltaGen : BitVec 16
  deltaMask : W32
  deltaDone : Bool
  deltaErr : Code
  deltaRefused : W32
  ilv : BitVec 6
  stkCtl : W32
  rprVault : VaultId
  rprTier : BitVec 3
  rprStore : BitVec 2
  rprIndex : BitVec 7
  rprDone : Bool
  rprErr : Code
  rprData : W64
  kvSrc : BitVec 48
  kvPool : Byte
  kvDone : Bool
  kvErr : Code
  deriving DecidableEq, Repr

/-- Their reset values (22_register_map.md). -/
def DevRegs.reset : DevRegs :=
  ⟨0, 0, false, 0, 0, 0, 0, 0xFFFFFFFF, false, 0, 0, 0x10, 0x02580024, 0, 0, 0, 0, false, 0, 0, 0, 0, false, 0⟩

/-- An answer to a request on the host port or the management endpoint (R402, R414, R422, R443, R466). -/
inductive Reply where
  | value (v : W64)
  | bytes (b : List Byte)
  | unsupported
  | completerAbort
  | poisoned (b : List Byte)
  | retryStatus
  | spdmError (kind : String)
  | message (typ : Byte) (b : List Byte)
  deriving DecidableEq, Repr

/-- A management notice this device sends (R356): destination and content. -/
inductive Sent where
  | notice (dst : Nat) (n : Notice)
  | reference (dst : Nat) (index : BitVec 16) (inc : Bool)
  | hello (port : Nat) (info : HelloInfo)
  | join (dst : Nat)
  | leave (dst : Nat)
  | member (dst : Nat) (epoch : W32) (c : Change)
  | memberAck (dst : Nat)
  | ping (dst : Nat) (ports : List Nat)
  | pong (dst : Nat)
  | suspect (dst : Nat) (dev : Nat)
  | lag (dst : Nat) (job : BitVec 16) (k : BitVec 6) (clear : Bool)
  | pace (dst : Nat) (job : BitVec 16) (floor : BitVec 6)
  | paceAck (dst : Nat) (job : BitVec 16)
  | energy (dst : Nat) (rec : BitVec 256)
  | range (dst : Nat) (strm : StreamId) (ticket : W64) (tiles : List Nat)
  | nak (port : Nat) (ack : BitVec 12)
  | ackFlit (port : Nat) (ack : BitVec 12)
  | credits (port vc slots : Nat)
  | resend (port : Nat) (seqs : List (BitVec 12))
  deriving DecidableEq, Repr

/-- What the device has sent, oldest first (log 3, DESIGN CHOICE). -/
structure Out where
  hostWrites : List (W64 × List Byte)
  msix : List (BitVec 11)
  replies : List Reply
  packets : List (Nat × Packet)
  sent : List Sent
  deriving DecidableEq, Repr

/-- One Svetell, and the commands waiting for it. `mem` lists the coherent bytes (R260) that differ from what an unlisted
address reads; `unspec` lists, newest first, which address ranges [lo, hi) hold unspecified bytes (after a STACK_ILV change,
R264, or KILL, R122) and the free number of each (log 11, DESIGN CHOICE); `ops` lists the register operations queued or
running, first started first (log 50, DESIGN CHOICE). -/
structure State where
  pending : List Instr
  freeCtr : Nat
  ops : List RegOp
  out : Out
  mem : List (Nat × Byte)
  unspec : List (Nat × Nat × Nat)
  poison : Table Bool
  upsets : List SymbolUpset
  time : W64
  timeHi : Option W32
  streams : Table Stream
  sregs : Table StreamRegs
  fars : List FarStream
  ctxs : Table Ctx
  mis : List MI
  farBuf : List FarLine
  merge : Table Acc
  cores : Table Core
  clusters : Table Cluster
  devRound : Table Nat
  vaults : Table Vault
  repairs : Table W64
  groups : Table Group
  pools : Table Pool
  engines : Table Engine
  ports : Table Port
  dev : DevRegs
  fab : Fab
  weir : Weir
  hif : Hif
  pins : Pins
  boot : Boot
  sec : Sec
  flt : Flt
  evt : Evt
  deriving DecidableEq, Repr

/-- The machine after loss of all power, before VIN rises (R447; log 8, DESIGN CHOICE): every register at its reset value. -/
def State.reset : State where
  pending := []
  freeCtr := 0
  ops := []
  out := ⟨[], [], [], [], []⟩
  mem := []
  unspec := []
  poison := []
  upsets := []
  time := 0
  timeHi := none
  streams := []
  sregs := []
  fars := []
  ctxs := []
  mis := []
  farBuf := []
  merge := []
  cores := []
  clusters := []
  devRound := []
  vaults := []
  repairs := []
  groups := []
  pools := []
  engines := []
  ports := []
  dev := .reset
  fab := .reset
  weir := .reset
  hif := .reset
  pins := ⟨false, false, false, false, false, false, 0, 0, 0⟩
  boot := ⟨.rom, false, false, 0, 0, 0, 0, 0, false, false, 0, [], none⟩
  sec := ⟨0, false, 0, 0, none, false, none⟩
  flt := ⟨[], [], [], 0, 0, 4, false, false⟩
  evt := ⟨[], [], false, [], []⟩

end Sys2Proof.Machine
end

