-- ==== Sys2Proof/Machine/Table.lean ====
section
/-! DEFINITION. Reading and writing sparse tables and the canonical memory list. -/

namespace Sys2Proof.Machine

/-- The entry of instance n, or the reset value d. -/
def tget {α : Type} (d : α) : Table α → Nat → α
  | [], _ => d
  | (k, v) :: t, n => if n < k then d else if n = k then v else tget d t n

/-- Give instance n the value v. -/
def tput {α : Type} : Table α → Nat → α → Table α
  | [], n, v => [(n, v)]
  | (k, w) :: t, n, v =>
    if n < k then (n, v) :: (k, w) :: t
    else if n = k then (n, v) :: t
    else (k, w) :: tput t n v

/-- Change instance n by f. -/
def tmod {α : Type} (d : α) (t : Table α) (n : Nat) (f : α → α) : Table α :=
  tput t n (f (tget d t n))

/-- The byte at address a; an unlisted address reads as d says. -/
def mget (d : Nat → Byte) : List (Nat × Byte) → Nat → Byte
  | [], a => d a
  | (k, v) :: t, a => if a < k then d a else if a = k then v else mget d t a

/-- Store byte b at address a, keeping the canonical form: rising addresses, no listed byte an unlisted one would read. -/
def mput (d : Nat → Byte) : List (Nat × Byte) → Nat → Byte → List (Nat × Byte)
  | [], a, b => if b = d a then [] else [(a, b)]
  | (k, v) :: t, a, b =>
    if a < k then (if b = d a then (k, v) :: t else (a, b) :: (k, v) :: t)
    else if a = k then (if b = d a then t else (a, b) :: t)
    else (k, v) :: mput d t a b

/-- Every listed address is at least lo, addresses rise strictly, and no listed byte is the one an unlisted address reads. -/
def wfFrom (d : Nat → Byte) : Nat → List (Nat × Byte) → Bool
  | _, [] => true
  | lo, (k, v) :: t => decide (lo ≤ k) && decide (v ≠ d k) && wfFrom d (k + 1) t

/-- The canonical form of memory. -/
def Memory.wf (d : Nat → Byte) (m : List (Nat × Byte)) : Bool := wfFrom d 0 m

/-- n bytes from address a. -/
def mread (d : Nat → Byte) (m : List (Nat × Byte)) (a : Nat) : Nat → List Byte
  | 0 => []
  | n + 1 => mget d m a :: mread d m (a + 1) n

/-- Store bytes from address a on. -/
def mwrite (d : Nat → Byte) (m : List (Nat × Byte)) (a : Nat) : List Byte → List (Nat × Byte)
  | [] => m
  | b :: bs => mwrite d (mput d m a b) (a + 1) bs

/-- Drop every listed byte of addresses in [lo, hi). -/
def mclear (m : List (Nat × Byte)) (lo hi : Nat) : List (Nat × Byte) :=
  m.filter fun e => decide (e.1 < lo) || decide (hi ≤ e.1)

/-- The number that bytes spell, little-endian (R7). -/
def leNat : List Byte → Nat
  | [] => 0
  | b :: bs => b.toNat + 256 * leNat bs

/-- The n low bytes of a number, little-endian (R7). -/
def leBytes : Nat → Nat → List Byte
  | 0, _ => []
  | n + 1, v => BitVec.ofNat 8 (v % 256) :: leBytes n (v / 256)

/-- Bits [lo + w - 1 : lo] of a word as a number. -/
def bits {n : Nat} (x : BitVec n) (lo w : Nat) : Nat := x.toNat / 2 ^ lo % 2 ^ w

/-- Bit i of a word. -/
def bit {n : Nat} (x : BitVec n) (i : Nat) : Bool := decide (x.toNat / 2 ^ i % 2 = 1)

/-- x with bits [lo + w - 1 : lo] set to v. -/
def setBits {n : Nat} (x : BitVec n) (lo w v : Nat) : BitVec n :=
  BitVec.ofNat n (x.toNat - bits x lo w * 2 ^ lo + v % 2 ^ w * 2 ^ lo)

/-- A number that fits w bits in two's complement, as an integer. -/
def signed (w v : Nat) : Int := if v % 2 ^ w < 2 ^ (w - 1) then (v % 2 ^ w : Nat) else ((v % 2 ^ w : Nat) : Int) - 2 ^ w

/-- An integer modulo 2^w. -/
def wrapNat (w : Nat) (v : Int) : Nat := (v % (2 ^ w : Nat)).toNat

/-- Bit of a truth value. -/
def b2n (b : Bool) : Nat := if b then 1 else 0

/-- Smallest multiple of m that is at least n. -/
def roundUp (n m : Nat) : Nat := (n + m - 1) / m * m

/-- Quotient rounded up; 0 for divisor 0. -/
def ceilDiv (n m : Nat) : Nat := (n + m - 1) / m

/-- Saturating increment of a 16-bit count. -/
def satInc (x : BitVec 16) : BitVec 16 := if x = 0xFFFF then x else x + 1

/-- Do f for each number below n in rising order. -/
def forN {σ : Type} (n : Nat) (f : Nat → σ → σ) (s : σ) : σ :=
  (List.range n).foldl (fun s i => f i s) s

end Sys2Proof.Machine
end

