-- ==== Sys2Proof/Machine/Ops.lean ====
section
/-! DEFINITION. The named operations every meaning shares: instance accessors, free values, event counting, interrupt
causes, completion entries, faults. -/

namespace Sys2Proof.Machine

/-- The three outcomes of a command. -/
abbrev Res := Host.Outcome State Fault Refusal

/-! ### Instances -/

/-- Stream slot i. -/
def State.strm (s : State) (i : StreamId) : Stream := tget .empty s.streams i.toNat
/-- Replace stream slot i. -/
def State.setStrm (s : State) (i : StreamId) (x : Stream) : State := { s with streams := tput s.streams i.toNat x }
/-- Change stream slot i. -/
def State.modStrm (s : State) (i : StreamId) (f : Stream → Stream) : State := s.setStrm i (f (s.strm i))
/-- The registers of stream i. -/
def State.sreg (s : State) (i : StreamId) : StreamRegs := tget .reset s.sregs i.toNat
/-- Replace the registers of stream i. -/
def State.setSreg (s : State) (i : StreamId) (x : StreamRegs) : State := { s with sregs := tput s.sregs i.toNat x }
/-- Change the registers of stream i. -/
def State.modSreg (s : State) (i : StreamId) (f : StreamRegs → StreamRegs) : State := s.setSreg i (f (s.sreg i))
/-- Context slot. -/
def State.ctx (s : State) (c : CtxId) : Ctx := tget .free s.ctxs c.toNat
/-- Replace a context slot. -/
def State.setCtx (s : State) (c : CtxId) (x : Ctx) : State := { s with ctxs := tput s.ctxs c.toNat x }
/-- Change a context slot. -/
def State.modCtx (s : State) (c : CtxId) (f : Ctx → Ctx) : State := s.setCtx c (f (s.ctx c))
/-- Logical core c. -/
def State.core (s : State) (c : Nat) : Core := tget .reset s.cores c
/-- Replace a core. -/
def State.setCore (s : State) (c : Nat) (x : Core) : State := { s with cores := tput s.cores c x }
/-- Change a core. -/
def State.modCore (s : State) (c : Nat) (f : Core → Core) : State := s.setCore c (f (s.core c))
/-- Cluster c. -/
def State.cluster (s : State) (c : Nat) : Cluster := tget .reset s.clusters c
/-- Replace a cluster. -/
def State.setCluster (s : State) (c : Nat) (x : Cluster) : State := { s with clusters := tput s.clusters c x }
/-- Change a cluster. -/
def State.modCluster (s : State) (c : Nat) (f : Cluster → Cluster) : State := s.setCluster c (f (s.cluster c))
/-- Vault v. -/
def State.vault (s : State) (v : Nat) : Vault := tget .reset s.vaults v
/-- Change a vault. -/
def State.modVault (s : State) (v : Nat) (f : Vault → Vault) : State :=
  { s with vaults := tput s.vaults v (f (s.vault v)) }
/-- Software group descriptor i. -/
def State.group (s : State) (i : Nat) : Group := tget .none s.groups i
/-- Change a group descriptor. -/
def State.modGroup (s : State) (i : Nat) (f : Group → Group) : State :=
  { s with groups := tput s.groups i (f (s.group i)) }
/-- Pool p. -/
def State.pool (s : State) (p : Nat) : Pool := tget .none s.pools p
/-- Change a pool. -/
def State.modPool (s : State) (p : Nat) (f : Pool → Pool) : State := { s with pools := tput s.pools p (f (s.pool p)) }
/-- Video engine e. -/
def State.engine (s : State) (e : Nat) : Engine := tget .reset s.engines e
/-- Change a video engine. -/
def State.modEngine (s : State) (e : Nat) (f : Engine → Engine) : State :=
  { s with engines := tput s.engines e (f (s.engine e)) }
/-- Fabric port p. -/
def State.port (s : State) (p : Nat) : Port := tget .reset s.ports p
/-- Change a fabric port. -/
def State.modPort (s : State) (p : Nat) (f : Port → Port) : State := { s with ports := tput s.ports p (f (s.port p)) }
/-- DMA channel d. -/
def State.chan (s : State) (d : Nat) : Chan := tget .reset s.hif.dma d
/-- Change a DMA channel. -/
def State.modChan (s : State) (d : Nat) (f : Chan → Chan) : State :=
  { s with hif := { s.hif with dma := tput s.hif.dma d (f (s.chan d)) } }
/-- Sensor x. -/
def State.sensor (s : State) (x : Nat) : Sensor := tget .reset s.weir.sensors x
/-- Change a sensor. -/
def State.modSensor (s : State) (x : Nat) (f : Sensor → Sensor) : State :=
  { s with weir := { s.weir with sensors := tput s.weir.sensors x (f (s.sensor x)) } }

/-- This device's number (FAB_CFG.device). -/
def State.own (s : State) : Nat := bits s.fab.cfg 0 16
/-- The core of a context slot. -/
def ctxCore (c : CtxId) : Nat := c.toNat / 8
/-- Slot k of core c. -/
def ctxOf (c k : Nat) : CtxId := BitVec.ofNat 12 (c * 8 + k)
/-- Every context slot of the device. -/
def allCtx : List CtxId := (List.range 4096).map (BitVec.ofNat 12)

/-! ### Free values (log 2, DESIGN CHOICE) -/

/-- The next free word; reading it advances the counter (State.takeFree). -/
def State.freeW (s : State) : W64 := Config.freeWord s.freeCtr
/-- Advance past the free value just read. -/
def State.takeFree (s : State) : State := { s with freeCtr := s.freeCtr + 1 }

/-! ### Event counters (R468-R473) -/

/-- Number of a counter in Evt: cores first, then clusters, then the cobbler. -/
def counterNo : CounterId → Nat
  | .core c n => c.toNat * 8 + n.toNat
  | .cluster c n => 4096 + c.toNat * 16 + n.toNat
  | .cobbler n => 4608 + n.toNat

/-- Where an event happens. -/
inductive At where
  | core (c : Nat) | cluster (c : Nat) | device | port (p : Nat) | engine (e : Nat) | island (i : Nat)
  deriving DecidableEq, Repr

/-- The physical index, within its cluster, of logical core position j (R17, R440): the spare is stepped over. -/
def physOf (spare j : Nat) : Nat := if j < spare then j else j + 1

/-- Island index of logical core c (R381, R469). -/
def State.coreIsland (s : State) (c : Nat) : Nat :=
  17 * (c / 16) + physOf (bits (s.cluster (c / 16)).coreSpare 0 5) (c % 16)

/-- Whether counter k with selection v counts an event at this place (R469). -/
def countsAt (s : State) (k : Nat) (v : W64) (at_ : At) : Bool :=
  let inst := bits v 20 10
  if k < 4096 then
    match at_ with
    | .core c => decide (c = k / 8)
    | .island i => decide (i = s.coreIsland (k / 8))
    | _ => false
  else if k < 4608 then
    let cl := (k - 4096) / 16
    match at_ with
    | .cluster c => decide (c = cl)
    | .core c => decide (c / 16 = cl) && (decide (inst = c % 16) || decide (inst = 0x3FF))
    | _ => false
  else
    match at_ with
    | .device => true
    | .core c => decide (inst = c) || decide (inst = 0x3FF)
    | .cluster c => decide (inst = c) || decide (inst = 0x3FF)
    | .port c => decide (inst = c) || decide (inst = 0x3FF)
    | .engine c => decide (inst = c) || decide (inst = 0x3FF)
    | .island c => decide (inst = c) || decide (inst = 0x3FF)

/-- Whether counter k selects this event (R469, R472). -/
def selects (s : State) (k : Nat) (v : W64) (ev : Nat) (at_ : At) (st : Option StreamId) (qual : Nat) : Bool :=
  bit v 19 && decide (ev ≠ 0) && decide (bits v 0 8 = ev) && countsAt s k v at_ &&
  (decide (bits v 12 7 = 64) || decide (st.map (fun i => i.toNat) = some (bits v 12 7))) &&
  (!(bit v 11 && decide (ev = evHeldAtBound)) || decide (bits v 8 3 = qual))

/-- Add n to a count; a wrap at 2^48 sets ovf (R468). -/
def addCount (c : BitVec 49) (n : Nat) : BitVec 49 :=
  let t := bits c 0 48 + n
  BitVec.ofNat 49 (t % 2 ^ 48 + 2 ^ 48 * b2n (bit c 48 || decide (2 ^ 48 ≤ t)))

/-- Whether a counter adds events of a place only at the next snapshot of its island: those of the cobbler, of other islands
(R470). -/
def atSnapshot (k : Nat) (at_ : At) : Bool := decide (4608 ≤ k) && decide (at_ ≠ .device)

/-- Count n occurrences of an event: at a place, for a stream, under a qualifier (R468-R473). -/
def State.countQ (s : State) (ev : Nat) (at_ : At) (st : Option StreamId) (qual n : Nat) : State :=
  if s.evt.freeze || decide (n = 0) then s
  else
    { s with evt := { s.evt with
        cnt := s.evt.sel.foldl
          (fun cnt e => if selects s e.1 e.2 ev at_ st qual && !atSnapshot e.1 at_ then tput cnt e.1 (addCount (tget 0 cnt e.1) n)
            else cnt)
          s.evt.cnt
        pend := s.evt.sel.foldl
          (fun p e => if selects s e.1 e.2 ev at_ st qual && atSnapshot e.1 at_ then tmod 0 p e.1 (· + n) else p) s.evt.pend } }

/-- A snapshot of every island that has power, received now: the cobbler's counters take what the islands have counted (R36, R470). -/
def State.snapshot (s : State) (islands : List Nat) : State :=
  { s with evt := { s.evt with
      cnt := if s.evt.freeze then s.evt.cnt else s.evt.pend.foldl (fun c e => tput c e.1 (addCount (tget 0 c e.1) e.2)) s.evt.cnt
      pend := if s.evt.freeze then s.evt.pend else []
      snapAt := islands.foldl (fun t i => tput t i s.time) s.evt.snapAt } }

/-- Count n occurrences of an event without qualifier. -/
def State.count (s : State) (ev : Nat) (at_ : At) (st : Option StreamId) (n : Nat) : State := s.countQ ev at_ st 0 n
/-- Count one device event. -/
def State.countDev (s : State) (ev : Nat) : State := s.count ev .device none 1
/-- Count one refused register write (R483). -/
def State.regRefused (s : State) : State := s.countDev evRegWriteRefused

/-! ### Register operations in progress (R29, R256, R304, R303, R483; log 50, DESIGN CHOICE) -/

/-- The operation a register set has queued or running. -/
def State.running (s : State) (r : RegSet) : Option RegOp := s.ops.find? fun q => decide (q.set = r)
/-- A register set is busy. -/
def State.busy (s : State) (r : RegSet) : Bool := (s.running r).isSome

/-- An operation of the prefix unit, which serves all streams in arrival order (R303). -/
def RegOp.isTree : RegOp → Bool
  | .treeOp _ _ _ _ => true
  | _ => false

/-- No earlier operation of the same unit comes before this one. -/
def State.turn (s : State) (q : RegOp) : Bool :=
  !q.isTree ||
  match s.ops.find? RegOp.isTree with
  | none => true
  | some x => decide (x = q)

/-- A write of an op field: refused and counted while the set is busy; else `start` sets the fields written and the operation
is queued with its own copy of them. -/
def State.startOp (s : State) (q : RegOp) (start : State → State) : State :=
  if s.busy q.set then s.regRefused else { start s with ops := (start s).ops ++ [q] }

/-- The row of an operation. Where the set has this operation in progress, it is carried out, in its turn. Where it has none,
the row is the write that starts it as well. Another operation in progress refuses it. -/
def State.runOp (s : State) (q : RegOp) (start carry : State → State) : State :=
  match s.running q.set with
  | some r =>
    if r ≠ q then s.regRefused
    else if s.turn q then carry { s with ops := s.ops.erase q } else s
  | none => if s.turn q then carry (start s) else s.startOp q start

/-- A write of an op value that the register refuses: it completes at once, unless the set is busy (R483). -/
def State.badOp (s : State) (r : RegSet) (k : State → State) : State := if s.busy r then s.regRefused else k s

/-! ### Interrupt causes (R412) -/

/-- HIF_IRQ_MAP entry of a cause: reset vector is the cause with enable set. -/
def State.irqEntry (s : State) (c : Nat) : W32 := tget (BitVec.ofNat 32 (0x800 + c)) s.hif.irqMap c

/-- Send the message of an MSI-X vector: none with MSI-X disabled; a masked one waits (R412), one in D3hot goes out at the return
to D0 (R399). -/
def State.sendMsix (s : State) (v : BitVec 11) : State :=
  if !s.hif.msixEn then s
  else if s.hif.msixMask || !tget false s.hif.vecOpen v.toNat then
    { s with hif := { s.hif with msixPba := if s.hif.msixPba.contains v then s.hif.msixPba else s.hif.msixPba ++ [v] } }
  else if s.hif.d3hot then { s with hif := { s.hif with msixHeld := s.hif.msixHeld ++ [v] } }
  else { s with out := { s.out with msix := s.out.msix ++ [v] } }

/-- Raise a cause: its pending bit turns to 1 and, if it was 0 and the map entry is enabled, the message is sent (R412). -/
def State.raise (s : State) (c : Nat) : State :=
  if bit s.hif.pend c then s
  else
    let s1 := { s with hif := { s.hif with pend := setBits s.hif.pend c 1 1 } }
    if bit (s.irqEntry c) 11 then s1.sendMsix (BitVec.ofNat 11 (bits (s.irqEntry c) 0 11)) else s1

/-- Bytes written to host memory, one posted write after another; in D3hot they wait (R399). -/
def State.hostWrite (s : State) (a : W64) (bs : List Byte) : State :=
  if s.hif.d3hot then { s with hif := { s.hif with held := s.hif.held ++ [(a, bs)] } }
  else { s with out := { s.out with hostWrites := s.out.hostWrites ++ [(a, bs)] } }
/-- Answer a request. -/
def State.reply (s : State) (r : Reply) : State := { s with out := { s.out with replies := s.out.replies ++ [r] } }
/-- The host port answers: its link is up and core power on (R388, R443). -/
def State.hostUp (s : State) : Bool := s.hif.linkUp && s.pins.corePower && s.boot.flrAt.isNone
/-- A host access that only phase RUNNING answers: before, it is dropped and counted (R442). -/
def State.hostOnly (s : State) (k : State → State) : State :=
  if !s.hostUp then s else if s.boot.phase ≠ .running then s.countDev evHifBadAccess else k s
/-- A write to a ring register before RUNNING: setting enable is refused with E_BOOT and counted, any other is dropped and
counted (R442). -/
def State.earlyRing (s : State) (on : Bool) : State :=
  if !s.hostUp then s else if on then s.regRefused else s.countDev evHifBadAccess
/-- Send a management notice or link message. -/
def State.send (s : State) (m : Sent) : State := { s with out := { s.out with sent := s.out.sent ++ [m] } }

/-! ### Completion rings (R405, R406) -/

/-- State codes of R107. -/
def sCode : SState → Nat
  | .empty => 0 | .bound => 1 | .loaded => 2 | .running => 3 | .paused => 4 | .draining => 5 | .faulted => 6

/-- A completion or event entry of R405 without its phase bit. -/
def cplEntry (event : Bool) (found after : SState) (code : Nat) (status : Code) (tag : W32) (index : BitVec 16)
    (value t : W64) : BitVec 256 :=
  BitVec.ofNat 256 (2 * b2n event + sCode found * 2 ^ 8 + sCode after * 2 ^ 16 + code * 2 ^ 24 +
    status.toNat * 2 ^ 32 + tag.toNat * 2 ^ 64 + index.toNat * 2 ^ 96 + value.toNat * 2 ^ 128 + t.toNat * 2 ^ 192)

/-- Entries in the completion ring the host has not consumed. -/
def StreamRegs.unconsumed (r : StreamRegs) : Nat := (r.cplWr - r.cplHead).toNat
/-- The completion ring is full: 2^c entries unconsumed (R406). -/
def StreamRegs.cplFull (r : StreamRegs) : Bool := decide (2 ^ bits r.cplRing 0 4 ≤ r.unconsumed)

/-- Write one entry at the ring's write index: bytes 8 to 31, then bytes 0 to 7 (R406), then the stream's cause. -/
def State.writeEntry (s : State) (i : StreamId) (e : BitVec 256) : State :=
  let r := s.sreg i
  let n := 2 ^ bits r.cplRing 0 4
  let e := setBits e 0 1 (b2n r.cplPhase)
  let a : W64 := BitVec.ofNat 64 (bits r.cplRing 12 52 * 4096 + 32 * (r.cplWr.toNat % n))
  let bs := leBytes 32 e.toNat
  let s := (s.hostWrite (a + 8) (bs.drop 8)).hostWrite a (bs.take 8)
  let s := s.setSreg i { r with
    cplWr := r.cplWr + 1,
    cplPhase := if (r.cplWr.toNat + 1) % n = 0 then !r.cplPhase else r.cplPhase }
  if bit r.cplRing 5 then s.raise i.toNat else s

/-- Post an entry: held while the ring is full or the device is in D3hot, discarded while the ring is disabled (R399,
R406, log 17, DESIGN CHOICE). -/
def State.postEntry (s : State) (i : StreamId) (e : BitVec 256) : State :=
  let r := s.sreg i
  if !bit r.cplRing 4 then s
  else if r.cplFull || s.hif.d3hot || !r.held.isEmpty then s.setSreg i { r with held := r.held ++ [e] }
  else s.writeEntry i e

/-- Write held entries while there is space (R406). -/
def State.flushHeld (s : State) (i : StreamId) : Nat → State
  | 0 => s
  | n + 1 =>
    let r := s.sreg i
    match r.held with
    | [] => s
    | e :: es =>
      if r.cplFull || s.hif.d3hot then s
      else ((s.setSreg i { r with held := es }).writeEntry i e).flushHeld i n

/-- Write a command's completion entry (R114, R115, R405). -/
def State.complete (s : State) (i : StreamId) (found : SState) (code : Nat) (status : Code) (tag : W32) (index : BitVec 16)
    (value : W64) : State :=
  (s.postEntry i (cplEntry false found (s.strm i).state code status tag index value s.time)).count evCmdCompleted .device
    (some i) 1

/-- Record a refusal in STRM_STATUS and STRM_ERR_ARG. -/
def State.refuse (s : State) (i : StreamId) (e : Code) (name : W64) : State :=
  s.modStrm i fun x => { x with lastErr := e, errArg := name }

/-! ### Faults -/

/-- A naming word (R476). -/
def nameW (kind value : Nat) : W64 := BitVec.ofNat 64 (kind * 2 ^ 56 + value % 2 ^ 56)

/-- Number the next latched fault's record will bear (R405, R457). -/
def State.nextRecord (s : State) : Nat := s.flt.next.toNat + s.flt.latch.length

/-- Class of a fault (R454). A second E_RESIDUE on one core within 1 ms is of class 2. Once the lockstep pair has
stopped, every record carries class 3 (R456). -/
def State.faultClass (s : State) (f : FaultBit) : Nat :=
  if s.flt.lockstep then 3
  else if f.code = eStackTier || f.code = eSensor || f.code = eNoiseHealth || f.code = eFabStall ||
      f.code = eLinkDown then 0
  else if f.code = eStackUe && f.strm.isNone && decide (f.srcKind = 6) then 0
  else if f.code = eRiffleKat || f.code = eRiffleLate || f.code = eVecKat then 2
  else if f.code = eClock then (if f.srcKind = 0 then 2 else if f.srcKind = 1 || f.srcKind = 5 then 3 else 0)
  else if f.code = eLockstep || f.code = eThermalTrip then 3
  else if f.code = eSecded && bit f.arg0 63 then 3
  else if f.code = eResidue && decide (f.srcKind = 0) then
    (match (s.core f.srcIndex.toNat).residueAt with
     | some t => if s.time.toNat - t.toNat ≤ 1000000 then 2 else 1
     | none => 1)
  else 1

/-- Stop every context of a stream at its instruction boundary (R109). -/
def stopCtx (dev : BitVec 16) (i : StreamId) (c : Ctx) : Ctx :=
  if c.used && decide (c.dev = dev) && decide (c.strm = i) then
    { c with wait := .stopped, stopping := false, pausing := false, granted := none } else c

/-- Whether a macro-instruction belongs to stream i of this device. -/
def State.ownMi (s : State) (i : StreamId) (m : MI) : Bool :=
  decide (m.strm = i) && decide (m.home.toNat = s.own)

/-- The other devices that hold leaf cores of a leaf set. -/
def State.farDevs (s : State) (ls : List (Nat × Nat)) : List Nat :=
  ((ls.map Prod.fst).filter fun d => decide (d ≠ s.own)).foldl (fun l d => if l.contains d then l else l ++ [d]) []

/-- Send a notice about stream i to every other device of its leaf set. -/
def State.tellFar (s : State) (i : StreamId) (n : Notice) : State :=
  (s.farDevs (s.strm i).leaves).foldl (fun s d => s.send (.notice d n)) s

/-- A fault of any work of stream i (R108, R109, R405): RUNNING and DRAINING go to FAULTED with an event entry naming
the record, every context stops, on every device, and no macro-instruction claims a further tile. Other states keep. -/
def State.streamFault (s : State) (i : StreamId) (code : Code) (name : W64) (record : Nat) : State :=
  let x := s.strm i
  if x.state = .running || x.state = .draining then
    let s := s.setStrm i { x with state := .faulted, lastErr := code, errArg := name, drainPaused := false, prompt := false }
    let dev : BitVec 16 := BitVec.ofNat 16 s.own
    let s := { s with
      ctxs := s.ctxs.map fun (e : Nat × Ctx) => (e.1, stopCtx dev i e.2)
      mis := s.mis.map fun (m : MI) => if s.ownMi i m then { m with stopped := true, faulted := true } else m }
    let s := s.tellFar i (.stop dev i)
    s.postEntry i (cplEntry true x.state .faulted 0 code 0 0 (BitVec.ofNat 64 record) s.time)
  else s

/-- Device safe state of class 3 (R454): running streams fault, every island runs at 56/64, the hold begins; that
of a thermal trip ends as R388 states. -/
def State.deviceHold (s : State) (code : Code) (name : W64) (record : Nat) : State :=
  let s := (List.range 64).foldl (fun s i => s.streamFault (BitVec.ofNat 6 i) code name record) s
  if code = eThermalTrip then { s with weir := { s.weir with tripping := true, coolNs := 0 } }
  else { s with flt := { s.flt with hold := true } }

/-- STRM_ERR_ARG of a fault (R476): its arg0, except that a local address in arg0 (R279, R458) is named with kind 8. -/
def State.faultName (s : State) (f : FaultBit) : W64 :=
  if (f.code = eStackUe && decide (f.arg0.toNat < 2 ^ 48)) || (f.code = eSecded && !bit f.arg0 63) then nameW 8 (s.own * 2 ^ 48 + f.arg0.toNat) else f.arg0

/-- Latch a fault bit (R37): it is held with its class and time; its stream faults (class 1 and above, R14), a class 2
fault fences its core, a class 3 fault holds the device (R454). -/
def State.latchFault (s : State) (f : FaultBit) : State :=
  let cls := s.faultClass f
  let n := s.nextRecord
  let s := s.count evFaultsLatched .device f.strm 1
  let s := { s with flt := { s.flt with latch := s.flt.latch ++ [(f, BitVec.ofNat 8 cls, s.time)] } }
  let s := if f.code = eResidue && decide (f.srcKind = 0) then
      s.modCore f.srcIndex.toNat fun c => { c with mustKat := true, residueAt := some s.time } else s
  let s := match f.strm with
    | some i => if cls = 0 then s else s.streamFault i f.code (s.faultName f) n
    | none => s
  let s := if cls = 2 then s.modCore f.srcIndex.toNat fun c => { c with fenced := true } else s
  if cls = 3 then s.deviceHold f.code (s.faultName f) n else s

/-- Latch a fault of work of another device's stream and tell that device, whose stream faults with this record (R14, R109,
log 46, DEDUCED). -/
def State.faultFar (s : State) (dev : BitVec 16) (i : StreamId) (c : Nat) (code : Code) (name : W64) : State :=
  let n := s.nextRecord
  let s := s.latchFault ⟨code, 0, BitVec.ofNat 16 c, none, name, 0⟩
  s.send (.notice dev.toNat (.fault i code name (BitVec.ofNat 32 n)))

/-- A fault of stream i raised by its work on core c, naming what it concerns. -/
def State.faultOn (s : State) (i : StreamId) (c : Nat) (code : Code) (name : W64) : State :=
  s.latchFault ⟨code, 0, BitVec.ofNat 16 c, some i, name, 0⟩

/-! ### Macro-instructions -/

/-- The outstanding macro-instruction with this home, stream and ticket. -/
def State.findMi (s : State) (home : Nat) (i : StreamId) (t : W64) : Option MI :=
  s.mis.find? fun m => decide (m.home.toNat = home) && decide (m.strm = i) && decide (m.ticket = t)

/-- The macro-instruction of a stream and ticket whose counter this device publishes, this device's own streams first. -/
def State.hereMi (s : State) (i : StreamId) (t : W64) : Option MI :=
  (s.findMi s.own i t).or (s.mis.find? fun m => m.here && decide (m.strm = i) && decide (m.ticket = t))

/-- Change that macro-instruction. -/
def State.modMi (s : State) (home : Nat) (i : StreamId) (t : W64) (f : MI → MI) : State :=
  { s with mis := s.mis.map fun (m : MI) =>
      if decide (m.home.toNat = home) && decide (m.strm = i) && decide (m.ticket = t) then f m else m }

/-- Outstanding macro-instructions of stream i of this device, wherever they are published (STRM_STATUS.outstanding). -/
def State.outstanding (s : State) (i : StreamId) : Nat := (s.mis.filter (s.ownMi i)).length + (s.strm i).farMis.length

/-- What this device holds about stream i of device d. -/
def State.far (s : State) (d : BitVec 16) (i : StreamId) : Option FarStream :=
  s.fars.find? fun x => decide (x.dev = d) && decide (x.strm = i)

/-- Change what this device holds about stream i of device d. -/
def State.modFarStrm (s : State) (d : BitVec 16) (i : StreamId) (f : FarStream → FarStream) : State :=
  { s with fars := s.fars.map fun x => if decide (x.dev = d) && decide (x.strm = i) then f x else x }

/-- Priority of stream i of device d (R31). -/
def State.prioOf (s : State) (d : BitVec 16) (i : StreamId) : BitVec 2 :=
  if d.toNat = s.own then (s.strm i).prio else ((s.far d i).map FarStream.prio).getD 0

/-- Work of stream i of device d is to stop at the next load boundaries (R119). -/
def State.promptStop (s : State) (d : BitVec 16) (i : StreamId) : Bool :=
  if d.toNat = s.own then (s.strm i).prompt && decide ((s.strm i).state = .draining)
  else (s.far d i).any fun x => decide (x.pausing = some true)

/-- Cores held by the device safe state count as fenced (R455). -/
def State.coreFenced (s : State) (c : Nat) : Bool := s.flt.hold || s.weir.tripping || (s.core c).fenced

/-- Whether device d counts as live here (R368). -/
def State.isLive (s : State) (d : Nat) : Bool := decide (d = s.own) || tget false s.fab.live d

/-- Full operation: phase RUNNING with core power (R437, R388). -/
def State.up (s : State) : Bool := decide (s.boot.phase = .running) && s.pins.corePower

end Sys2Proof.Machine
end

