-- ==== Sys2Proof/Machine/Sha.lean ====
section
/-! DEFINITION. SHA-384 and ECDSA over P-384 (FIPS 180-4 and FIPS 186-5), which R225, R435, R462, R466 and R477 name
(log 9, PRESUMED). -/

namespace Sys2Proof.Machine

/-! ### SHA-384 -/

/-- The primes below 410: the first eighty. -/
def firstPrimes : List Nat :=
  (List.range 410).filter fun n => decide (2 ≤ n) && [2, 3, 5, 7, 11, 13, 17, 19].all fun d => decide (n = d) || decide (n % d ≠ 0)

/-- The largest r from x on with r^k at most n, found bit by bit below 2^b. -/
def rootFrom (k n : Nat) : Nat → Nat → Nat
  | 0, x => x
  | b + 1, x => if (x + 2 ^ b) ^ k ≤ n then rootFrom k n b (x + 2 ^ b) else rootFrom k n b x

/-- The first 64 bits of the fractional part of the k-th root of n. -/
def rootFraction (k n : Nat) : W64 := BitVec.ofNat 64 (rootFrom k (n * 2 ^ (64 * k)) 69 0)

/-- The round constants: of the cube roots of the first eighty primes. -/
def shaK : List W64 := firstPrimes.map (rootFraction 3)

/-- Initial hash value of SHA-384: of the square roots of the ninth to the sixteenth prime. -/
def shaIv : List W64 := ((firstPrimes.drop 8).take 8).map (rootFraction 2)

/-- Right rotation. -/
def rotr64 (x : W64) (n : Nat) : W64 := (x >>> n) ||| (x <<< (64 - n))

/-- A message schedule grown to n words, newest first, from its sixteen first words. -/
def shaSchedule : Nat → List W64 → List W64
  | 0, w => w
  | n + 1, w =>
    match shaSchedule n w with
    | p1 :: p2 :: p3 :: p4 :: p5 :: p6 :: p7 :: p8 :: p9 :: p10 :: p11 :: p12 :: p13 :: p14 :: p15 :: p16 :: t =>
      (p16 + (rotr64 p15 1 ^^^ rotr64 p15 8 ^^^ (p15 >>> 7)) + p7 + (rotr64 p2 19 ^^^ rotr64 p2 61 ^^^ (p2 >>> 6))) ::
        p1 :: p2 :: p3 :: p4 :: p5 :: p6 :: p7 :: p8 :: p9 :: p10 :: p11 :: p12 :: p13 :: p14 :: p15 :: p16 :: t
    | _ => []

/-- The working variables of the compression. -/
structure ShaVars where
  a : W64
  b : W64
  c : W64
  d : W64
  e : W64
  f : W64
  g : W64
  h : W64

/-- A hash value as working variables. -/
def ShaVars.of : List W64 → ShaVars
  | [a, b, c, d, e, f, g, h] => ⟨a, b, c, d, e, f, g, h⟩
  | _ => ⟨0, 0, 0, 0, 0, 0, 0, 0⟩

/-- Working variables as a hash value. -/
def ShaVars.list (v : ShaVars) : List W64 := [v.a, v.b, v.c, v.d, v.e, v.f, v.g, v.h]

/-- One round; x is the sum of its constant and its schedule word. -/
def ShaVars.round (v : ShaVars) (x : W64) : ShaVars :=
  let choose := v.g ^^^ (v.e &&& (v.f ^^^ v.g))
  let major := (v.a &&& (v.b ||| v.c)) ||| (v.b &&& v.c)
  let t := v.h + x + choose + (rotr64 v.e 14 ^^^ rotr64 v.e 18 ^^^ rotr64 v.e 41)
  ⟨t + major + (rotr64 v.a 28 ^^^ rotr64 v.a 34 ^^^ rotr64 v.a 39), v.a, v.b, v.c, v.d + t, v.e, v.f, v.g⟩

/-- Big-endian number of bytes. -/
def beNat (bs : List Byte) : Nat := bs.foldl (fun v b => v * 256 + b.toNat) 0

/-- The n low bytes of a number, big-endian. -/
def beBytes (n v : Nat) : List Byte := (leBytes n v).reverse

/-- One 128-byte block. -/
def shaBlock (h : List W64) (b : List Byte) : List W64 :=
  let first := (List.range 16).map fun i => BitVec.ofNat 64 (beNat ((b.drop (8 * i)).take 8))
  let words := (shaSchedule 64 first.reverse).reverse
  let v := (shaK.zipWith (· + ·) words).foldl ShaVars.round (ShaVars.of h)
  h.zipWith (· + ·) v.list

/-- Padding of a message. -/
def shaPad (m : List Byte) : List Byte :=
  m ++ 0x80 :: List.replicate ((239 - m.length % 128) % 128) 0 ++ beBytes 16 (8 * m.length)

/-- The blocks of a padded message, n at most. -/
def shaBlocks : Nat → List Byte → List W64 → List W64
  | 0, _, h => h
  | n + 1, m, h => if m.isEmpty then h else shaBlocks n (m.drop 128) (shaBlock h (m.take 128))

/-- SHA-384 of a message: 48 bytes. -/
def sha384 (m : List Byte) : List Byte :=
  let p := shaPad m
  ((shaBlocks (p.length / 128) p shaIv).take 6).flatMap fun w => beBytes 8 w.toNat

/-! ### ECDSA over P-384 -/

/-- The field prime of P-384. -/
def ecP : Nat := 2 ^ 384 - 2 ^ 128 - 2 ^ 96 + 2 ^ 32 - 1
/-- The order of the group. -/
def ecN : Nat :=
  0xffffffffffffffffffffffffffffffffffffffffffffffffc7634d81f4372ddf581a0db248b0a77aecec196accc52973
/-- The coefficient b. -/
def ecB : Nat :=
  0xb3312fa7e23ee7e4988e056be3f82d19181d9c6efe8141120314088f5013875ac656398d8a2ed19d2a85c8edd3ec2aef
/-- The base point. -/
def ecG : Nat × Nat :=
  (0xaa87ca22be8b05378eb1c71ef320ad746e1d3b628ba79b9859f741e082542a385502f25dbf55296c3a545e3872760ab7,
   0x3617de4a96262c6f5d9e98bf9292dc29f8f41dbd289a147ce9da3113b5f0b8c00a60b1ce1d7e819d7a431d7c90ea0e5f)

/-- b^e modulo m over the bits of e, most significant of n first. -/
def powMod (m b e : Nat) : Nat → Nat
  | 0 => 1 % m
  | n + 1 =>
    let r := powMod m b (e / 2) n
    if e % 2 = 1 then r * r % m * b % m else r * r % m

/-- Inverse modulo a prime of at most 384 bits. -/
def invMod (m x : Nat) : Nat := powMod m x (m - 2) 384

/-- A point of the curve; none is the point at infinity. -/
abbrev EcPt := Option (Nat × Nat)

/-- Sum of two points. -/
def ecAdd (a b : EcPt) : EcPt :=
  match a, b with
  | none, b => b
  | a, none => a
  | some (x1, y1), some (x2, y2) =>
    if x1 = x2 ∧ (y1 + y2) % ecP = 0 then none
    else
      let l := if x1 = x2 then (3 * x1 * x1 + ecP - 3) * invMod ecP (2 * y1) % ecP
        else (y2 + ecP - y1) * invMod ecP ((x2 + ecP - x1) % ecP) % ecP
      let x := (l * l + 2 * ecP - x1 - x2) % ecP
      some (x, (l * ((x1 + ecP - x) % ecP) + ecP - y1) % ecP)

/-- k times a point, over n bits of k. -/
def ecMul (p : EcPt) (k : Nat) : Nat → EcPt
  | 0 => none
  | n + 1 =>
    let r := ecMul p (k / 2) n
    let d := ecAdd r r
    if k % 2 = 1 then ecAdd d p else d

/-- Whether (r, s) signs a digest under a public key. -/
def ecdsaOk (key : Nat × Nat) (digest : List Byte) (r s : Nat) : Bool :=
  let (x, y) := key
  let e := beNat digest % ecN
  let w := invMod ecN s
  decide (x < ecP) && decide (y < ecP) && decide (y * y % ecP = (x * x * x + (ecP - 3) * x + ecB) % ecP) &&
  decide (0 < r) && decide (r < ecN) && decide (0 < s) && decide (s < ecN) &&
  (match ecAdd (ecMul (some ecG) (e * w % ecN) 384) (ecMul (some key) (r * w % ecN) 384) with
   | some (v, _) => decide (v % ecN = r)
   | none => false)

/-- A signature of a digest by private key d with nonce k (FIPS 186-5). -/
def ecdsaSign (d : Nat) (digest : List Byte) (k : Nat) : Nat × Nat :=
  match ecMul (some ecG) k 384 with
  | some (x, _) => (x % ecN, invMod ecN k * (beNat digest + x % ecN * d) % ecN)
  | none => (0, 0)

/-! ### HKDF-SHA-384 (RFC 5869, R464) -/

/-- HMAC with SHA-384 under a key of at most 128 bytes. -/
def hmac384 (key m : List Byte) : List Byte :=
  let key := key ++ List.replicate (128 - key.length) 0
  sha384 (key.map (· ^^^ 0x5C) ++ sha384 (key.map (· ^^^ 0x36) ++ m))

/-- n blocks of key material from a pseudorandom key, the last of them, and all in order. -/
def hkdfBlocks (prk info : List Byte) : Nat → List Byte × List Byte
  | 0 => ([], [])
  | n + 1 =>
    let (last, all) := hkdfBlocks prk info n
    let b := hmac384 prk (last ++ info ++ [BitVec.ofNat 8 (n + 1)])
    (b, all ++ b)

/-- n bytes that HKDF-SHA-384 derives from a secret. -/
def hkdf384 (salt secret info : List Byte) (n : Nat) : List Byte :=
  (hkdfBlocks (hmac384 salt secret) info (ceilDiv n 48)).2.take n

end Sys2Proof.Machine
end

