-- ==== Sys2Proof/Machine/Noise.lean ====
section
/-! DEFINITION. SEED_REFILL, NOISE_HEALTH_FAIL, NOISE_STARTUP_PASS and NOISE_RESTART (R225, R226). -/

namespace Sys2Proof.Machine

/-- The seed of a block of raw bits: the first 8 bytes of its SHA-384 digest (R225). Bit k of the block is bit k mod 8 of
byte floor(k / 8) (log 9, PRESUMED). -/
def seedOf (raw : BitVec 1024) : W64 := BitVec.ofNat 64 (leNat ((sha384 (leBytes 128 raw.toNat)).take 8))

/-- Raw bits flow and are tested: the source is healthy or runs its start-up test (R226). -/
def Cluster.tested (x : Cluster) : Bool := x.healthy || x.starting

/-- One raw bit passes the repetition count test and the adaptive proportion test, or fails one (R226). The proportion counts how
often a window's first bit recurs after it (log 9, DEDUCED). -/
def Health.bit (h : Health) (b : Bool) : Health × Option NoiseTest :=
  let run := if h.run ≠ 0 ∧ b = h.last then h.run + 1 else 1
  let first := if h.pos = 0 then b else h.first
  let seen := if h.pos = 0 then 0 else h.seen + b2n (decide (b = h.first))
  (⟨b, run, first, seen, (h.pos + 1) % 1024⟩, if 41 ≤ run then some .rct else if 840 ≤ seen then some .apt else none)

/-- Raw bits pass both tests, up to the first that fails one. -/
def Health.bits (h : Health) : List Bool → Health × Option NoiseTest
  | [] => (h, none)
  | b :: bs =>
    match h.bit b with
    | (h, none) => h.bits bs
    | (h, some t) => (h, some t)

/-- The bits of a number, bit 0 first. -/
def rawBits {n : Nat} (x : BitVec n) : List Bool := (List.range n).map fun k => bit x k

/-- A source fails a test: its pool empties, E_NOISE_HEALTH is reported (R226, R412). -/
def State.noiseFails (s : State) (c : Nat) (test : NoiseTest) : State :=
  let s := s.modCluster c fun x => { x with
    healthy := false, starting := false, pool := [], failCount := satInc x.failCount, health := .reset
    rctFail := x.rctFail || decide (test = .rct), aptFail := x.aptFail || decide (test = .apt) }
  let s := s.count evNoiseHealthFail (.cluster c) none 1
  (s.latchFault ⟨eNoiseHealth, 1, BitVec.ofNat 16 c, none, 0, 0⟩).raise 86

/-- Raw bits of a source: a failure has its effects; if all pass, k follows. Out of service nothing is tested. -/
def State.rawNoise (s : State) (c : Nat) (l : List Bool) (k : State → State) : State :=
  if !s.pins.corePower || !(s.cluster c).tested then s
  else
    match (s.cluster c).health.bits l with
    | (_, some t) => s.noiseFails c t
    | (h, none) => k (s.modCluster c fun x => { x with health := h })

/-- SEED_REFILL: a block of 1,024 raw bits; of a healthy source, if it passes both tests, it adds one seed to a pool of at most
16 (R225). -/
def execSeedRefill (cl : ClusterId) (raw : BitVec 1024) (s : State) : Res :=
  let c := cl.toNat
  .next (if (s.cluster c).healthy then
    s.rawNoise c (rawBits raw) fun s => s.modCluster c fun x =>
      if x.pool.length < 16 then { x with pool := x.pool ++ [seedOf raw] } else x
  else s)

/-- NOISE_HEALTH_FAIL: raw bits among which a test fails, in service or at start-up; if none does, they have only been
tested. -/
def execNoiseHealthFail (cl : ClusterId) (raw : List Bool) (s : State) : Res := .next (s.rawNoise cl.toNat raw id)

/-- The start-up test over raw bits: a source that passes is healthy (R226). -/
def State.startNoise (s : State) (c : Nat) (l : List Bool) : State :=
  if (s.cluster c).starting then s.rawNoise c l fun s => s.modCluster c fun x => { x with healthy := true, starting := false } else s

/-- NOISE_STARTUP_PASS: the 4,096 raw bits of the start-up test. -/
def execNoiseStartupPass (raw : NoiseBits) (s : State) : Res := .next (s.startNoise raw.cl.toNat (rawBits raw.raw))

/-- NOISE_RESTART: a write of restart, ignored while the source is healthy. -/
def execNoiseRestart (cl : ClusterId) (s : State) : Res :=
  .next (if (s.cluster cl.toNat).healthy then s
    else s.modCluster cl.toNat fun x => { x with starting := true, health := .reset })

end Sys2Proof.Machine
end

