-- ==== Sys2Proof/Machine/Identity.lean ====
section
/-! DEFINITION. The boot flash, and the identity of the device: keys derived from the unique secret, certificates, the rollback floor
and its seal, measurements (R433, R463-R467, log 57, DESIGN CHOICE). -/

namespace Sys2Proof.Machine

/-! ### Keys (R464) -/

/-- A private key from material of the unique secret: one below the group order, never 0 (log 57, PRESUMED). -/
def keyFrom (which : Bool) (info : List Byte) : Nat :=
  beNat (hkdf384 (Config.kdfSalt which) (beBytes 48 Config.uniqueSecret.toNat) (Config.kdfInfo which ++ info) 56) % (ecN - 1) + 1

/-- The public key of a private one. -/
def publicKey (d : Nat) : Nat × Nat := (ecMul (some ecG) d 384).getD (0, 0)

/-- A public key as an uncompressed point. -/
def pointBytes (q : Nat × Nat) : List Byte := 0x04 :: beBytes 48 q.1 ++ beBytes 48 q.2

/-- The device identity key. -/
def identityKey : Nat := keyFrom false []

/-- The device identity digest. -/
def identityDigest : List Byte := sha384 (pointBytes (publicKey identityKey))

/-- The Device Serial Number (R399). -/
def deviceSerial : W64 := BitVec.ofNat 64 (beNat identityDigest)

/-- The alias key of an image digest and svn. -/
def imageKey (digest : List Byte) (svn : Nat) : Nat := keyFrom true (digest ++ leBytes 2 svn)

/-- A signature of bytes by a private key. -/
def signBytes (d : Nat) (m : List Byte) : Nat × Nat :=
  let h := sha384 m
  ecdsaSign d h (Config.signNonce d (beNat h) % (ecN - 1) + 1)

/-- A signature as 96 bytes, r then s, big-endian. -/
def sigBytes (x : Nat × Nat) : List Byte := beBytes 48 x.1 ++ beBytes 48 x.2

/-! ### What the identity region holds (R465) -/

/-- n bytes of a list, 0 beyond its end. -/
def fitTo (n : Nat) (l : List Byte) : List Byte := l.take n ++ List.replicate (n - l.length) 0

/-- The alias certificate of an image. -/
def imageCert (digest : List Byte) (svn : Nat) : List Byte :=
  let body := Config.aliasBody (publicKey (imageKey digest svn)) digest svn
  fitTo 4096 (Config.certOf body (signBytes identityKey body))

/-- The record of a rollback floor with its seal. -/
def floorBytes (floor : BitVec 16) : List Byte :=
  fitTo 64 (Config.floorRecord floor (signBytes identityKey (leBytes 2 floor.toNat)))

/-- A byte of flash that nothing has written since manufacture: certificates and the record of floor 0 in the identity region, else
0 (log 8, DESIGN CHOICE). -/
def madeFlash (a : Nat) : Byte :=
  if a < 0x3000000 then 0
  else if a < 0x3003000 then (fitTo 4096 (Config.madeCert ((a - 0x3000000) / 4096) (publicKey identityKey))).getD (a % 4096) 0
  else if 0x3004000 ≤ a ∧ a < 0x3004040 then (floorBytes 0).getD (a - 0x3004000) 0
  else 0

/-! ### The boot flash (R433) -/

/-- A byte of flash. -/
def State.flashByte (s : State) (a : Nat) : Byte := tget (madeFlash a) s.boot.flash a

/-- Bytes of flash from an offset. -/
def State.flashBytes (s : State) (o n : Nat) : List Byte := (List.range n).map fun i => s.flashByte (o + i)

/-- Write bytes to flash. -/
def State.writeFlash (s : State) (o : Nat) (bs : List Byte) : State :=
  { s with boot := { s.boot with flash := bs.zipIdx.foldl (fun t e => tput t (o + e.2) e.1) s.boot.flash } }

/-- Flash offset of an image slot. -/
def slotBase (b : Bool) : Nat := if b then 0x1000000 else 0

/-- The digest in the header of the running image. -/
def State.imageDigest (s : State) : List Byte := s.flashBytes (slotBase s.boot.slot + 0x40) 48

/-- At each boot MC2 derives the alias key of the image, and rewrites its certificate where digest or svn have changed
(R464, R465). -/
def State.deriveKeys (s : State) : State :=
  let d := s.imageDigest
  let v := s.boot.svn.toNat
  let s := { s with sec := { s.sec with bootKey := some (imageKey d v) } }
  if s.flashBytes 0x3003000 4096 = imageCert d v then s else s.writeFlash 0x3003000 (imageCert d v)

/-- The accepted floor is in flash with its seal (R463, R465). -/
def State.storeFloor (s : State) (f : BitVec 16) : State :=
  { s with sec := { s.sec with floor := f, floorPend := none, floorDone := true } }.writeFlash 0x3004000 (floorBytes f)

/-! ### Certificates and measurements (R466, R467) -/

/-- A DER object cut to its length. -/
def derCut (l : List Byte) : List Byte :=
  match l with
  | _ :: b :: c :: d :: _ =>
    if b.toNat < 128 then l.take (2 + b.toNat)
    else if b = 0x81 then l.take (3 + c.toNat)
    else if b = 0x82 then l.take (4 + 256 * c.toNat + d.toNat)
    else l
  | _ => l

/-- The chain of certificate slot 0: root, intermediate, identity and alias certificates. -/
def State.certChain (s : State) : List Byte := (List.range 4).flatMap fun k => derCut (s.flashBytes (0x3000000 + 4096 * k) 4096)

/-- A reply with its signature by the alias key; none where no image runs. -/
def State.signReply (s : State) (request reply : List Byte) : List Byte :=
  match s.sec.bootKey with
  | some d => reply ++ sigBytes (signBytes d (Config.signedPart request reply))
  | none => reply

/-- Revoke bits of the key slots (R462). -/
def State.revoked (s : State) (k : Nat) : Bool := Config.keyRevoked k || bit s.sec.revoked k

/-- BOOT_STATUS.phase. -/
def phaseCode : Phase → Nat
  | .rom => 0 | .image => 1 | .rails => 2 | .repair => 3 | .stack => 4 | .sparing => 5 | .selftest => 6 | .ready => 7
  | .running => 8 | .failed => 9 | .recovery => 10

/-- SAFE_CORE of cluster c. -/
def State.safeCore (s : State) (c : Nat) : Nat :=
  ((List.range 16).map fun j => b2n (s.core (16 * c + j)).fenced * 2 ^ j).sum

/-- The value of a measurement (R467), in an encoding of the model's (log 16, DESIGN CHOICE). -/
def State.measurement (s : State) (i : Nat) : List Byte :=
  match i with
  | 1 => beBytes 48 Config.romDigest.toNat
  | 2 => s.imageDigest ++ leBytes 1 (b2n s.boot.slot) ++ leBytes 2 s.boot.svn.toNat
  | 3 => s.flashBytes 0x2000040 48
  | 4 => leBytes 2 s.sec.floor.toNat ++ leBytes 1 (((List.range 4).map fun k => b2n (s.revoked k) * 2 ^ k).sum)
  | 5 => leBytes 1 s.sec.levee.toNat ++ leBytes 1 (b2n s.sec.dbgEn) ++ leBytes 1 (phaseCode s.boot.phase)
  | 6 => (List.range 32).flatMap fun c => leBytes 8 (s.cluster c).coreSpare.toNat ++ leBytes 2 (s.safeCore c)
  | _ => []

/-- A measurement block in the format of DMTF: index, specification, size, then type with bit 7 for a raw value, size and value
(R467, log 16, PRESUMED). -/
def State.measureBlock (s : State) (i : Nat) : List Byte :=
  let v := s.measurement i
  leBytes 1 i ++ [1] ++ leBytes 2 (v.length + 3) ++ leBytes 1 (if 5 ≤ i then 0x80 + i else i) ++ leBytes 2 v.length ++ v

end Sys2Proof.Machine
end

