-- ==== Sys2Proof/Machine/Mem.lean ====
section
/-! DEFINITION. The local map, the stack mapping, the cluster caches on the line path, the awl, poison, and the bytes every
agent sees. -/

namespace Sys2Proof.Machine

/-! ### The local map (R261) -/

/-- First stack address. -/
abbrev stackLo : Nat := 0x0A200000
/-- End of the stack. -/
abbrev stackEnd : Nat := 0x3000000000
/-- First local store window. -/
abbrev storeBase : Nat := 0x4000000000
/-- Register window. -/
abbrev regBase : Nat := 0x4100000000
/-- Cache control window. -/
abbrev cchBase : Nat := 0x8000000000

/-- Regions of the local map. -/
inductive Region where
  | merge | groupTable | stack | store (c off : Nat) | regs (off : Nat) | cch (a : Nat) | none
  deriving DecidableEq, Repr

/-- Region of a local address (R261). -/
def regionOf (a : Nat) : Region :=
  if a < 0x0A000000 then .merge
  else if a < stackLo then .groupTable
  else if a < stackEnd then .stack
  else if a < storeBase then .none
  else if a < storeBase + 512 * 0x200000 then
    (if (a - storeBase) % 0x200000 < 0x180000 then .store ((a - storeBase) / 0x200000) ((a - storeBase) % 0x200000)
     else .none)
  else if a < regBase then .none
  else if a < regBase + 0x4000000 then .regs (a - regBase)
  else if a < cchBase then .none
  else if a < cchBase + stackEnd then .cch (a - cchBase)
  else .none

/-- The n bytes from a lie in the stack. -/
def inStack (a n : Nat) : Bool := decide (stackLo ≤ a) && decide (a + n ≤ stackEnd)

/-- The n bytes from a lie in one local store window. -/
def inStore (a n : Nat) : Bool :=
  match regionOf a with
  | .store _ off => decide (off + n ≤ 0x180000)
  | _ => false

/-- The n bytes from a lie in the stack or in one local store window. -/
def inMem (a n : Nat) : Bool := inStack a n || inStore a n

/-- Core whose local store window holds a. -/
def storeCore (a : Nat) : Nat := (a - storeBase) / 0x200000

/-! ### Bytes (R260) -/

/-- What an unlisted address reads as: 0 (R439, R441), or a free byte in a range of unspecified bytes (R122, R264,
log 11, DESIGN CHOICE). -/
def dfltAt (u : List (Nat × Nat × Nat)) (a : Nat) : Byte :=
  match u with
  | [] => 0
  | (lo, hi, e) :: t => if lo ≤ a ∧ a < hi then Config.freeByte e a else dfltAt t a

/-- What an unlisted address of s reads as. -/
def State.dflt (s : State) : Nat → Byte := dfltAt s.unspec
/-- The byte every agent sees at local address a. -/
def State.byte (s : State) (a : Nat) : Byte := mget s.dflt s.mem a
/-- n bytes from local address a. -/
def State.bytes (s : State) (a n : Nat) : List Byte := mread s.dflt s.mem a n
/-- The little-endian number of n bytes at local address a (R7). -/
def State.num (s : State) (a n : Nat) : Nat := leNat (s.bytes a n)
/-- Change the bytes every agent sees. -/
def State.putBytes (s : State) (a : Nat) (bs : List Byte) : State := { s with mem := mwrite s.dflt s.mem a bs }

/-- The bytes of [lo, hi) become unspecified (R122, R264). -/
def State.unspecify (s : State) (lo hi : Nat) : State :=
  { s with unspec := (lo, hi, s.freeCtr) :: s.unspec, mem := mclear s.mem lo hi, freeCtr := s.freeCtr + 1 }

/-! ### Where a line lives (R262, R263, R268) -/

/-- Exclusive-or of seven 4-bit fields. -/
def xor7 (x : Nat) : Nat :=
  (List.range 7).foldl (fun r i => r ^^^ (x / 16 ^ i % 16)) 0

/-- Vault and vault line of a stack address (R263), under dev_units u. -/
def placeOf (u a : Nat) : Nat × Nat :=
  if a < u * 0x180000000 then
    let l := a / 128
    ((l % 512) ^^^ (l / 2 ^ 9 % 512) ^^^ (l / 2 ^ 18 % 512) ^^^ (l / 2 ^ 27 % 16), l / 512 % 2 ^ 22)
  else
    let a2 := a - u * 0x180000000
    let z := (32 - u) * 0xC000000
    let l2 := a2 % z / 128
    (16 * (a2 / z) + xor7 l2, u * 98304 + l2 / 16 % 2 ^ 22)

/-- Vault and vault line of stack line ln. -/
def State.place (s : State) (ln : Nat) : Nat × Nat := placeOf s.dev.ilv.toNat (128 * ln)
/-- Vault of stack line ln. -/
def State.vaultOf (s : State) (ln : Nat) : Nat := (s.place ln).1
/-- The line of its vault that stack line ln is (R263). -/
def State.lineIn (s : State) (ln : Nat) : Nat := (s.place ln).2
/-- Home cluster of stack line ln (R260). -/
def State.home (s : State) (ln : Nat) : Nat := (s.place ln).1 / 16
/-- Cache set of stack line ln (R268). -/
def State.setOf (s : State) (ln : Nat) : Nat :=
  64 * ((s.place ln).1 % 16) + ((s.place ln).2 % 64 ^^^ (s.place ln).2 / 64 % 64)

/-! ### Poison (R279) -/

/-- Whether stack line ln is poisoned as its readers see it. -/
def State.poisoned (s : State) (ln : Nat) : Bool := tget false s.poison ln
/-- Set or clear the poison of a line. -/
def State.setPoison (s : State) (ln : Nat) (p : Bool) : State := { s with poison := tput s.poison ln p }
/-! ### The vault side of an access (R258, R263, R278, R279, R281-R283) -/

/-- Count n events at the home of a line. -/
def State.countHome (s : State) (ev ln n : Nat) : State := s.count ev (.cluster (s.home ln)) none n

/-- Column of vault line q (R263). -/
def colOf (q : Nat) : Nat := q % 16
/-- Bank of vault line q (R263). -/
def bankOf (q : Nat) : Nat := q / 16 % 32 ^^^ q / 512 % 32
/-- Row of vault line q (R263). -/
def rowOf (q : Nat) : Nat := q / 512 % 2 ^ 13
/-- The vault line of a bank, row and column (the inverse of R263). -/
def vaultLineOf (bank row col : Nat) : Nat := row * 512 + (bank ^^^ row % 32) * 16 + col

/-- Number of a repair entry: vault, tier, store and index (R281). -/
def repairKey (vault tier store index : Nat) : Nat := ((vault * 8 + tier) * 4 + store) * 128 + index

/-- The spare that a fuse or soft entry of tier t of vault v gives a target of a bank: kind 1 a row, kind 2 a column group
(R281, R282). -/
def State.spareFor (s : State) (v t kind bank target : Nat) : Option Nat :=
  (s.repairs.find? fun e =>
    decide (e.1 / 512 = v * 8 + t) && decide (e.1 / 128 % 4 ≤ 1) && decide (bits e.2 0 2 = kind) &&
      decide (bits e.2 5 5 = bank) && decide (bits e.2 10 13 = target)).map fun e => bits e.2 23 6

/-- The row in which tier t of vault v holds a row of a bank: 6144 + k for spare row k. -/
def State.rowAt (s : State) (v t bank row : Nat) : Nat :=
  match s.spareFor v t 1 bank row with
  | some k => 6144 + k
  | none => row

/-- The column in which it holds a column: 16 + k for spare column group k. -/
def State.colAt (s : State) (v t bank col : Nat) : Nat :=
  match s.spareFor v t 2 bank col with
  | some k => 16 + k
  | none => col

/-- An upset lies in the codeword of vault line q of vault v. -/
def State.struck (s : State) (v q : Nat) (u : SymbolUpset) : Bool :=
  decide (u.vault.toNat = v) && decide (u.bank.toNat = bankOf q) &&
    decide (u.row.toNat = s.rowAt v u.tier.toNat (bankOf q) (rowOf q)) &&
    decide (u.col.toNat = s.colAt v u.tier.toNat (bankOf q) (colOf q))

/-- The symbols in error in the codeword of vault line q of vault v. -/
def State.symbolErrors (s : State) (v q : Nat) : List SymbolUpset := s.upsets.filter (s.struck v q)

/-- What the symbol decoder makes of a codeword (R278). -/
inductive Decoded where
  | clean
  | corrected (tiers : BitVec 6)
  | uncorrectable
  deriving DecidableEq, Repr

/-- Tiers of some upsets. -/
def tiersOf (us : List SymbolUpset) : BitVec 6 := us.foldl (fun r u => setBits r u.tier.toNat 1 1) 0

/-- The decoder corrects e symbol errors outside the failed tiers, whose 16 symbols each are erasures, if 2e + 16f is at most the
32 check symbols: 16 errors with no tier failed, 8 with one (R278; for more failed tiers log 43, DEDUCED). A pattern beyond that
is always detected (log 43, DESIGN CHOICE). -/
def decodeSymbols (failed : BitVec 6) (us : List SymbolUpset) : Decoded :=
  let f := ((List.range 6).filter fun t => bit failed t).length
  let e := (us.filter fun u => !bit failed u.tier.toNat).length
  if 32 < 2 * e + 16 * f then .uncorrectable
  else if us.isEmpty then .clean
  else .corrected (tiersOf us)

/-- What a read of vault line q of vault v decodes. -/
def State.decodeLine (s : State) (v q : Nat) : Decoded := decodeSymbols (s.vault v).failed (s.symbolErrors v q)

/-- Failures strike stored symbols; a symbol struck again stays in error. -/
def State.strike (s : State) (us : List SymbolUpset) : State :=
  { s with upsets := us.foldl (fun l u => if l.contains u then l else u :: l) s.upsets }

/-- The codeword of vault line q of vault v is written anew. -/
def State.rewrite (s : State) (v q : Nat) : State := { s with upsets := s.upsets.filter fun u => !s.struck v q u }

/-- A line is written to its vault. -/
def State.vaultWrite (s : State) (ln : Nat) : State :=
  (s.rewrite (s.vaultOf ln) (s.lineIn ln)).countHome evStackWrLines ln 1

/-- The line is known to be uncorrectable: it is poisoned and counted. -/
def State.poisonLine (s : State) (ln : Nat) : State :=
  (((s.rewrite (s.vaultOf ln) (s.lineIn ln)).modVault (s.vaultOf ln) fun x => { x with ue := satInc x.ue }).countHome evStackUe ln 1).setPoison ln true

/-- A correction is counted per vault and tier, and the line rewritten through the write queue (R279). -/
def State.correctLine (s : State) (ln : Nat) (tiers : BitVec 6) : State :=
  let s := s.modVault (s.vaultOf ln) fun v => { v with ce := satInc v.ce, ceTier := v.ceTier ||| tiers }
  (s.countHome evStackCe ln 1).vaultWrite ln

/-- A vault read of line ln: a correction is counted and rewritten, an uncorrectable codeword poisons the line. The record of
this detection is made here with source `det`; where `det` is none, a stream's consumer reads the line, and its fault is that
record (R279). -/
def State.vaultRead (s : State) (ln : Nat) (det : Option (Nat × Nat)) : State :=
  let s := s.countHome evStackRdLines ln 1
  if s.poisoned ln then s
  else
    match s.decodeLine (s.vaultOf ln) (s.lineIn ln) with
    | .clean => s
    | .corrected tiers => s.correctLine ln tiers
    | .uncorrectable =>
      let s := s.poisonLine ln
      match det with
      | some (k, i) => s.latchFault ⟨eStackUe, BitVec.ofNat 8 k, BitVec.ofNat 16 i, none, BitVec.ofNat 64 (128 * ln), 0⟩
      | none => s

/-! ### The cluster cache (R268-R271) -/

/-- The cached line ln, if present at its home. -/
def State.cline (s : State) (ln : Nat) : Option Line := tget none (s.cluster (s.home ln)).lines ln
/-- Replace or drop the cached line ln. -/
def State.setCline (s : State) (ln : Nat) (x : Option Line) : State :=
  s.modCluster (s.home ln) fun c => { c with lines := tput c.lines ln x }
/-- Advance the recency stamp of the home of ln. -/
def State.tick (s : State) (ln : Nat) : State := s.modCluster (s.home ln) fun c => { c with stamp := c.stamp + 1 }
/-- The recency stamp at the home of ln. -/
def State.stampOf (s : State) (ln : Nat) : Nat := (s.cluster (s.home ln)).stamp

/-- A reader of stack line ln meets a poisoned line: marked, or absent from its home cache with a codeword that does not
decode. -/
def State.badLine (s : State) (ln : Nat) : Bool :=
  s.poisoned ln || ((s.cline ln).isNone && decide (s.decodeLine (s.vaultOf ln) (s.lineIn ln) = .uncorrectable))

/-- First stack line, among those of the n bytes from a, that is poisoned to its readers. -/
def State.poisonIn (s : State) (a n : Nat) : Option Nat :=
  if inStack a n && decide (0 < n) then
    ((List.range ((a + n - 1) / 128 - a / 128 + 1)).map (fun i => a / 128 + i)).find? s.badLine
  else none

/-- A stream's fault at a line of this device found uncorrectable is its detection: the line is marked if it was not (R279). -/
def State.senseUe (s : State) (code : Code) (arg0 : W64) : State :=
  if code = eStackUe ∧ arg0.toNat < 2 ^ 48 ∧ s.poisoned (arg0.toNat / 128) = false then s.poisonLine (arg0.toNat / 128) else s

/-- The present lines of the set of ln. -/
def State.setLines (s : State) (ln : Nat) : List (Nat × Line) :=
  (s.cluster (s.home ln)).lines.filterMap fun e =>
    match e.2 with
    | some l => if s.setOf e.1 = s.setOf ln then some (e.1, l) else none
    | none => none

/-- The least recent of some lines. -/
def leastRecent : List (Nat × Line) → Option (Nat × Line)
  | [] => none
  | e :: t =>
    match leastRecent t with
    | none => some e
    | some f => if f.2.stamp < e.2.stamp then some f else some e

/-- Least recent line of a class. -/
def lruOf (ls : List (Nat × Line)) (c : LineClass) : Option (Nat × Line) :=
  leastRecent (ls.filter fun e => decide (e.2.cls = c))

/-- Write line ln back if dirty: the stack beneath takes the bytes (R271, R273). -/
def State.writeBack (s : State) (ln : Nat) : State :=
  match s.cline ln with
  | some l => if l.shadow.isSome then (s.setCline ln (some { l with shadow := none })).vaultWrite ln else s
  | none => s

/-- Free a way in the set of ln (R271). -/
def State.makeRoom (s : State) (ln : Nat) : State :=
  let ls := s.setLines ln
  if ls.length < 16 then s
  else
    match (lruOf ls .evictFirst).or ((lruOf ls .normal).or (lruOf ls .keep)) with
    | some (v, _) => (s.writeBack v).setCline v none
    | none => s

/-- Retention class under which ln is allocated; a keep line beyond keep_max demotes the set's least recent one (R271). -/
def State.classFor (s : State) (ln : Nat) (c : LineClass) : LineClass × State :=
  if c = .keep then
    let m := bits (s.cluster (s.home ln)).cchCfg 0 5
    if m = 0 then (.normal, s)
    else
      let ls := s.setLines ln
      if m ≤ (ls.filter fun e => decide (e.2.cls = .keep)).length then
        match lruOf ls .keep with
        | some (v, l) => (.keep, (s.setCline v (some { l with cls := .normal })).countHome evCchKeepDemote ln 1)
        | none => (.keep, s)
      else (.keep, s)
  else (c, s)

/-- Allocate line ln, clean. -/
def State.allocLine (s : State) (ln : Nat) (c : LineClass) (count : BitVec 16) (tag : Option (BitVec 16)) : State :=
  let (cls, s) := s.classFor ln c
  let s := s.makeRoom ln
  (s.setCline ln (some ⟨cls, count, tag.getD 0, s.stampOf ln, none⟩)).tick ln

/-- Make the present line ln dirty, keeping the stack bytes beneath it (R273). -/
def State.makeDirty (s : State) (ln : Nat) : State :=
  match s.cline ln with
  | some l =>
    if l.shadow.isSome then s
    else s.setCline ln (some { l with shadow := some (s.bytes (128 * ln) 128, s.poisoned ln) })
  | none => s

/-- Move line ln to evict-first, counted (R270, R273). -/
def State.evictFirst (s : State) (ln : Nat) : State :=
  match s.cline ln with
  | some l =>
    if l.cls = .evictFirst then s
    else (s.setCline ln (some { l with cls := .evictFirst })).countHome evCchEvictFirst ln 1
  | none => s

/-- Touch of a present line under a hint (R269, R270): class, count, recency and tag. A touch by a macro-instruction of
another tag decrements the count of a keep line, which stops at 0 (log 18, DEDUCED). -/
def State.touchLine (s : State) (ln : Nat) (hint : Hint) (uses : BitVec 16) (tag : Option (BitVec 16)) : State :=
  match s.cline ln with
  | none => s
  | some l =>
    let dec := decide (l.cls = .keep) && decide (hint ≠ .last) &&
      (match tag with | some t => decide (t ≠ l.tag) | none => false)
    let cnt := if hint = .last then uses else if dec then (if l.count = 0 then 0 else l.count - 1) else l.count
    let cls := if hint = .keep ∨ hint = .last then .keep else l.cls
    let stamp := if hint = .stream then l.stamp else s.stampOf ln
    let s := (s.setCline ln (some { l with cls := cls, count := cnt, tag := tag.getD l.tag, stamp := stamp })).tick ln
    if (dec && decide (cnt = 0)) || (decide (hint = .last) && decide (uses = 0)) then s.evictFirst ln else s

/-- Class that a hint allocates (R269). -/
def hintClass : Hint → LineClass
  | .keep => .keep
  | .last => .keep
  | _ => .normal

/-- Line-path read of line ln (R269), with the fault source a detection would have. -/
def State.lineRead (s : State) (ln : Nat) (hint : Hint) (uses : BitVec 16) (tag : Option (BitVec 16)) (det : Option (Nat × Nat)) :
    State :=
  if (s.cline ln).isSome then (s.countHome evCchHit ln 1).touchLine ln hint uses tag
  else
    let s := (s.countHome evCchMiss ln 1).vaultRead ln det
    if hint = .stream then s.countHome evCchStreamBypass ln 1
    else
      let s := s.allocLine ln (hintClass hint) (if hint = .last then uses else 0) tag
      if hint = .last ∧ uses = 0 then s.evictFirst ln else s

/-- Store bytes within one line, whole lines clearing the poison (R279). -/
def State.storeLine (s : State) (a : Nat) (bs : List Byte) : State :=
  let s := s.putBytes a bs
  if bs.length = 128 then s.setPoison (a / 128) false else s

/-- The source of a detection that no stream consumes: the home cluster of the line (R458, log 43, DEDUCED). -/
def State.atHome (s : State) (ln : Nat) : Option (Nat × Nat) := some (1, s.home ln)

/-- Line-path write of bytes within one line (R269). A partial write of an absent line reads the codeword first. -/
def State.lineWrite (s : State) (a : Nat) (bs : List Byte) (hint : Hint) (uses : BitVec 16) (tag : Option (BitVec 16)) : State :=
  let ln := a / 128
  if (s.cline ln).isSome then
    (((s.countHome evCchHit ln 1).makeDirty ln).storeLine a bs).touchLine ln hint uses tag
  else
    let s := if bs.length = 128 then s else (s.countHome evCchMiss ln 1).vaultRead ln (s.atHome ln)
    if hint = .stream then
      let s := if bs.length = 128 then s.countHome evCchMiss ln 1 else s
      ((s.storeLine a bs).vaultWrite ln).countHome evCchStreamBypass ln 1
    else
      let s := s.allocLine ln (hintClass hint) (if hint = .last then uses else 0) tag
      let s := (s.makeDirty ln).storeLine a bs
      if hint = .last ∧ uses = 0 then s.evictFirst ln else s

/-- Cut a write into pieces that each lie in one line. -/
def linePieces : Nat → Nat → List Byte → List (Nat × List Byte)
  | 0, _, _ => []
  | n + 1, a, bs =>
    match bs with
    | [] => []
    | _ => (a, bs.take (128 - a % 128)) :: linePieces n (a + (128 - a % 128)) (bs.drop (128 - a % 128))

/-- A line-path write of bytes anywhere: stack bytes through their home caches, local store bytes in place. -/
def State.store (s : State) (a : Nat) (bs : List Byte) (hint : Hint) (uses : BitVec 16) (tag : Option (BitVec 16)) : State :=
  if inStack a bs.length then
    (linePieces (bs.length / 128 + 2) a bs).foldl
      (fun s p => s.lineWrite p.1 p.2 hint uses tag) s
  else if inStore a bs.length then s.putBytes a bs
  else s

/-- A line-path write without a record's hint (R269). -/
def State.storePlain (s : State) (a : Nat) (bs : List Byte) : State := s.store a bs .none 0 none

/-- Lines of the n bytes from a. -/
def linesOf (a n : Nat) : List Nat :=
  if n = 0 then [] else (List.range ((a + n - 1) / 128 - a / 128 + 1)).map fun i => a / 128 + i

/-- Line-path reads of the lines of the n bytes from a, if they lie in the stack. -/
def State.readLines (s : State) (a n : Nat) (hint : Hint) (uses : BitVec 16) (tag : Option (BitVec 16)) : State :=
  if inStack a n then
    (linesOf a n).foldl (fun s ln => s.lineRead ln hint uses tag (s.atHome ln)) s
  else s

/-! ### The awl (R274-R276) -/

/-- The awl of cluster cl accepts a request. -/
def State.awlAccept (s : State) (cl : Nat) : State := s.count evAwlReq (.cluster cl) none 1

/-- An awl read of line ln (R275), with the fault source a detection would have. -/
def State.awlRead (s : State) (cl ln : Nat) (det : Option (Nat × Nat)) : State :=
  let s := s.awlAccept cl
  if (s.cline ln).isSome then s.countHome evAwlHit ln 1
  else
    let s := s.vaultRead ln det
    if bit (s.cluster (s.home ln)).awlCfg 0 then s.allocLine ln .normal 0 none else s

/-- An awl store of bytes within one line (R275); the same merge serves an atomic. -/
def State.awlStore (s : State) (cl a : Nat) (bs : List Byte) (det : Option (Nat × Nat)) : State :=
  let ln := a / 128
  let s := s.awlAccept cl
  if (s.cline ln).isSome then ((s.countHome evAwlHit ln 1).makeDirty ln).storeLine a bs
  else
    let s := s.vaultRead ln det
    if bit (s.cluster (s.home ln)).awlCfg 1 then ((s.allocLine ln .normal 0 none).makeDirty ln).storeLine a bs
    else (s.storeLine a bs).vaultWrite ln

/-- The new value of an atomic (R125): operand v, comparison value cmp for compare-and-swap. -/
def amoNew (fn : AmoFn) (old cmp v : W64) : W64 :=
  match fn with
  | .add => old + v
  | .swap => v
  | .cas => if old = cmp then v else old
  | .max => if v.toInt < old.toInt then old else v
  | .min => if old.toInt < v.toInt then old else v
  | .or => old ||| v
  | .and => old &&& v

/-- A 64-bit atomic at an aligned stack address (R275); the old value is what State.num reads before it. -/
def State.awlAtomic (s : State) (cl a : Nat) (fn : AmoFn) (cmp v : W64) (det : Option (Nat × Nat)) : State :=
  let old : W64 := BitVec.ofNat 64 (s.num a 8)
  (s.awlStore cl a (leBytes 8 (amoNew fn old cmp v).toNat) det).countHome evAwlAtomic (a / 128) 1

/-! ### Cache control (R273) -/

/-- Drop line ln without write-back: the stack keeps its earlier contents. -/
def State.invalidateLine (s : State) (ln : Nat) : State :=
  match s.cline ln with
  | some l =>
    let s := match l.shadow with
      | some (bs, p) => (s.putBytes (128 * ln) bs).setPoison ln p
      | none => s
    s.setCline ln none
  | none => s

/-- The line state a load from the control window returns. -/
def State.lineState (s : State) (ln : Nat) : Nat :=
  match s.cline ln with
  | none => 0
  | some l =>
    1 + 2 * b2n l.shadow.isSome +
    4 * (match l.cls with | .normal => 0 | .keep => 1 | .evictFirst => 2) + 16 * l.count.toNat

end Sys2Proof.Machine
end

