-- ==== Sys2Proof/Machine/Link.lean ====
section
/-! DEFINITION. Sending packets: routing, virtual channels, the replay buffer, and tags of remote requests (R350-R366). -/

namespace Sys2Proof.Machine

/-- Whether a link carries flits. -/
def Port.up (p : Port) : Bool := decide (p.link = .up4) || decide (p.link = .up2)

/-- Virtual channel of a packet type (R356). -/
def vcOf (typ : BitVec 8) : Nat := if typ.toNat < 0x10 then 0 else if typ.toNat < 0x20 then 1 else 2
/-- Receive slots of a virtual channel (R354). -/
def vcSlots (vc : Nat) : Nat := if vc = 2 then 256 else 2048
/-- Slots a packet occupies: header, the mask of a WRL, payload (R355, R356). -/
def pktSlots (p : Packet) : Nat := 1 + b2n (decide (p.typ = 0x04)) + ceilDiv p.pay.length 16

/-- Send waiting packets of port p while the replay buffer and the credits allow, one packet a data flit (R352, R354,
log 19, DESIGN CHOICE). -/
def State.pump (s : State) (p : Nat) : Nat → State
  | 0 => s
  | n + 1 =>
    let x := s.port p
    match x.queue with
    | [] => s
    | pkt :: q =>
      let vc := vcOf pkt.typ
      if x.up && decide (x.replay.length < 512) && decide (tget 0 x.used vc + pktSlots pkt ≤ vcSlots vc) then
        let s := s.modPort p fun x => { x with
          queue := q, replay := x.replay ++ [(x.txNext, [pkt])], txNext := x.txNext + 1,
          used := tmod 0 x.used vc (· + pktSlots pkt) }
        let s := { s with out := { s.out with packets := s.out.packets ++ [(p, pkt)] } }
        (s.count evFabTxFlits (.port p) none 1).pump p n
      else s

/-- Queue a packet at port p. -/
def State.sendOn (s : State) (p : Nat) (pkt : Packet) : State :=
  let s := s.modPort p fun x => { x with queue := x.queue ++ [pkt] }
  s.pump p (s.port p).queue.length

/-- Ports of a mask that are up and carry this system's packets (R359, R372). -/
def State.eligible (s : State) (mask : Nat) : List Nat :=
  (List.range 32).filter fun p => decide (mask / 2 ^ p % 2 = 1) && (s.port p).up && !(s.port p).foreign

/-- The output port of a packet (R359). -/
def State.routePort (s : State) (pkt : Packet) : Option Nat :=
  let e := tget 0 s.fab.routes pkt.dst.toNat
  if !bit e 32 then none
  else
    let ps := s.eligible (bits e 0 32)
    if ps.isEmpty then none
    else
      let h := pkt.src.toNat ^^^ pkt.dst.toNat ^^^ bits pkt.addr 7 16 ^^^ bits pkt.addr 23 16
      ps[h % ps.length]?

/-- A packet of this device with 64 hops. -/
def State.mkPkt (s : State) (typ : BitVec 8) (dst : Nat) (tag : BitVec 13) (addr : Nat) (code : BitVec 8)
    (pay : List Byte) : Packet :=
  ⟨typ, BitVec.ofNat 16 dst, BitVec.ofNat 16 s.own, tag, BitVec.ofNat 48 addr, code, 64, 0, pay⟩

/-- Send a response; one without a route is discarded and counted (R359). -/
def State.sendRsp (s : State) (pkt : Packet) : State :=
  match s.routePort pkt with
  | some p => s.sendOn p pkt
  | none => s.countDev evFabBadPkt

/-- Whether an earlier write or atomic of this device to the line of a remote address awaits its response (R361). -/
def State.lineHeld (s : State) (dst addr : Nat) : Bool :=
  s.fab.reqs.any fun e =>
    match e.2 with
    | some r => decide (r.pkt.dst.toNat = dst) && decide (r.pkt.addr.toNat / 128 = addr / 128) &&
        (decide (r.pkt.typ = 0x03) || decide (r.pkt.typ = 0x04) || decide (r.pkt.typ = 0x05))
    | none => false

/-- Lowest free tag (R363). -/
def State.freeTag (s : State) : Option Nat :=
  (List.range 8192).find? fun t => (tget none s.fab.reqs t).isNone

/-- Free a tag. -/
def State.dropTag (s : State) (t : Nat) : State :=
  { s with fab := { s.fab with reqs := tput s.fab.reqs t none } }

/-- Change an outstanding request. -/
def State.modReq (s : State) (t : Nat) (f : Req → Req) : State :=
  { s with fab := { s.fab with reqs := tput s.fab.reqs t ((tget none s.fab.reqs t).map f) } }

/-- What becomes of a remote request at its sender. -/
inductive Sending where
  | sent (tag : Nat) (s : State)
  | failed (code : Code)
  | held (qual : Nat)

/-- Send a remote request (R361-R366): a destination that is not live fails, an earlier write to the line holds it
(qualifier 8 of the model), a tag is needed (qualifier 5), a missing route fails. -/
def State.request (s : State) (typ : BitVec 8) (dst addr : Nat) (code : BitVec 8) (mask : BitVec 128) (pay : List Byte)
    (who : Requester) : Sending :=
  if !s.isLive dst then .failed eFabUnreach
  else if s.lineHeld dst addr then .held 8
  else
    match s.freeTag with
    | none => .held 5
    | some t =>
      let pkt := { s.mkPkt typ dst (BitVec.ofNat 13 t) addr code pay with mask := mask }
      match s.routePort pkt with
      | none => .failed eFabRoute
      | some p =>
        let s := { s with fab := { s.fab with reqs := tput s.fab.reqs t (some ⟨pkt, who, false⟩) } }
        .sent t ((s.countDev evFabRemoteReq).sendOn p pkt)

/-- Code of an atomic function in a packet (R125, R355). -/
def amoCode : AmoFn → BitVec 8
  | .add => 0 | .swap => 1 | .cas => 2 | .max => 3 | .min => 4 | .or => 5 | .and => 6

/-- The atomic function of a packet code. -/
def amoOf (c : BitVec 8) : Option AmoFn :=
  match c.toNat with
  | 0 => some .add | 1 => some .swap | 2 => some .cas | 3 => some .max | 4 => some .min | 5 => some .or | 6 => some .and
  | _ => none

end Sys2Proof.Machine
end

