-- ==== Sys2Proof/Machine/Num.lean ====
section
/-! DEFINITION. Number formats, exact values, the single rounding, and the exact accumulator (R45-R72). -/

namespace Sys2Proof.Machine

/-! ### Exact values -/

/-- An exact value: NaN, an infinity, or the signed rational p / q * 2^e with q > 0 (p = 0 keeps the sign of a zero). -/
inductive Num where
  | nan
  | inf (neg : Bool)
  | num (neg : Bool) (p q : Nat) (e : Int)
  deriving DecidableEq, Repr

/-- Positive zero. -/
def Num.zero : Num := .num false 0 1 0
/-- An integer. -/
def Num.ofInt (i : Int) : Num := .num (decide (i < 0)) i.natAbs 1 0
/-- 2^i as a natural factor for i ≥ 0. -/
def p2 (i : Int) : Nat := 2 ^ i.toNat

/-- Sign bit of a value; NaN counts as positive (R64). -/
def Num.neg : Num → Bool
  | .nan => false
  | .inf n => n
  | .num n _ _ _ => n
/-- Whether a value is a zero. -/
def Num.isZero : Num → Bool
  | .num _ p _ _ => decide (p = 0)
  | _ => false
/-- Whether a value is finite. -/
def Num.isFin : Num → Bool
  | .num .. => true
  | _ => false
/-- The value with the other sign. -/
def Num.opp : Num → Num
  | .nan => .nan
  | .inf n => .inf (!n)
  | .num n p q e => .num (!n) p q e
/-- The magnitude. -/
def Num.abs : Num → Num
  | .nan => .nan
  | .inf _ => .inf false
  | .num _ p q e => .num false p q e

/-- Signed integer of a sign and a magnitude. -/
def sgn (neg : Bool) (p : Nat) : Int := if neg then -(p : Int) else p

/-- Exact product; an infinity times zero is NaN. -/
def Num.mul : Num → Num → Num
  | .nan, _ => .nan
  | _, .nan => .nan
  | .inf a, .inf b => .inf (a != b)
  | .inf a, .num b p _ _ => if p = 0 then .nan else .inf (a != b)
  | .num a p _ _, .inf b => if p = 0 then .nan else .inf (a != b)
  | .num a p q e, .num b r t f => .num (a != b) (p * r) (q * t) (e + f)

/-- Exact sum; opposite infinities give NaN, an exact zero sum is +0 unless both terms are -0. -/
def Num.add : Num → Num → Num
  | .nan, _ => .nan
  | _, .nan => .nan
  | .inf a, .inf b => if a = b then .inf a else .nan
  | .inf a, .num .. => .inf a
  | .num .., .inf b => .inf b
  | .num a p q e, .num b r t f =>
    let g := min e f
    let v := sgn a (p * p2 (e - g) * t) + sgn b (r * p2 (f - g) * q)
    if v = 0 then .num (a && b && decide (p = 0) && decide (r = 0)) 0 1 0
    else .num (decide (v < 0)) v.natAbs (q * t) g

/-- Exact quotient by a finite nonzero value; otherwise as IEEE 754 division. -/
def Num.div : Num → Num → Num
  | .nan, _ => .nan
  | _, .nan => .nan
  | .inf _, .inf _ => .nan
  | .inf a, .num b _ _ _ => .inf (a != b)
  | .num a _ _ _, .inf b => .num (a != b) 0 1 0
  | .num a p q e, .num b r t f =>
    if r = 0 then (if p = 0 then .nan else .inf (a != b)) else .num (a != b) (p * t) (q * r) (e - f)

/-- a < b for finite values or infinities; false with a NaN. -/
def Num.lt : Num → Num → Bool
  | .nan, _ => false
  | _, .nan => false
  | .inf a, .inf b => a && !b
  | .inf a, .num .. => a
  | .num .., .inf b => !b
  | .num a p q e, .num b r t f =>
    let g := min e f
    decide (sgn a (p * p2 (e - g) * t) < sgn b (r * p2 (f - g) * q))

/-- Ordered comparison on not-NaN values. -/
def Num.le (a b : Num) : Bool :=
  match a, b with
  | .nan, _ => false
  | _, .nan => false
  | a, b => !b.lt a
/-- Numerical equality; the zeros are equal, NaN equals nothing. -/
def Num.eqv (a b : Num) : Bool := a.le b && b.le a

/-- floor(log2 (p / q)) for p, q > 0. -/
def ilog (p q : Nat) : Int :=
  let k : Int := (Nat.log2 p : Int) - Nat.log2 q
  if q * p2 k ≤ p * p2 (-k) then k else k - 1

/-- floor(log2 |x|) of a finite nonzero value. -/
def Num.exp : Num → Int
  | .num _ p q e => ilog p q + e
  | _ => 0

/-! ### Formats (R45, R47) -/

/-- What the top exponent encodes: infinities and NaNs, E4M3's one NaN, or nothing special. -/
inductive Special where
  | ieee | nanOnly | none
  deriving DecidableEq, Repr

/-- A floating-point format. -/
structure FFmt where
  eb : Nat
  fb : Nat
  bias : Int
  sp : Special
  deriving DecidableEq, Repr

def fp32F : FFmt := ⟨8, 23, 127, .ieee⟩
def fp16F : FFmt := ⟨5, 10, 15, .ieee⟩
def bf16F : FFmt := ⟨8, 7, 127, .ieee⟩
def e4m3F : FFmt := ⟨4, 3, 7, .nanOnly⟩
def e5m2F : FFmt := ⟨5, 2, 15, .ieee⟩
def e3m2F : FFmt := ⟨3, 2, 3, .none⟩
def e2m3F : FFmt := ⟨2, 3, 1, .none⟩
def e2m1F : FFmt := ⟨2, 1, 1, .none⟩

/-- Element format of a floating-point format code (R45). -/
def ffmt (code : Nat) : Option FFmt :=
  match code with
  | 0x01 => some fp32F | 0x02 => some fp16F | 0x03 => some bf16F | 0x04 => some e4m3F | 0x05 => some e5m2F
  | 0x06 => some e4m3F | 0x07 => some e5m2F | 0x08 => some e3m2F | 0x09 => some e2m3F | 0x0A => some e2m1F
  | _ => none

/-- Bits per element of a format code; 0 for a code with none (R45). -/
def fmtBits (code : Nat) : Nat :=
  match code with
  | 0x01 => 32 | 0x02 => 16 | 0x03 => 16 | 0x04 => 8 | 0x05 => 8 | 0x06 => 8 | 0x07 => 8 | 0x08 => 6 | 0x09 => 6
  | 0x0A => 4 | 0x0B => 8 | 0x0C => 8 | 0x0D => 4 | 0x0F => 32 | _ => 0

/-- Microscaling formats. -/
def isMx (code : Nat) : Bool := decide (0x06 ≤ code) && decide (code ≤ 0x0A)
/-- Integer formats. -/
def isIntFmt (code : Nat) : Bool := decide (0x0B ≤ code) && decide (code ≤ 0x0D) || decide (code = 0x0F)
/-- 4-bit formats, two products a cell (R52). -/
def is4bit (code : Nat) : Bool := decide (code = 0x0A) || decide (code = 0x0D)
/-- Allowed as a matrix input, VQ codes apart (R45). -/
def matIn (code : Nat) : Bool := decide (1 ≤ code) && decide (code ≤ 0x0D)
/-- Allowed as a matrix output (R45). -/
def matOut (code : Nat) : Bool := matIn code || decide (code = 0x0F)
/-- Allowed as a vector register format (R45). -/
def vecFmt (code : Nat) : Bool := decide (code = 1) || decide (code = 2) || decide (code = 3) || decide (code = 0x0F)
/-- Allowed as a memory format of vector loads and stores (R45). -/
def vecMem (code : Nat) : Bool :=
  vecFmt code || decide (code = 4) || decide (code = 5) || decide (code = 0x0B) || decide (code = 0x0C)
/-- Pieces of an operand (R50). -/
def pieces (code : Nat) : Nat := if code = 1 then 3 else if code = 2 then 2 else 1

/-- Width of a floating-point format. -/
def FFmt.width (f : FFmt) : Nat := 1 + f.eb + f.fb
/-- Least exponent of a normal number. -/
def FFmt.emin (f : FFmt) : Int := 1 - f.bias
/-- Exponent of the largest finite value (R47). -/
def FFmt.emax (f : FFmt) : Int := (2 ^ f.eb - (if f.sp = .ieee then 2 else 1) : Int) - f.bias
/-- Largest finite significand in units of 2^(emax - fb). -/
def FFmt.maxSig (f : FFmt) : Nat := 2 ^ (f.fb + 1) - (if f.sp = .nanOnly then 2 else 1)
/-- Code of the largest finite magnitude. -/
def FFmt.maxCode (f : FFmt) : Nat :=
  match f.sp with
  | .ieee => (2 ^ f.eb - 1) * 2 ^ f.fb - 1
  | .nanOnly => 2 ^ (f.eb + f.fb) - 2
  | .none => 2 ^ (f.eb + f.fb) - 1
/-- Code of +∞ of an IEEE format. -/
def FFmt.infCode (f : FFmt) : Nat := (2 ^ f.eb - 1) * 2 ^ f.fb
/-- The canonical NaN (R64). -/
def FFmt.nanCode (f : FFmt) : Nat :=
  match f.sp with
  | .ieee => f.infCode + 2 ^ (f.fb - 1)
  | _ => 2 ^ (f.eb + f.fb) - 1
/-- Code with the sign bit added. -/
def FFmt.signed (f : FFmt) (neg : Bool) (c : Nat) : Nat := c + b2n neg * 2 ^ (f.eb + f.fb)

/-- The value of a floating-point code (R47). E5M2's canonical NaN differs from fraction 1 only in its fraction (R64). -/
def FFmt.decode (f : FFmt) (c : Nat) : Num :=
  let neg := decide (c / 2 ^ (f.eb + f.fb) % 2 = 1)
  let x := c / 2 ^ f.fb % 2 ^ f.eb
  let m := c % 2 ^ f.fb
  if f.sp = .ieee ∧ x = 2 ^ f.eb - 1 then (if m = 0 then .inf neg else .nan)
  else if f.sp = .nanOnly ∧ x = 2 ^ f.eb - 1 ∧ m = 2 ^ f.fb - 1 then .nan
  else if x = 0 then .num neg m 1 (f.emin - f.fb)
  else .num neg (m + 2 ^ f.fb) 1 ((x : Int) - f.bias - f.fb)

/-- The value of an element code, block scale apart. -/
def decodeElem (code c : Nat) : Num :=
  match ffmt code with
  | some f => f.decode c
  | none =>
    if code = 0x0C then .num false (c % 256) 1 0
    else
      let w := fmtBits code
      Num.ofInt (signed w c)

/-- Multiply by an E8M0 scale (R48). -/
def Num.scale (v : Num) (c : Nat) : Num :=
  if c = 0xFF then .nan
  else
    match v with
    | .num n p q e => .num n p q (e + c - 127)
    | v => v

/-! ### Rounding (R60-R66) -/

/-- Rounding modes; `word r` is stochastic with the word r (R61). -/
inductive Rnd where
  | near | zero | word (r : W32)
  deriving DecidableEq, Repr

/-- Whether the magnitude steps up, for the quotient n and the remainder rem / den below it (R60, R61). -/
def stepUp (rnd : Rnd) (n rem den : Nat) : Bool :=
  match rnd with
  | .near => decide (den < 2 * rem) || (decide (2 * rem = den) && decide (n % 2 = 1))
  | .zero => false
  | .word r => decide (r.toNat < rem * 2 ^ 32 / den)

/-- Numerator and denominator of p / q * 2^e in units of 2^u. -/
def inUnits (p q : Nat) (e u : Int) : Nat × Nat := (p * p2 (e - u), q * p2 (u - e))

/-- What an element becomes: a code, or a NaN of its whole block (R63). -/
inductive Enc where
  | code (c : Nat)
  | scaleNan
  deriving DecidableEq, Repr

/-- What an overflow writes (R63). -/
def FFmt.overflow (f : FFmt) (rnd : Rnd) (sat neg : Bool) : Enc :=
  if sat || decide (rnd = .zero) then .code (f.signed neg f.maxCode)
  else
    match f.sp with
    | .ieee => .code (f.signed neg f.infCode)
    | .nanOnly => .code f.nanCode
    | .none => .scaleNan

/-- Code of n * 2^u, known representable, with u the unit of its binade. -/
def FFmt.pack (f : FFmt) (neg : Bool) (n : Nat) (u : Int) : Nat :=
  if n < 2 ^ f.fb then f.signed neg n
  else f.signed neg (((u - (f.emin - f.fb) + 1).toNat) * 2 ^ f.fb + (n - 2 ^ f.fb))

/-- Round the magnitude p / q * 2^e, p > 0, once (R60-R63). `sat` chooses the last column of R63. -/
def FFmt.roundMag (f : FFmt) (rnd : Rnd) (sat neg : Bool) (p q : Nat) (e : Int) : Enc :=
  let x := ilog p q + e
  if f.emax < x then f.overflow rnd sat neg
  else
    let u := max x f.emin - f.fb
    let (a, d) := inUnits p q e u
    let n := a / d
    if x = f.emax ∧ f.maxSig ≤ n then
      match rnd with
      | .zero => .code (f.signed neg f.maxCode)
      | .near => if stepUp .near n (a % d) d || decide (f.maxSig < n) then f.overflow rnd sat neg
                 else .code (f.signed neg f.maxCode)
      | .word r =>
        let gap := 2 ^ (f.fb + 1) - f.maxSig
        if r.toNat < (a - f.maxSig * d) * 2 ^ 32 / (d * gap) then f.overflow rnd sat neg
        else .code (f.signed neg f.maxCode)
    else
      let n := n + b2n (stepUp rnd n (a % d) d)
      if n = 2 ^ (f.fb + 1) then .code (f.pack neg (2 ^ f.fb) (u + 1))
      else .code (f.pack neg n u)

/-- Round an exact value into a floating-point element format (R62-R64). -/
def FFmt.encode (f : FFmt) (rnd : Rnd) (sat : Bool) (v : Num) : Enc :=
  match v with
  | .nan => if f.sp = .none then .scaleNan else .code f.nanCode
  | .inf neg =>
    if sat then .code (f.signed neg f.maxCode)
    else
      match f.sp with
      | .ieee => .code (f.signed neg f.infCode)
      | .nanOnly => .code f.nanCode
      | .none => .scaleNan
  | .num neg p q e => if p = 0 then .code (f.signed neg 0) else f.roundMag rnd sat neg p q e

/-- Round a finite magnitude to an integer. -/
def roundInt (rnd : Rnd) (p q : Nat) (e : Int) : Nat :=
  let (a, d) := inUnits p q e 0
  a / d + b2n (stepUp rnd (a / d) (a % d) d)

/-- Range of an integer format. -/
def intRange (code : Nat) : Int × Int :=
  if code = 0x0B then (-128, 127) else if code = 0x0C then (0, 255) else if code = 0x0D then (-8, 7)
  else (-2147483648, 2147483647)

/-- Round and saturate into an integer format (R66). -/
def encodeInt (code : Nat) (rnd : Rnd) (v : Num) : Nat :=
  let (lo, hi) := intRange code
  let i : Int := match v with
    | .nan => 0
    | .inf neg => if neg then lo else hi
    | .num neg p q e => max lo (min hi (sgn neg (roundInt rnd p q e)))
  wrapNat (fmtBits code) i

/-- Round a value into a format that is not MX (R60-R66). -/
def encodeElem (code : Nat) (rnd : Rnd) (sat : Bool) (v : Num) : Nat :=
  match ffmt code with
  | some f => (match f.encode rnd sat v with | .code c => c | .scaleNan => 0)
  | none => encodeInt code rnd v

/-- Scale exponent X of an MX output block (R65). -/
def mxExp (f : FFmt) (vs : List Num) : Int :=
  let es := (vs.filter fun v => v.isFin && !v.isZero).map Num.exp
  match es with
  | [] => -127
  | x :: t => max (-127) (min 127 (t.foldl max x - f.emax))

/-- Scale byte and element codes of an MX output block (R63-R65), one rounding mode an element. -/
def encodeBlock (f : FFmt) (sat : Bool) (vs : List (Num × Rnd)) : Nat × List Nat :=
  let x := mxExp f (vs.map Prod.fst)
  let es := vs.map fun v =>
    match v.1 with
    | .nan => Enc.scaleNan
    | .num n p q e => f.encode v.2 sat (.num n p q (e - x))
    | .inf n => f.encode v.2 sat (.inf n)
  let bad := es.any fun e => match e with
    | .scaleNan => true
    | .code c => (f.decode c) = .nan
  if bad then (0xFF, vs.map fun _ => 0)
  else ((x + 127).toNat, es.map fun e => match e with | .code c => c | .scaleNan => 0)

/-! ### The exact accumulator (R54-R58) -/

/-- log2 of the weight of the smallest nonzero value of a matrix input format (R54). -/
def baseOf (code : Nat) : Int :=
  match ffmt code with
  | some f => f.emin - f.fb + (if isMx code then -127 else 0)
  | none => 0

/-- A modulo 7 (R58). -/
def resOf (a : BitVec 608) : BitVec 3 := BitVec.ofNat 3 ((a.toInt % 7).toNat)

/-- Add a signed integer to A; the residue takes the summand's own residue. -/
def Acc.addInt (x : Acc) (v : Int) : Acc :=
  { x with a := x.a + BitVec.ofInt 608 v, res := BitVec.ofNat 3 ((x.res.toNat + (v % 7).toNat) % 7) }

/-- Product of two significands; p6 leaves out middle x low, low x middle and low x low of two fp32 operands (R53). -/
def sigProd (p6 : Bool) (a b : Nat) : Nat :=
  if p6 then
    a * b - (a / 256 % 256 * (b % 256) + a % 256 * (b / 256 % 256)) * 256 - a % 256 * (b % 256)
  else a * b

/-- Add one product to an accumulator of the given base (R54, R57). -/
def Acc.addProd (x : Acc) (base : Int) (p6 : Bool) (a b : Num) : Acc :=
  match a.mul b with
  | .nan => { x with nan := true }
  | .inf true => { x with ninf := true }
  | .inf false => { x with pinf := true }
  | .num .. =>
    match a, b with
    | .num n p _ e, .num m r _ f => x.addInt (sgn (n != m) (sigProd p6 p r * p2 (e + f - base)))
    | _, _ => x

/-- Merge two partial accumulators of one reduction (R56). -/
def Acc.merge (x y : Acc) : Acc :=
  ⟨x.a + y.a, x.nan || y.nan, x.pinf || y.pinf, x.ninf || y.ninf, BitVec.ofNat 3 ((x.res.toNat + y.res.toNat) % 7)⟩

/-- Value once the reduction ends (R57, R62). -/
def Acc.value (x : Acc) (base : Int) : Num :=
  if x.nan || (x.pinf && x.ninf) then .nan
  else if x.pinf then .inf false
  else if x.ninf then .inf true
  else .num (decide (x.a.toInt < 0)) x.a.toInt.natAbs 1 base

/-- The residue check of a readout (R58). -/
def Acc.ok (x : Acc) : Bool := decide (resOf x.a = x.res)

/-! ### Exponent histogram (R69, R72) -/

/-- Bin of a classified value under hist_lo. -/
def histBin (lo : Int) (v : Num) : Nat :=
  match v with
  | .num _ p q e =>
    if p = 0 then 62
    else
      let x := ilog p q + e - lo
      if x < 0 then 60 else if 59 < x then 61 else x.toNat
  | _ => 63

/-- Saturating addition of bin counts. -/
def satAdd32 (a b : Nat) : Nat := min 0xFFFFFFFF (a + b)

end Sys2Proof.Machine
end

