-- ==== Sys2Proof/Machine/Rng.lean ====
section
/-! DEFINITION. The counter generator and the counters of every use (R218-R224). -/

namespace Sys2Proof.Machine

/-- Left rotation of a 32-bit word. -/
def rotl (x : W32) (n : Nat) : W32 := (x <<< n) ||| (x >>> (32 - n))

/-- Four 32-bit words. -/
structure Quad where
  x0 : W32
  x1 : W32
  x2 : W32
  x3 : W32
  deriving DecidableEq, Repr

/-- Round r of the generator under key words k0 and k1 (R218). -/
def rngRound (k0 k1 : W32) (r : Nat) (q : Quad) : Quad :=
  let x0 := q.x0 + (k0 + BitVec.ofNat 32 r * 0x9E3779B9)
  let x2 := q.x2 + (k1 + BitVec.ofNat 32 r * 0xBB67AE85)
  let x0 := x0 + q.x1
  let x3 := rotl (q.x3 ^^^ x0) 16
  let x2 := x2 + x3
  let x1 := rotl (q.x1 ^^^ x2) 12
  let x0 := x0 + x1
  let x3 := rotl (x3 ^^^ x0) 8
  let x2 := x2 + x3
  let x1 := rotl (x1 ^^^ x2) 20
  ⟨x1, x2, x3, x0⟩

/-- The four output words for a key and a counter (R218). -/
def rngWords (k : W64) (c : BitVec 128) : Quad :=
  let k0 := k.extractLsb' 0 32
  let k1 := k.extractLsb' 32 32
  let q := forN 10 (fun r q => rngRound k0 k1 r q)
    ⟨c.extractLsb' 0 32, c.extractLsb' 32 32, c.extractLsb' 64 32, c.extractLsb' 96 32⟩
  ⟨q.x0 + k0, q.x1 + k1, q.x2 + k0, q.x3 + k1⟩

/-- Word n of a quad. -/
def Quad.word (q : Quad) (n : Nat) : W32 :=
  match n % 4 with
  | 0 => q.x0
  | 1 => q.x1
  | 2 => q.x2
  | _ => q.x3

/-- The counter of R220: element modulo 2^48, counter stream, draw, domain. -/
def rngCounter (element : Nat) (cstream : BitVec 6) (draw domain : Nat) : BitVec 128 :=
  BitVec.ofNat 128 (element % 2 ^ 48 + cstream.toNat * 2 ^ 48 + draw % 2 ^ 32 * 2 ^ 64 + domain % 256 * 2 ^ 96)

/-- The words of one use. -/
def drawWords (seed : W64) (cstream : BitVec 6) (element draw domain : Nat) : Quad :=
  rngWords seed (rngCounter element cstream draw domain)

/-- The rounding word of a macro-instruction output element (R61, R221). -/
def roundWord (seed : W64) (cstream : BitVec 6) (element draw : Nat) : W32 := (drawWords seed cstream element draw 0).x0

/-- Rounding mode of a code of R60 with the word a stochastic rounding draws. -/
def rndOf (code : Nat) (r : W32) : Rnd := if code = 1 then .zero else if code = 2 then .word r else .near

end Sys2Proof.Machine
end

