-- ==== Sys2Proof/Machine/Operands.lean ====
section
/-! DEFINITION. Operand forms: scalar, predicate and vector registers, immediates, lanes and halves, and the checks of
vector forms (R102, R123-R128, R186-R189, R224). -/

namespace Sys2Proof.Machine

/-! ### Scalar and predicate registers (R102) -/

/-- s[r]; s0 reads 0. -/
def Ctx.s (c : Ctx) (r : Reg) : W64 := if r = 0 then 0 else tget 0 c.sreg r.toNat
/-- Write s[r]; a write of s0 is ignored. -/
def Ctx.setS (c : Ctx) (r : Reg) (v : W64) : Ctx := if r = 0 then c else { c with sreg := tput c.sreg r.toNat v }
/-- p[r]; p0 reads 1. -/
def Ctx.p (c : Ctx) (r : BitVec 3) : Bool := if r = 0 then true else tget false c.pred r.toNat
/-- Write p[r]; a write of p0 is ignored. -/
def Ctx.setP (c : Ctx) (r : BitVec 3) (v : Bool) : Ctx := if r = 0 then c else { c with pred := tput c.pred r.toNat v }
/-- Whether an instruction under predicate p runs (R124). -/
def Ctx.on (c : Ctx) (p : Pred) : Bool := c.p p.pi != p.pn

/-- A sign-extended immediate (R124). -/
def sext64 {n : Nat} (x : BitVec n) : W64 := x.signExtend 64

/-! ### Vector registers (R102, R186) -/

/-- Lane l of v[r]. -/
def Ctx.lane (c : Ctx) (r : Reg) (l : Nat) : W32 := tget 0 c.vreg (r.toNat * 64 + l)
/-- Write lane l of v[r]. -/
def Ctx.setLane (c : Ctx) (r : Reg) (l : Nat) (w : W32) : Ctx := { c with vreg := tput c.vreg (r.toNat * 64 + l) w }
/-- Write every lane of v[r] for which f gives a word. -/
def Ctx.setLanes (c : Ctx) (r : Reg) (f : Nat → Option W32) : Ctx :=
  ((List.range 64).map fun l => (l, f l)).foldl
    (fun c e => match e.2 with | some w => c.setLane r e.1 w | none => c) c

/-- Whether lane l is active (R127). -/
def Ctx.active (c : Ctx) (v : VOp) (l : Nat) : Bool := !v.me || decide (c.lane v.vm l ≠ 0)

/-- Packed register formats (R186). -/
def packed (fmt : Nat) : Bool := decide (fmt = 2) || decide (fmt = 3)
/-- Halves of a lane in a register format. -/
def halves (fmt : Nat) : Nat := if packed fmt then 2 else 1
/-- Element h of a lane word in a register format. -/
def getHalf (fmt : Nat) (w : W32) (h : Nat) : Nat := if packed fmt then bits w (16 * h) 16 else w.toNat
/-- The lane word with element h replaced. -/
def putHalf (fmt : Nat) (w : W32) (h c : Nat) : W32 := if packed fmt then setBits w (16 * h) 16 c else BitVec.ofNat 32 c

/-- Register format that fn names in vector loads and stores (R127). -/
def regFmt (fn : BitVec 4) : Nat := if fn = 0 then 1 else if fn = 1 then 2 else if fn = 2 then 3 else 0x0F

/-- The signed index a lane holds (R127). -/
def laneIndex (w : W32) : Int := w.toInt

/-! ### Stochastic rounding of vector instructions (R221) -/

/-- Draw index of a context's vector instructions. -/
def Ctx.draw (c : Ctx) : Nat := if c.lead then 0xFFFFFFFF else c.rank
/-- Rounding mode of element h of lane l. -/
def Ctx.vrnd (c : Ctx) (v : VOp) (l h : Nat) : Rnd :=
  if v.rnd = 2 then .word (drawWords c.seed c.cstream (c.vsr * 128 + 2 * l + h) c.draw 3).x0
  else if v.rnd = 1 then .zero else .near

/-! ### Forms that LOAD accepts (R127, R128, R189, R197, R224, R489) -/

/-- Largest listed fn of a vector opcode whose fn values run from 0. The rows of v.gather and v.scatter list none, while R189
gives them two register formats: fn is read there as in v.ld (log 35, DEDUCED). -/
def fnMax (vop : Nat) : Nat :=
  match vop with
  | 0x06 => 5 | 0x07 => 4 | 0x09 => 3 | 0x0C => 9 | 0x0D => 2 | 0x10 => 3 | 0x11 => 3 | 0x12 => 3 | 0x13 => 3 | 0x16 => 2
  | _ => 0

/-- Encoding check of a vector form: 0, or E_ENCODING (check 4 of R117). -/
def vEncErr (vop : Nat) (v : VOp) : Code :=
  let fn := v.fn.toNat
  if 0x17 < vop then eEncoding
  else if vop = 0x0A then (if fn % 8 ≤ 2 then 0 else eEncoding)
  else if vop = 0x15 then (if fn / 4 = 3 then eEncoding else 0)
  else if fnMax vop < fn then eEncoding
  else if vop = 0x16 then
    let top := if fn = 0 then v.vd.toNat + 2 else if fn = 1 then max v.va.toNat v.vd.toNat + 2
      else max (v.va.toNat + 2) (v.vd.toNat + 1)
    if 31 < top then eEncoding else 0
  else if vop = 0x0B then
    let mixed := packed v.fmt.toNat != packed v.vc.toNat
    if decide (v.imm = 0) || (vecFmt v.fmt.toNat && vecFmt v.vc.toNat && mixed && decide (v.imm = 1)) then 0 else eEncoding
  else 0

/-- Format and rounding check of a vector form: 0, or E_FORMAT (check 5 of R117). -/
def vFmtErr (vop : Nat) (v : VOp) : Code :=
  let fmt := v.fmt.toNat
  let rndOk :=
    if vop = 0x0C ∨ vop = 0x16 ∨ vop = 0x15 then decide (v.rnd = 0)
    else if vop = 0x0D then decide (v.rnd ≠ 2) && decide (v.rnd ≠ 3)
    else decide (v.rnd ≠ 3)
  let fmtOk :=
    if vop = 0x09 ∨ vop = 0x0A then decide (fmt = 0x0F)
    else if vop = 0x0C then vecFmt fmt && decide (fmt ≠ 0x0F)
    else if vop = 0x16 then decide (fmt = 1)
    else if vop = 0x15 then decide (fmt = if v.fn.toNat / 4 = 1 then 1 else 0x0F)
    else if vop = 0x10 ∨ vop = 0x11 then vecMem fmt
    else if vop = 0x12 ∨ vop = 0x13 then vecMem fmt && (decide (v.fn = 0) || decide (v.fn = 3))
    else if vop = 0x0B then vecFmt fmt && vecFmt v.vc.toNat
    else vecFmt fmt
  if rndOk && fmtOk then 0 else eFormat

/-- A vector form that LOAD accepts. -/
def vOk (vop : Nat) (v : VOp) : Bool := decide (vEncErr vop v = 0) && decide (vFmtErr vop v = 0)

end Sys2Proof.Machine
end

