-- ==== Sys2Proof/Machine/Units.lean ====
section
/-! DEFINITION. Unit handles, the group table and leaf sets (R12-R29). -/

namespace Sys2Proof.Machine

/-! ### Handles (R18, R19) -/

/-- Kind of a handle. -/
def hKind (h : W32) : Nat := bits h 30 2
/-- Device number of a core handle. -/
def hDevice (h : W32) : Nat := bits h 10 16
/-- Logical core index of a core handle. -/
def hCore (h : W32) : Nat := bits h 0 10
/-- Descriptor index of a group handle. -/
def hIndex (h : W32) : Nat := bits h 0 16
/-- The handle of core c of device d. -/
def coreHandle (d c : Nat) : W32 := BitVec.ofNat 32 (d * 1024 + c)

/-- Whether descriptor index i is defined on this device: standing (R16) or defined by software. -/
def State.groupDefined (s : State) (i : Nat) : Bool :=
  decide (i ≤ 0x20) || (decide (0x100 ≤ i) && (s.group i).defined)

/-- Validity of a handle on this device (R19). -/
def State.handleOk (s : State) (h : W32) : Bool :=
  if hKind h = 0 then decide (bits h 26 4 = 0) && decide (hCore h ≤ 511)
  else if hKind h = 1 then decide (bits h 16 14 = 0) && s.groupDefined (hIndex h)
  else false

/-- The check of R19 that BIND, s.mi and s.disp make; 0 if it passes. -/
def State.handleErr (s : State) (h : W32) : Code :=
  if !s.handleOk h then eHandle
  else if hKind h = 0 && !s.isLive (hDevice h) then eFabUnreach
  else 0

/-! ### Leaf sets (R13, R15, R105, R368) -/

/-- Keep the first occurrence of each element. -/
def firstOnly {α : Type} [DecidableEq α] (seen : List α) : List α → List α
  | [] => []
  | x :: xs => if x ∈ seen then firstOnly seen xs else x :: firstOnly (x :: seen) xs

/-- The 16 cores of cluster c of device d. -/
def clusterLeaves (d c : Nat) : List (Nat × Nat) := (List.range 16).map fun j => (d, 16 * c + j)
/-- Every core of device d. -/
def deviceLeaves (d : Nat) : List (Nat × Nat) := (List.range 512).map fun c => (d, c)

/-- Leaves of a group of another device: standing ones by R16, software ones as that device tells (log 14, DESIGN CHOICE). -/
def State.farLeaves (s : State) (d i : Nat) : List (Nat × Nat) :=
  if i < 0x20 then clusterLeaves d i
  else if i = 0x20 then deviceLeaves d
  else (Config.remoteLeaves d i).filter fun l => s.isLive l.1

/-- Depth-first expansion of a local group index in member list order, members of devices that are not live skipped. -/
def State.expand (s : State) : Nat → Nat → List (Nat × Nat)
  | 0, _ => []
  | n + 1, i =>
    if i < 0x20 then clusterLeaves s.own i
    else if i = 0x20 then deviceLeaves s.own
    else
      (s.group i).members.flatMap fun m =>
        let h : W32 := BitVec.ofNat 32 (bits m 0 32)
        let d := bits m 32 16
        if hKind h = 0 then (if s.isLive (hDevice h) then [(hDevice h, hCore h)] else [])
        else if d = s.own then s.expand n (hIndex h)
        else if s.isLive d then s.farLeaves d (hIndex h)
        else []

/-- The leaf set of a handle in rank order (R105). Groups are acyclic (R25), so no walk is deeper than the table. -/
def State.leavesOf (s : State) (h : W32) : List (Nat × Nat) :=
  if hKind h = 0 then (if s.isLive (hDevice h) then [(hDevice h, hCore h)] else [])
  else if hIndex h ≤ 0x20 then s.expand 1 (hIndex h)
  else firstOnly [] (s.expand 65537 (hIndex h))

/-- Members of a local group, at any depth, that lie on devices that are not live (FAB_DEAD_MEMBER, R368). -/
def State.deadMembers (s : State) : Nat → Nat → Nat
  | 0, _ => 0
  | n + 1, i =>
    if i ≤ 0x20 then 0
    else
      ((s.group i).members.map fun m =>
        let h : W32 := BitVec.ofNat 32 (bits m 0 32)
        let d := bits m 32 16
        if hKind h = 0 then (if s.isLive (hDevice h) then 0 else 1)
        else if d = s.own then s.deadMembers n (hIndex h)
        else if s.isLive d then 0 else 1).sum

/-- Count the members skipped when an instruction expands a handle. -/
def State.countDead (s : State) (h : W32) : State :=
  if hKind h = 1 then s.count evFabDeadMember .device none (s.deadMembers 65537 (hIndex h)) else s

/-- Leaf cores of this device in a leaf list. -/
def State.ownLeaves (s : State) (ls : List (Nat × Nat)) : List Nat :=
  (ls.filter fun l => decide (l.1 = s.own)).map (fun l => l.2)

/-- Position of a leaf in rank order. -/
def rankOf (ls : List (Nat × Nat)) (l : Nat × Nat) : Nat := ls.findIdx (fun x => decide (x = l))

/-- Blocks of a dispatch on the leaf cores of one device, with their ranks (R105). -/
def blocksOn (d : Nat) (ls : List (Nat × Nat)) : List (CoreId × Nat) :=
  (ls.filter fun l => decide (l.1 = d)).map fun l => (BitVec.ofNat 9 l.2, rankOf ls l)

/-! ### Defining and removing groups (R23-R25) -/

/-- Member entry checks of step 5 of R24 for index i, in list order; 0 if all pass. -/
def State.memberErr (s : State) (i : Nat) (m : W64) : Code :=
  let h : W32 := BitVec.ofNat 32 (bits m 0 32)
  let d := bits m 32 16
  if bits m 48 16 ≠ 0 then eHandle
  else if hKind h = 0 then
    (if d ≠ 0 then eHandle
     else if !s.isLive (hDevice h) then eFabUnreach
     else if !s.handleOk h then eHandle else 0)
  else if hKind h = 1 then
    (if !s.isLive d then eFabUnreach
     else if bits h 16 14 ≠ 0 then eHandle
     else if d = s.own then
       (if hIndex h = i || s.groupDefined (hIndex h) then 0 else eHandle)
     else if hIndex h ≤ 0x20 || Config.remoteDefined d (hIndex h) then 0 else eHandle)
  else if !s.isLive d then eFabUnreach else eHandle

/-- First error of a list of checks. -/
def firstErr : List Code → Code
  | [] => 0
  | c :: t => if c = 0 then firstErr t else c

/-- Whether a walk of some members reaches local index i (step 6 of R24). -/
def State.reaches (s : State) (i : Nat) : Nat → List W64 → Bool
  | 0, _ => false
  | n + 1, ms =>
    ms.any fun m =>
      let h : W32 := BitVec.ofNat 32 (bits m 0 32)
      let d := bits m 32 16
      decide (hKind h = 1) &&
      (if d = s.own then decide (hIndex h = i) || s.reaches i n (s.group (hIndex h)).members
       else Config.remoteReaches d (hIndex h) i)

/-- The member entries of a list at local address a. -/
def State.memberList (s : State) (a n : Nat) : List W64 :=
  (List.range n).map fun k => BitVec.ofNat 64 (s.num (a + 8 * k) 8)

/-- The first error of a definition of index i from the image at local address src of this device (R24); 0 accepts. An image or
a member list on a poisoned line is refused with E_STACK_UE where it is read, after step 2 and after step 4, without a fault or
a record (log 56, DESIGN CHOICE: R24 lists no such check, and R279 names no such reader). -/
def State.gdefErr (s : State) (i : Nat) (own : Bool) (src : Nat) : Code :=
  if i < 0x100 then eHandle
  else if (s.group i).defined then eBusy
  else if src % 64 ≠ 0 then eAlign
  else if !own || !inMem src 32 then eBounds
  else if (s.poisonIn src 32).isSome then eStackUe
  else
    let n := s.num src 4 % 2 ^ 20
    let ml := s.num (src + 4) 6
    if n = 0 then 0
    else if !inStack ml (8 * n) then eBounds
    else if ml % 128 ≠ 0 then eAlign
    else if (s.poisonIn ml (8 * n)).isSome then eStackUe
    else
      let ms := s.memberList ml n
      let e := firstErr (ms.map (s.memberErr i))
      if e ≠ 0 then e
      else if s.reaches i 65537 ms then eCycle else 0

/-- Distinct group members (device, index) of a member list (R25). -/
def groupMembers (ms : List W64) : List (Nat × Nat) :=
  firstOnly [] (ms.filterMap fun m =>
    let h : W32 := BitVec.ofNat 32 (bits m 0 32)
    if hKind h = 1 then some (bits m 32 16, hIndex h) else none)

/-- Raise or drop the reference count of each distinct group member, by notice to another module (R25). -/
def State.refMembers (s : State) (ms : List W64) (inc : Bool) : State :=
  (groupMembers ms).foldl (fun s g =>
    if g.1 = s.own then s.modGroup g.2 fun x => { x with refs := if inc then x.refs + 1 else x.refs - 1 }
    else s.send (.reference g.1 (BitVec.ofNat 16 g.2) inc)) s

/-- Define index i from an image that passed gdefErr. -/
def State.gdefine (s : State) (i src : Nat) : State :=
  let n := s.num src 4 % 2 ^ 20
  let ml := s.num (src + 4) 6
  let ms := if n = 0 then [] else s.memberList ml n
  let s := s.modGroup i fun _ => ⟨true, BitVec.ofNat 48 ml, ms, 0, 0, [], 0⟩
  let s := s.modGroup i fun g => { g with leafCount := (s.leavesOf (BitVec.ofNat 32 (2 ^ 30 + i))).length }
  s.refMembers ms true

/-- The error of a removal of index i (R25); 0 accepts. -/
def State.gundefErr (s : State) (i : Nat) : Code :=
  if i < 0x100 || !(s.group i).defined then eHandle
  else if (s.group i).refs ≠ 0 || (s.group i).bound ≠ 0 then eBusy
  else 0

/-- Remove index i. -/
def State.gundefine (s : State) (i : Nat) : State :=
  let ms := (s.group i).members
  (s.modGroup i fun _ => .none).refMembers ms false

end Sys2Proof.Machine
end

