-- ==== Sys2Proof/Machine/Ctxs.lean ====
section
/-! DEFINITION. Contexts: which may issue, how they advance, end, fault, and take blocks (R101-R106, R118, R124). -/

namespace Sys2Proof.Machine

/-- Place of an event of a context's core. -/
def atCtx (cx : CtxId) : At := .core (ctxCore cx)
/-- The stream an event of a context is attributed to: one of this device (R472). -/
def State.ctxStrm (s : State) (cx : CtxId) : Option StreamId :=
  let c := s.ctx cx
  if c.dev.toNat = s.own then some c.strm else none
/-- Count n events of a context. -/
def State.countCtx (s : State) (cx : CtxId) (ev n : Nat) : State := s.count ev (atCtx cx) (s.ctxStrm cx) n

/-- Whether a context issues at all: reserved, core not halted, cores powered (R106, R488). -/
def State.awake (s : State) (cx : CtxId) : Bool := s.up && (s.ctx cx).used && !(s.core (ctxCore cx)).halt

/-- The instruction at a context's program counter has begun: it waits at a bound or has an answer to use. -/
def Ctx.begun (c : Ctx) : Bool :=
  c.granted.isSome || (match c.wait with
    | .bound _ => true
    | _ => false)

/-- Whether a context may issue an instruction of which none waits: it is ready (R106). -/
def State.canIssue (s : State) (cx : CtxId) : Bool :=
  s.awake cx && decide ((s.ctx cx).wait = .ready) && (s.ctx cx).granted.isNone

/-- Whether a context may issue an instruction that can wait at the bounds q: it is ready, or this instruction goes on, past
such a bound or with an answer, if it asks questions (R106, R153). -/
def State.canRetry (s : State) (cx : CtxId) (q : Nat → Bool) (asks : Bool) : Bool :=
  s.awake cx && ((s.ctx cx).granted.isNone || asks) &&
    (match (s.ctx cx).wait with
     | .ready => true
     | .bound n => q n
     | _ => false)

/-- End of the checked program (R118). -/
def Ctx.codeEnd (c : Ctx) : W64 := c.codeBase + c.codeLen

/-- The context of stream strm of device dev on core c that runs its blocks. -/
def State.farCtx (s : State) (dev : BitVec 16) (strm : StreamId) (c : Nat) : Option CtxId :=
  ((List.range 8).map (ctxOf c)).find? fun x =>
    let e := s.ctx x
    e.used && !e.lead && decide (e.dev = dev) && decide (e.strm = strm)

/-! ### Context records (R477) -/

/-- Context record. -/
abbrev imgCtx : Nat := 8704

/-- A context record: program counter, vsr, p1-p7, s1-s31, v0-v31. -/
def Ctx.bytes (c : Ctx) : List Byte :=
  leBytes 8 c.pc.toNat ++ leBytes 8 c.vsr ++
  ((List.range 7).map fun k => BitVec.ofNat 8 (b2n (c.p (BitVec.ofNat 3 (k + 1))))) ++ [0] ++
  (List.range 31).flatMap (fun k => leBytes 8 (c.s (BitVec.ofNat 5 (k + 1))).toNat) ++ List.replicate 240 0 ++
  (List.range 2048).flatMap fun k => leBytes 4 (tget 0 c.vreg k).toNat

/-- A context with the registers of a record. -/
def Ctx.ofBytes (c : Ctx) (b : List Byte) : Ctx :=
  let num (o n : Nat) : Nat := leNat ((b.drop o).take n)
  let c := { c with pc := BitVec.ofNat 64 (num 0 8), vsr := num 8 8, sreg := [], pred := [], vreg := [] }
  let c := (List.range 7).foldl (fun (c : Ctx) k => if num (16 + k) 1 % 2 = 1 then c.setP (BitVec.ofNat 3 (k + 1)) true else c) c
  let c := (List.range 31).foldl (fun (c : Ctx) k =>
    let v := num (24 + 8 * k) 8
    if v = 0 then c else c.setS (BitVec.ofNat 5 (k + 1)) (BitVec.ofNat 64 v)) c
  { c with vreg := (List.range 2048).filterMap fun k =>
      let v := num (512 + 4 * k) 4
      if v = 0 then none else some (k, BitVec.ofNat 32 v) }

/-! ### Work of a stream and those who wait for it (R103, R126, R131) -/

/-- Outstanding macro-instructions of stream i of this device, with their leaves. -/
def State.workMis (s : State) (i : StreamId) : List (W64 × List (Nat × Nat)) :=
  ((s.mis.filter (s.ownMi i)).map fun m => (m.ticket, m.leaves)) ++ (s.strm i).farMis.map fun m => (m.ticket, m.leaves)

/-- The given tickets and blocks of stream i have retired. -/
def State.workDone (s : State) (i : StreamId) (ts bs : List W64) : Bool :=
  !((s.workMis i).any fun m => ts.contains m.1) && !((s.strm i).disps.any fun d => bs.contains d.ticket)

/-- What a fence of stream i waits for, issued on device `dev` by a context that runs block `mine`: work with a leaf core in the
unit (fn 1), or on that device (fn 2 and 3). -/
def State.fenceScope (s : State) (i : StreamId) (dev : Nat) (mine : Option W64) (fn : FenceFn) (unit : List (Nat × Nat)) :
    List W64 × List W64 :=
  let inScope (ls : List (Nat × Nat)) : Bool :=
    match fn with
    | .localScope => false
    | .unit => ls.any fun l => unit.contains l
    | _ => ls.any fun l => decide (l.1 = dev)
  (((s.workMis i).filter fun m => inScope m.2).map Prod.fst,
   (((s.strm i).disps.filter fun d => inScope d.leaves && decide (some d.ticket ≠ mine)).map Disp.ticket))

/-- Answer a held question of stream i if it can be answered now: a ticket while fewer than 16 are outstanding (R153), or that
work is done. -/
def State.tryAsk (s : State) (i : StreamId) (a : BitVec 16 × CtxId × Ask) : Option State :=
  let (d, cx, q) := a
  let x := s.strm i
  match q with
  | .mi ls =>
    if 16 ≤ s.outstanding i then none
    else some ((s.setStrm i { x with nextMi := x.nextMi + 1, farMis := x.farMis ++ [⟨x.nextMi, d, ls⟩] }).send
      (.notice d.toNat (.answer i cx 0 x.nextMi true)))
  | .work ts bs => if s.workDone i ts bs then some (s.send (.notice d.toNat (.answer i cx 0 0 false))) else none
  | _ => none

/-- Questions of other devices about stream i that can be answered now are, oldest first. -/
def State.settleAsks (s : State) (i : StreamId) : State :=
  (s.strm i).asks.foldl (fun s a =>
    match s.tryAsk i a with
    | some t => t.modStrm i fun x => { x with asks := x.asks.erase a }
    | none => s) s

/-- Note that leaf l has ended the block with ticket t of stream i; the last leaf ends the block (R14). -/
def State.leafDone (s : State) (i : StreamId) (t : W64) (l : Nat × Nat) : State :=
  (s.modStrm i fun x => { x with
    disps := (x.disps.map fun (d : Disp) =>
      if d.ticket = t then { d with leaves := d.leaves.filter fun y => decide (y ≠ l) } else d).filter
        fun d => !d.leaves.isEmpty }).settleAsks i

/-- Tell the stream's device that this context has ended a block, and its registers. -/
def State.reportEnd (s : State) (cx : CtxId) (t : W64) : State :=
  let c := s.ctx cx
  if c.dev.toNat = s.own then s.leafDone c.strm t (s.own, ctxCore cx)
  else s.send (.notice c.dev.toNat (.blockEnd c.strm t (BitVec.ofNat 16 s.own) (BitVec.ofNat 9 (ctxCore cx)) c.bytes))

/-! ### Blocks -/

/-- A context with the arguments of a block in s1-s4 (R105). -/
def Ctx.takeArgs (c : Ctx) (b : Block) : Ctx :=
  (((c.setS 1 (b.args.getD 0 0)).setS 2 (b.args.getD 1 0)).setS 3 (b.args.getD 2 0)).setS 4 (b.args.getD 3 0)

/-- Start the oldest block a block context holds, with s1-s4 and its rank in s5 (R103, R105); a block that starts at the
end of the program ends there (R118). -/
def State.nextBlock (s : State) (cx : CtxId) : Nat → State
  | 0 => s
  | n + 1 =>
    let c := s.ctx cx
    match c.blocks with
    | [] => s.setCtx cx { c with wait := .idle }
    | b :: bs =>
      let c := (c.takeArgs b).setS 5 (BitVec.ofNat 64 b.rank)
      if b.addr = c.codeEnd then
        ((s.setCtx cx { c with pc := b.addr, blocks := bs }).reportEnd cx b.ticket).nextBlock cx n
      else s.setCtx cx { c with pc := b.addr, wait := .ready }

/-- A block joins those of a context; a context without one starts it (R103). -/
def State.queueBlock (s : State) (cx : CtxId) (b : Block) : State :=
  let s := s.modCtx cx fun c => { c with blocks := c.blocks ++ [b] }
  if (s.ctx cx).wait = .idle then s.nextBlock cx 1 else s

/-- End the block a context runs; the next one starts. -/
def State.endBlock (s : State) (cx : CtxId) : State :=
  let c := s.ctx cx
  match c.blocks with
  | [] => s.setCtx cx { c with wait := .idle }
  | b :: bs =>
    let s := (s.setCtx cx { c with blocks := bs }).reportEnd cx b.ticket
    s.nextBlock cx (bs.length + 1)

/-- s.end of the lead context: RUNNING goes to DRAINING toward LOADED, with an event entry (R108). -/
def State.endLead (s : State) (cx : CtxId) : State :=
  let c := s.ctx cx
  let x := s.strm c.strm
  let s := s.setCtx cx { c with wait := .stopped }
  if x.state = .running then
    let s := s.setStrm c.strm { x with state := .draining, drainPaused := false, prompt := false }
    s.postEntry c.strm (cplEntry true .running .draining 0 0 0 0 0 s.time)
  else s

/-- A context stops where it is, and what it asked is forgotten. -/
def Ctx.halted (c : Ctx) : Ctx := { c with wait := .stopped, stopping := false, pausing := false, granted := none }

/-- s.end, executed or reached (R118); a lead context that pauses stops before it (R119). -/
def State.endCtx (s : State) (cx : CtxId) : State :=
  if (s.ctx cx).pausing then s.modCtx cx Ctx.halted
  else if (s.ctx cx).lead then s.endLead cx else s.endBlock cx

/-- A context comes to an address: it ends at the end of the program, else it is ready there. One that a pause met inside an
instruction stops (R119). -/
def State.goto (s : State) (cx : CtxId) (pc : W64) : State :=
  let c := s.ctx cx
  if c.stopping then s.setCtx cx { c.halted with pc := pc }
  else
    let s := s.setCtx cx { c with pc := pc, wait := .ready, granted := none }
    if pc = c.codeEnd then s.endCtx cx else s

/-- A stopped context goes on where it stands (R112); what it was answered it may still use. -/
def State.wake (s : State) (cx : CtxId) : State :=
  let s := s.modCtx cx fun c => { c with wait := .ready }
  if (s.ctx cx).pc = (s.ctx cx).codeEnd then s.endCtx cx else s

/-- Advance a context past an instruction of n bytes. -/
def State.advance (s : State) (cx : CtxId) (n : W64) : State := s.goto cx ((s.ctx cx).pc + n)

/-- Advance a context past an instruction of n bytes; one that the instruction's own effect has stopped keeps stopped there
(R109). -/
def State.moveOn (s : State) (cx : CtxId) (n : W64) : State :=
  if (s.ctx cx).wait = .stopped then s.modCtx cx fun c => { c with pc := c.pc + n } else s.advance cx n

/-- Byte offset of a context's instruction in its code, as a naming word (kind 3 of R476). -/
def Ctx.offsetName (c : Ctx) : W64 := nameW 3 (c.pc - c.codeBase).toNat

/-- A fault of a context's instruction: the context stops there; a stream of this device faults by the latch (R14, R109);
for a stream of another device this one records it, tells its device and stops its contexts here. -/
def State.faultCtx (s : State) (cx : CtxId) (code : Code) (name : W64) : State :=
  let c := s.ctx cx
  let s := (s.senseUe code name).setCtx cx c.halted
  if c.dev.toNat = s.own then s.faultOn c.strm (ctxCore cx) code name
  else
    let s := s.faultFar c.dev c.strm (ctxCore cx) code name
    { s with
      ctxs := s.ctxs.map fun (e : Nat × Ctx) => (e.1, stopCtx c.dev c.strm e.2)
      mis := s.mis.map fun (m : MI) => if decide (m.strm = c.strm) && decide (m.home = c.dev) then { m with stopped := true, faulted := true } else m }

/-- A context waits; one that pauses stops instead, at a boundary of its instruction stream (R119). -/
def State.waitFor (s : State) (cx : CtxId) (w : Wait) : State :=
  s.modCtx cx fun c => if c.pausing then c.halted else { c with wait := w }

/-- Count a wait of a context at a bound (R153). -/
def State.countHold (s : State) (cx : CtxId) (q : Nat) : State :=
  if q = 8 then s.countDev evFabLineHold
  else s.countQ evHeldAtBound (if q < 5 then atCtx cx else .device) (s.ctxStrm cx) q 1

/-- Wait at a bound; a wait is counted once, when it begins (R153). -/
def State.holdAt (s : State) (cx : CtxId) (q : Nat) : State :=
  if (s.ctx cx).wait = .bound q then s else (s.waitFor cx (.bound q)).countHold cx q

/-- The poisoned line of this device that an instruction of n bytes at a context's program counter lies in, if any (R279). -/
def State.fetchPoison (s : State) (cx : CtxId) (n : W64) : Option Nat :=
  if (s.ctx cx).dev.toNat = s.own then s.poisonIn (bits (s.ctx cx).pc 0 48) n.toNat else none

/-- The effect k of an instruction of n bytes under predicate p: one fetched from a poisoned line faults (R279); predicated off
it only advances (R124). One that goes on after a wait was fetched and counted before. -/
def State.issued (s : State) (cx : CtxId) (p : Pred) (n : W64) (k : State → State) : State :=
  if (s.ctx cx).begun then k s
  else
    match s.fetchPoison cx n with
    | some ln => s.faultCtx cx eStackUe (BitVec.ofNat 64 (128 * ln))
    | none =>
      let s := s.countCtx cx evSeqIssue 1
      if (s.ctx cx).on p then k s else s.advance cx n

/-- A sequencer or vector instruction: nothing unless its context may issue. -/
def State.issue (s : State) (cx : CtxId) (p : Pred) (n : W64) (k : State → State) : State :=
  if s.canIssue cx then s.issued cx p n k else s

/-- An instruction that may wait at the bounds q, or for answers. -/
def State.issueWait (s : State) (cx : CtxId) (p : Pred) (q : Nat → Bool) (asks : Bool) (k : State → State) : State :=
  if s.canRetry cx q asks then s.issued cx p 4 k else s

/-- An instruction that changes only the registers of its context and advances. -/
def State.issueReg (s : State) (cx : CtxId) (p : Pred) (f : Ctx → Ctx) : State :=
  s.issue cx p 4 fun s => (s.modCtx cx f).advance cx 4

end Sys2Proof.Machine
end

