-- ==== Sys2Proof/Machine/Desc.lean ====
section
/-! DEFINITION. Macro-instruction descriptors, operand records, footprints and tile shapes (R134-R145, R169, R175, R204-R214,
R228, R490). -/

namespace Sys2Proof.Machine

/-- A descriptor (R134). -/
abbrev Desc := BitVec 256
/-- An operand record (R137). -/
abbrev Rec := BitVec 512

/-! ### Descriptor fields (R134) -/

def dOp (d : Desc) : Nat := bits d 0 8
def dFmtA (d : Desc) : Nat := bits d 8 5
def dFmtB (d : Desc) : Nat := bits d 13 5
def dFmtOut (d : Desc) : Nat := bits d 18 5
def dRnd (d : Desc) : Nat := bits d 23 2
def dSat (d : Desc) : Bool := bit d 25
def dP6 (d : Desc) : Bool := bit d 26
def dHistEn (d : Desc) : Bool := bit d 27
def dHistAcc (d : Desc) : Bool := bit d 28
def dStepwise (d : Desc) : Bool := bit d 29
def dOrder (d : Desc) : Nat := bits d 30 2
def dChain (d : Desc) : Nat := bits d 32 5
def dPrologue (d : Desc) : Nat := bits d 37 3
def dHistLo (d : Desc) : Int := signed 16 (bits d 40 16)
def dCount (d : Desc) : Nat := bits d 56 4
def dBatch (d : Desc) : Nat := bits d 64 24
def dM (d : Desc) : Nat := bits d 88 32
def dN (d : Desc) : Nat := bits d 120 32
def dK (d : Desc) : Nat := bits d 152 32
def dDraw (d : Desc) : Nat := bits d 184 24
def dAddr (d : Desc) : Nat := bits d 208 48

/-! Opcodes (R135). -/
abbrev opMm : Nat := 1
abbrev opMm2 : Nat := 2
abbrev opConv : Nat := 3
abbrev opConvt : Nat := 4
abbrev opDw : Nat := 5
abbrev opPool : Nat := 6
abbrev opResample : Nat := 7
abbrev opCopy : Nat := 8
abbrev opSample : Nat := 9

/-- The convolution family (R204). -/
def isConvFam (d : Desc) : Bool := decide (3 ≤ dOp d) && decide (dOp d ≤ 7)
/-- Operations whose tiles reduce on the arrays by loads of their own chain of accumulators (R140, R211). -/
def onArrays (d : Desc) : Bool := decide (dOp d = opMm) || decide (dOp d = opConv) || decide (dOp d = opConvt)
/-- A chain with row statistics over whole rows of m.mm (class R, R162). -/
def classR (d : Desc) : Bool := decide (dOp d = opMm) && decide (14 ≤ dChain d) && decide (dChain d ≤ 18)

/-! ### Record fields (R137) -/

def rRole (r : Rec) : Nat := bits r 0 4
def rFmt (r : Rec) : Nat := bits r 4 5
def rHint (r : Rec) : Hint :=
  match bits r 9 2 with | 1 => .stream | 2 => .keep | 3 => .last | _ => .none
def rUses (r : Rec) : BitVec 16 := BitVec.ofNat 16 (bits r 11 16)
def rAddr (r : Rec) : Nat := bits r 32 64
def rExtent (r : Rec) : Nat := bits r 96 48
def rRow (r : Rec) : Nat := bits r 144 40
def rBatch (r : Rec) : Nat := bits r 184 48
/-- w bits of the record from bit lo on. -/
def rExt (r : Rec) (lo w : Nat) : Nat := bits r lo w

/-! Roles (R138, R313). -/
abbrev roleA : Nat := 0
abbrev roleB : Nat := 1
abbrev roleOut : Nat := 2
abbrev roleScaleA : Nat := 3
abbrev roleScaleB : Nat := 4
abbrev roleScaleOut : Nat := 5
abbrev roleBias : Nat := 6
abbrev roleGate : Nat := 7
abbrev roleIndex : Nat := 8
abbrev roleC : Nat := 9
abbrev roleStats : Nat := 10
abbrev roleHist : Nat := 11
abbrev roleConv : Nat := 12
abbrev rolePool : Nat := 13
abbrev rolePresOut : Nat := 14
abbrev rolePresIn : Nat := 15

/-- The record of a role. -/
def recOf (rs : List Rec) (role : Nat) : Option Rec := rs.find? fun r => decide (rRole r = role)
/-- The record of a role, or an empty one. -/
def recD (rs : List Rec) (role : Nat) : Rec := (recOf rs role).getD 0
/-- Whether a role is present. -/
def hasRole (rs : List Rec) (role : Nat) : Bool := (recOf rs role).isSome

/-- A VQ operand B (R234). -/
def isVq (d : Desc) : Bool := decide (dFmtB d = 0x0E)
/-- The expanded format of B (R234, R235). -/
def effFmtB (d : Desc) (rs : List Rec) : Nat := if isVq d then rExt (recD rs roleB) 256 5 else dFmtB d
/-- Pair mode (R75): both operands are 4-bit. -/
def pairMode (d : Desc) (rs : List Rec) : Bool := is4bit (dFmtA d) && is4bit (effFmtB d rs)
/-- Reduction indices of a load (R75, R140). -/
def loadG (d : Desc) (rs : List Rec) : Nat := if pairMode d rs then 64 else 32

/-! ### Convolution geometry (R205-R210) -/

/-- One dimension of a geometry: input size, taps, stride, dilation, low and high pads, extension. -/
structure Dim where
  inn : Nat
  k : Nat
  s : Nat
  d : Nat
  lo : Int
  hi : Int
  x : Nat
  deriving DecidableEq, Repr

/-- W of the CONV record. -/
def dimW (r : Rec) : Dim :=
  ⟨rExt r 256 16, rExt r 296 8, rExt r 320 8, rExt r 344 8, signed 16 (rExt r 368 16), signed 16 (rExt r 384 16), rExt r 464 2⟩
/-- H of the CONV record. -/
def dimH (r : Rec) : Dim :=
  ⟨rExt r 272 16, rExt r 304 8, rExt r 328 8, rExt r 352 8, signed 16 (rExt r 400 16), signed 16 (rExt r 416 16), rExt r 466 2⟩
/-- T of the CONV record. -/
def dimT (r : Rec) : Dim :=
  ⟨rExt r 288 8, rExt r 312 4, rExt r 336 8, rExt r 360 8, signed 8 (rExt r 432 8), signed 8 (rExt r 440 8), rExt r 468 2⟩
/-- mode. -/
def cvMode (r : Rec) : Nat := rExt r 316 4
/-- Channel groups. -/
def cvGroups (r : Rec) : Nat := rExt r 448 16
/-- Input channels. -/
def cvCin (r : Rec) : Nat := rExt r 472 16
/-- Channels per group. -/
def cvCg (r : Rec) : Nat := cvCin r / cvGroups r

/-- Output size of a dimension of m.conv, m.dwconv and m.pool; a filter dimension of 0 counts as K = 1 (R207). -/
def Dim.outConv (x : Dim) : Nat :=
  let e : Int := x.d * ((max x.k 1 : Nat) - 1 : Int) + 1
  let t : Int := x.inn + x.lo + x.hi - e
  if 0 ≤ t then (t / x.s).toNat + 1 else 0

/-- Output size of a dimension of m.convt (R210); a filter dimension of 0 counts as K = 1 (R207). -/
def Dim.outConvt (x : Dim) : Nat :=
  (((x.inn : Int) - 1) * x.s + x.d * ((max x.k 1 : Nat) - 1 : Int) + 1 - x.lo - x.hi + x.x).toNat

/-- Output sizes (t, h, w) of a convolution family operation. -/
def convOut (d : Desc) (r : Rec) : Nat × Nat × Nat :=
  if dOp d = opResample then (rExt r 288 8, rExt r 400 16, rExt r 368 16)
  else if dOp d = opConvt then ((dimT r).outConvt, (dimH r).outConvt, (dimW r).outConvt)
  else ((dimT r).outConv, (dimH r).outConv, (dimW r).outConv)

/-- Input sizes (t, h, w). -/
def convIn (r : Rec) : Nat × Nat × Nat := (rExt r 288 8, rExt r 272 16, rExt r 256 16)

/-- h_stride of an A or OUT record of the family (R206). -/
def rH (r : Rec) : Nat := rExt r 256 48
/-- t_stride of an A or OUT record of the family (R206). -/
def rT (r : Rec) : Nat := rExt r 304 48

/-! ### Shapes and footprints (R138, R139, R206, R237) -/

/-- Bytes of a row of n elements (R49). -/
def rowBytes (fmt n : Nat) : Nat := ceilDiv (n * fmtBits fmt) 8

/-- n2, the columns of C (R138); with a pool, its dv (R294, log 33, DEDUCED). -/
def n2Of (poolDv : Nat) (rs : List Rec) : Nat :=
  if hasRole rs rolePool then poolDv else rExt (recD rs roleC) 256 32

/-- Shape of a role: batches, rows, row bytes. -/
def roleShape (d : Desc) (rs : List Rec) (poolDv role : Nat) : Nat × Nat × Nat :=
  let n2 := n2Of poolDv rs
  let cols := if dOp d = opMm2 then n2 else dN d
  let fmt := rFmt (recD rs role)
  match role with
  | 0 =>
    if dOp d = opCopy ∨ dOp d = opSample then (dBatch d, dM d, rowBytes (dFmtA d) (dN d))
    else if dPrologue d = 1 then (dBatch d, dK d, rowBytes (dFmtA d) (dM d))
    else if dPrologue d = 3 then (dBatch d, rExt (recD rs 0) 256 32, rowBytes (dFmtA d) (dK d))
    else (dBatch d, dM d, rowBytes (dFmtA d) (dK d))
  | 1 =>
    if dOp d = opResample then
      (dBatch d, 512, rowBytes 3 (max (dimW (recD rs roleConv)).k (dimH (recD rs roleConv)).k))
    else if dPrologue d = 2 then (dBatch d, dN d, rowBytes (dFmtB d) (dK d))
    else (dBatch d, dK d, rowBytes (dFmtB d) (dN d))
  | 2 => if dOp d = opSample then (dBatch d, dM d, 4) else (dBatch d, dM d, rowBytes (dFmtOut d) cols)
  | 3 => (dBatch d, dM d, ceilDiv (if dOp d = opCopy then dN d else dK d) 32)
  | 4 => (dBatch d, dN d, ceilDiv (dK d) 32)
  | 5 => (dBatch d, dM d, ceilDiv cols 32)
  | 6 => (1, 1, rowBytes fmt (dN d))
  | 7 => (dBatch d, dM d, rowBytes fmt cols)
  | 8 => (dBatch d, 1, 4 * dM d)
  | 9 => (dBatch d, dN d, rowBytes fmt n2)
  | 10 => (dBatch d, dM d, 8)
  | 11 => (1, 1, 320)
  | 12 => (0, 0, 0)
  | 13 => (1, 1, 8 * dBatch d)
  | _ => (dBatch d, 1, ceilDiv (ceilDiv (dM d) 256) 8)

/-- A or OUT of the convolution family, or its GATE, which is laid out as OUT (R138, R206). -/
def isImage (d : Desc) (role : Nat) : Bool := isConvFam d && (decide (role = roleA) || decide (role = roleOut))

/-- Footprint of a record (R139, R206, R237). -/
def footprint (d : Desc) (rs : List Rec) (poolDv : Nat) (r : Rec) : Nat :=
  let role := rRole r
  if isImage d role then
    let cv := recD rs roleConv
    let (t, h, w) := if role = roleA then convIn cv else convOut d cv
    let ch := if role = roleA then rowBytes (dFmtA d) (cvCin cv) else rowBytes (dFmtOut d) (dN d)
    if dBatch d = 0 ∨ t = 0 ∨ h = 0 ∨ w = 0 then 0
    else (dBatch d - 1) * rBatch r + (t - 1) * rT r + (h - 1) * rH r + (w - 1) * rRow r + ch
  else if role = roleB ∧ isVq d then
    if dBatch d = 0 ∨ dK d = 0 ∨ dN d = 0 then 0
    else (dBatch d - 1) * rBatch r + 8 * (ceilDiv (dN d) 64 * ceilDiv (dK d) (loadG d rs))
  else
    let (b, rows, rb) := roleShape d rs poolDv role
    if b = 0 ∨ rows = 0 then 0 else (b - 1) * rBatch r + (rows - 1) * rRow r + rb

/-! ### Tile shapes (R140-R145, R169, R175, R214, R228, R490) -/

/-- A tile shape: rows, reduction depth, row tiles, column tiles, chunks, parts, team size, and output tiles (member tiles
counted singly). -/
structure Shape where
  tm : Nat
  tk : Nat
  nm : Nat
  nn : Nat
  chunks : Nat
  parts : Nat
  team : Nat
  out : Nat
  deriving DecidableEq, Repr

/-- Step 2 of R140. -/
def tm0 (m : Nat) : Nat := if 256 ≤ m then 256 else 4 * ceilDiv m 4

/-- Stored bytes per element in 1/32 byte, MX scales counted (R140). -/
def bytes32 (fmt : Nat) : Nat := 4 * fmtBits fmt + (if isMx fmt then 1 else 0)

/-- Steps 3 and 4 of R140: rows and depth for a column span; none if nothing fits. -/
def fitTile (ea eb g k span budget : Nat) : Nat → Nat → Option (Nat × Nat)
  | 0, _ => none
  | n + 1, tm =>
    let per := 8 * (tm * ea + span * eb)
    let cap := g * ceilDiv k g
    let tk := if per = 0 then cap else min cap (32 * budget / per / g * g)
    if g ≤ tk then some (tm, tk)
    else if tm ≤ 4 then none
    else fitTile ea eb g k span budget n (4 * ceilDiv tm 8)

/-- Largest aligned team size a leaf set holds (R168). -/
def teamSize (leaves : List (Nat × Nat)) : Nat :=
  let quad := leaves.any fun l => decide (l.2 % 4 = 0) &&
    leaves.contains (l.1, l.2 + 1) && leaves.contains (l.1, l.2 + 2) && leaves.contains (l.1, l.2 + 3)
  let pair := leaves.any fun l => decide (l.2 % 2 = 0) && leaves.contains (l.1, l.2 + 1)
  if quad then 4 else if pair then 2 else 1

/-- 64-column blocks of a member's slab (R169). -/
def slab (n team : Nat) : Nat := ceilDiv (ceilDiv n 64) team

/-- The shape of a macro-instruction for leaf count, budget bytes, split permission and free merge slots; none if no tile
shape exists (R140-R145, R169, R175, R211, R214, R228, R490). -/
def shapeOf (d : Desc) (rs : List Rec) (poolDv : Nat) (leaves : List (Nat × Nat)) (budget : Nat) (split : Bool)
    (free : Nat) : Option Shape :=
  let m := dM d
  let b := dBatch d
  let g := loadG d rs
  let ea := bytes32 (dFmtA d)
  let eb := if isVq d then 0 else bytes32 (dFmtB d)
  if dOp d = opSample then some ⟨1, 0, m, 1, 0, 1, 1, b * m⟩
  else if dOp d = opCopy then
    let tm := tm0 m
    some ⟨tm, 0, ceilDiv m tm, ceilDiv (dN d) 64, 0, 1, 1, ceilDiv m tm * ceilDiv (dN d) 64 * b⟩
  else if dOp d = opDw ∨ dOp d = opPool ∨ dOp d = opResample then
    let tm := min 16 m
    some ⟨tm, 0, ceilDiv m tm, ceilDiv (dN d) 64, 0, 1, 1, ceilDiv m tm * ceilDiv (dN d) 64 * b⟩
  else if dOp d = opMm2 then
    let ra := 64 / (1 + ceilDiv (n2Of poolDv rs) 64)
    let tm := min (4 * ra) (4 * ceilDiv m 4)
    some ⟨tm, 0, ceilDiv m tm, 1, 0, 1, 1, ceilDiv m tm * b⟩
  else
    let team := if classR d then teamSize leaves else 1
    let nb := slab (dN d) team
    let t0 := if classR d then min (4 * min 64 (64 / nb)) (4 * ceilDiv m 4) else tm0 m
    let span := if classR d then nb * 64 else 64
    let nn := if classR d then 1 else ceilDiv (dN d) 64
    match if dK d = 0 then some (t0, 0) else fitTile ea eb g (dK d) span budget 8 t0 with
    | none => none
    | some (tm, tk) =>
      let nm := ceilDiv m tm
      let c := ceilDiv (dK d) tk
      let p := if classR d ∧ dN d = 0 then 0 else nm * nn * b
      let s :=
        if split && !classR d && decide (dChain d ≤ 13) && decide (0 < p) && decide (p ≤ free) then
          max 1 (min 16 (min (leaves.length / p) c))
        else 1
      some ⟨tm, tk, nm, nn, c, s, team, p⟩

end Sys2Proof.Machine
end

