-- ==== Sys2Proof/Machine/Loader.lean ====
section
/-! DEFINITION. The loader: checks 1 to 16 of R150 and the scans of R151, R238, R295 and R315. -/

namespace Sys2Proof.Machine

/-- A refusal: code and naming word (R476). -/
abbrev Refused := Option (Code × W64)

/-- The first refusal of a list of checks. -/
def firstOf : List Refused → Refused
  | [] => none
  | c :: t => match c with
    | some e => some e
    | none => firstOf t

/-- The first refusal of a check and those after it. -/
def orCheck (r : Refused) (k : Unit → Refused) : Refused :=
  match r with
  | some e => some e
  | none => k ()

/-- Refuse if b holds. -/
def refuseIf (b : Bool) (c : Code) (w : W64) : Refused := if b then some (c, w) else none

/-- Name of a descriptor field by its lsb. -/
def nField (lsb : Nat) : W64 := nameW 1 lsb
/-- Name of an operand role. -/
def nRole (role : Nat) : W64 := nameW 2 (role * 2 ^ 48 + 0xFFFF)
/-- Name of a field of an operand role. -/
def nRoleAt (role lsb : Nat) : W64 := nameW 2 (role * 2 ^ 48 + lsb)

/-! ### Checks 1 to 4 -/

/-- The local alignment of an address that check 3 asks: 64 bytes in local store, 128 bytes in the stack. -/
def alignedFor (a : Nat) : Bool :=
  match regionOf a with
  | .store _ _ => decide (a % 64 = 0)
  | .stack => decide (a % 128 = 0)
  | _ => true

/-- Fields an opcode does not use, as (lsb, width), in bit order (R135, R492, R228). -/
def unusedFields (op : Nat) : List (Nat × Nat) :=
  if op = opPool then [(13, 5), (26, 1), (29, 1), (32, 5), (37, 3), (60, 4), (152, 32)]
  else if op = opResample then [(26, 1), (29, 1), (32, 5), (37, 3), (60, 4), (152, 32)]
  else if op = opCopy then [(13, 5), (26, 1), (29, 1), (32, 5), (37, 3), (60, 4), (152, 32)]
  else if op = opSample then
    [(13, 5), (23, 2), (25, 1), (26, 1), (27, 1), (28, 1), (29, 1), (32, 5), (37, 3), (40, 16), (60, 4), (152, 32)]
  else if op = opMm ∨ op = opMm2 then [(60, 4)]
  else [(37, 3), (60, 4)]

/-- Check 2: op, order, prologue, reserved and unused fields. -/
def check2 (d : Desc) : Refused :=
  firstOf
    [refuseIf (decide (dOp d = 0) || decide (9 < dOp d)) eEncoding (nField 0),
     refuseIf (decide (dOrder d = 3)) eEncoding (nField 30),
     refuseIf (decide (3 < dPrologue d)) eEncoding (nField 37),
     firstOf ((unusedFields (dOp d)).map fun f => refuseIf (decide (bits d f.1 f.2 ≠ 0)) eEncoding (nField f.1))]

/-- Checks 1 to 4 of a descriptor at local address a of this device. -/
def State.checkDesc (s : State) (a : Nat) (d : Desc) : Refused :=
  let name := nameW 8 (s.own * 2 ^ 48 + a)
  firstOf
    [refuseIf (decide (a % 32 ≠ 0)) eAlign name,
     refuseIf (!inMem a 32) eBounds name,
     check2 d,
     refuseIf (!alignedFor (dAddr d)) eAlign (nField 208),
     refuseIf (decide (dCount d ≠ 0) && !inMem (dAddr d) (64 * dCount d)) eBounds (nField 56)]

/-! ### Check 5: records -/

/-- Whether a role carries a format of its own (R137). -/
def hasFmt (role : Nat) : Bool :=
  decide (role = roleBias) || decide (role = roleGate) || decide (role = roleC) || decide (role = roleStats)

/-- role_ext fields in use, as (lsb, width). -/
def usedExt (d : Desc) (role : Nat) : List (Nat × Nat) :=
  let c := dChain d
  if role = roleConv then
    (if dOp d = opResample then
       [(256, 16), (272, 16), (288, 8), (296, 8), (304, 8), (316, 4), (368, 16), (400, 16), (472, 16)]
     else if dOp d = opConvt then [(256, 214), (472, 16)]
     else [(256, 208), (472, 16)])
  else if isImage d role then
    (256, 96) :: (if role = roleOut ∧ c ≠ 0 ∧ c ≤ 23 then [(256, 32)] else [])
  else if role = roleA then (if dPrologue d = 3 then [(256, 32)] else [])
  else if role = roleB then (if isVq d then [(256, 24)] else [])
  else if role = roleC then [(256, 32)]
  else if role = rolePool then [(256, 16)]
  else if role = roleOut then
    (if dOp d = opSample then [(256, 77)]
     else (if c ≠ 0 ∧ c ≤ 23 then [(256, 32)] else []) ++ (if (16 ≤ c ∧ c ≤ 18) ∨ c = 20 then [(288, 32)] else []) ++
       (if 19 ≤ c ∧ c ≤ 23 then [(320, 5)] else []))
  else []

/-- Lowest role_ext bit that is set and in no field in use. -/
def strayExt (used : List (Nat × Nat)) (r : Rec) : Option Nat :=
  ((List.range 256).map (· + 256)).find? fun i =>
    bit r i && !used.any fun f => decide (f.1 ≤ i) && decide (i < f.1 + f.2)

/-- A finite fp32 value with no negative sign but for a zero where `zero` allows it. -/
def fp32Ok (c : Nat) (allowNegZero : Bool) : Bool :=
  match fp32F.decode c with
  | .num n p _ _ => !n || (allowNegZero && decide (p = 0))
  | _ => false

/-- Parameters of chains and of m.sample in the OUT record (R164, R229). -/
def outParams (d : Desc) (r : Rec) : Refused :=
  if dOp d = opSample then
    let temp := rExt r 256 32
    let topP := rExt r 288 32
    let topK := rExt r 320 11
    let topkEn := bit r 331
    let toppEn := bit r 332
    let p := fp32F.decode topP
    firstOf
      [refuseIf (!fp32Ok temp false) eOperand (nRoleAt roleOut 256),
       refuseIf (if toppEn then p.isZero || p.neg || !p.le (.num false 1 1 0) else decide (topP ≠ 0)) eOperand
         (nRoleAt roleOut 288),
       refuseIf (decide (1024 < topK) || (decide (topK ≠ 0) && !topkEn)) eOperand (nRoleAt roleOut 320),
       refuseIf (toppEn && !topkEn) eOperand (nRoleAt roleOut 332)]
  else
    firstOf
      [refuseIf (decide (dChain d ≠ 0) && !(fp32F.decode (rExt r 256 32)).isFin) eOperand (nRoleAt roleOut 256),
       refuseIf (decide (16 ≤ dChain d) && decide (dChain d ≤ 18) && !fp32Ok (rExt r 288 32) true) eOperand
         (nRoleAt roleOut 288)]

/-- Fields of a record that a role wants 0 (R205, R234, R293). -/
def zeroFields (d : Desc) (role : Nat) : List (Nat × Nat) :=
  if role = roleConv then [(32, 64), (96, 48), (144, 40), (184, 48)]
  else if role = rolePool then [(144, 40), (184, 48)]
  else if role = roleB ∧ isVq d then [(144, 40)]
  else []

/-- Check 5 of record r, `seen` being the roles before it. -/
def check5 (d : Desc) (seen : List Nat) (r : Rec) : Refused :=
  let role := rRole r
  firstOf
    [refuseIf (seen.contains role) eOperand (nRole role),
     refuseIf (decide (bits r 27 5 ≠ 0)) eOperand (nRoleAt role 27),
     refuseIf (decide (bits r 232 24 ≠ 0)) eOperand (nRoleAt role 232),
     (match strayExt (usedExt d role) r with | some i => some (eOperand, nRoleAt role i) | none => none),
     refuseIf (!hasFmt role && decide (rFmt r ≠ 0)) eOperand (nRoleAt role 4),
     firstOf ((zeroFields d role).map fun f => refuseIf (decide (bits r f.1 f.2 ≠ 0)) eOperand (nRoleAt role f.1)),
     (if role = roleOut then outParams d r else none)]

/-- Check 5 over the records in their order. -/
def check5All (d : Desc) : List Nat → List Rec → Refused
  | _, [] => none
  | seen, r :: t => match check5 d seen r with
    | some e => some e
    | none => check5All d (rRole r :: seen) t

/-! ### Check 6: roles (R138, R162, R163, R204, R228, R293, R313) -/

/-- Chains with a gate. -/
def chainGate (c : Nat) : Bool := (decide (7 ≤ c) && decide (c ≤ 12)) || decide (c = 18)

/-- Roles an operation needs. -/
def rolesNeeded (d : Desc) (rs : List Rec) : List Nat :=
  let op := dOp d
  let pool := hasRole rs rolePool && decide (op = opMm2) && (decide (dChain d = 19) || decide (dChain d = 20))
  [roleA, roleOut] ++
  (if op = opMm ∨ (op = opMm2 ∧ !pool) ∨ op = opConv ∨ op = opConvt ∨ op = opDw ∨
      (op = opResample ∧ cvMode (recD rs roleConv) = 2) then [roleB] else []) ++
  (if isConvFam d then [roleConv] else []) ++
  (if !isConvFam d && isMx (dFmtA d) && decide (op ≠ opSample) then [roleScaleA] else []) ++
  (if (op = opMm ∨ op = opMm2) ∧ isMx (dFmtB d) then [roleScaleB] else []) ++
  (if !isConvFam d && isMx (dFmtOut d) && decide (op ≠ opSample) then [roleScaleOut] else []) ++
  (if chainGate (dChain d) then [roleGate] else []) ++
  (if dPrologue d = 3 then [roleIndex] else []) ++
  (if op = opMm2 ∧ !pool then [roleC] else []) ++
  (if dHistEn d then [roleHist] else [])

/-- Roles that may be present besides. -/
def rolesOptional (d : Desc) (rs : List Rec) : List Nat :=
  let op := dOp d
  let c := dChain d
  (if op = opSample then [roleStats] else []) ++
  (if (1 ≤ c ∧ c ≤ 18) ∨ (21 ≤ c ∧ c ≤ 23) then [roleBias] else []) ++
  (if 14 ≤ c ∧ c ≤ 20 then [roleStats] else []) ++
  (if op = opMm2 ∧ (c = 19 ∨ c = 20) ∧ !hasRole rs roleB ∧ !hasRole rs roleC then [rolePool] else []) ++
  (if op = opMm ∨ op = opCopy ∨ op = opConv then [rolePresOut] else []) ++
  (if (op = opMm ∧ c ≤ 13) ∨ op = opCopy then [rolePresIn] else [])

/-- Check 6, the lowest role at fault named. -/
def check6 (d : Desc) (rs : List Rec) : Refused :=
  let need := rolesNeeded d rs
  let all := need ++ rolesOptional d rs
  firstOf ((List.range 16).map fun role =>
    refuseIf ((need.contains role && !hasRole rs role) || (hasRole rs role && !all.contains role)) eOperand (nRole role))

/-! ### Check 7: formats (R45, R60, R164, R166, R204, R228, R234) -/

/-- Formats of the depth-wise path (R204). -/
def dwFmt (f : Nat) : Bool :=
  (decide (1 ≤ f) && decide (f ≤ 5)) || decide (f = 0x0B) || decide (f = 0x0C)

/-- Whether fmt_a is allowed. -/
def fmtAOk (d : Desc) : Bool :=
  let f := dFmtA d
  if dOp d = opSample then decide (1 ≤ f) && decide (f ≤ 3)
  else if dOp d = opConv ∨ dOp d = opConvt then matIn f && !isMx f
  else if isConvFam d then dwFmt f
  else matIn f

/-- Whether fmt_b, with vq_fmt, is allowed. -/
def fmtBOk (d : Desc) (rs : List Rec) : Refused :=
  let f := dFmtB d
  let op := dOp d
  let vqOk := decide (f = 0x0E) && decide (dPrologue d ≠ 2) && hasRole rs roleB
  let bad :=
    if op = opMm ∨ op = opMm2 then !matIn f && !vqOk
    else if op = opConv ∨ op = opConvt then !(matIn f && !isMx f) && !vqOk
    else if op = opDw then !dwFmt f || decide (f = 0x0C)
    else if op = opResample then decide (f ≠ if cvMode (recD rs roleConv) = 2 then 3 else 0)
    else false
  firstOf
    [refuseIf bad eFormat (nField 13),
     (if f = 0x0E then
        refuseIf (!matIn (effFmtB d rs) || (isConvFam d && isMx (effFmtB d rs))) eFormat (nRoleAt roleB 256)
      else none)]

/-- Whether fmt_out is allowed. -/
def fmtOutOk (d : Desc) : Bool :=
  let f := dFmtOut d
  if dOp d = opSample then decide (f = 0x0F)
  else if dOp d = opConv ∨ dOp d = opConvt then matOut f && !isMx f
  else if isConvFam d then dwFmt f
  else matOut f

/-- Whether the format of a record's own role is allowed (R166). -/
def recFmtOk (r : Rec) : Bool :=
  let f := rFmt r
  if rRole r = roleBias then decide (1 ≤ f) && decide (f ≤ 3)
  else if rRole r = roleGate then decide (1 ≤ f) && decide (f ≤ 5)
  else if rRole r = roleC then matIn f
  else if rRole r = roleStats then decide (f = 1)
  else true

/-- Check 7. -/
def check7 (d : Desc) (rs : List Rec) : Refused :=
  firstOf
    [refuseIf (!fmtAOk d) eFormat (nField 8),
     fmtBOk d rs,
     refuseIf (!fmtOutOk d) eFormat (nField 18),
     refuseIf (decide (dRnd d = 3)) eFormat (nField 23),
     firstOf (rs.map fun r => refuseIf (!recFmtOk r) eFormat (nRoleAt (rRole r) 4)),
     (if 19 ≤ dChain d ∧ dChain d ≤ 23 then
        let p := rExt (recD rs roleOut) 320 5
        refuseIf (decide (p < 2) || decide (4 < p)) eFormat (nRoleAt roleOut 320)
      else none)]

/-! ### Checks 8 to 12 -/

/-- Check 8 for an output tile count p and parts s. -/
def check8 (d : Desc) (ps : Nat) : Refused :=
  firstOf
    [refuseIf (decide (2 ^ 24 < dK d)) eBounds (nField 152),
     refuseIf (decide (dOp d = opMm2) && decide (2 ^ 24 < dN d)) eBounds (nField 120),
     refuseIf (decide (dOp d = opSample) && decide (262144 < dN d)) eBounds (nField 120),
     refuseIf (decide (2 ^ 40 - 1 < ps)) eBounds (nField 88)]

/-- Check 9 (R165, R204). -/
def check9 (d : Desc) : Refused :=
  let c := dChain d
  let op := dOp d
  let f := dFmtOut d
  refuseIf
    (decide (23 < c) ||
     (decide (1 ≤ c) && decide (c ≤ 13) && (decide (op = opMm2) || decide (6 ≤ op))) ||
     (decide (14 ≤ c) && decide (c ≤ 18) && decide (op ≠ opMm)) ||
     (decide (19 ≤ c) && decide (op ≠ opMm2)) ||
     (decide (op = opMm2) && decide (c < 19)) ||
     (decide (14 ≤ c) && !(decide (1 ≤ f) && decide (f ≤ 5))) ||
     ((decide (c = 19) || decide (c = 20)) && dStepwise d))
    eFuseMenu (nField 32)

/-- Check 10 (R168, R175). -/
def check10 (d : Desc) (rs : List Rec) (poolDv : Nat) (leaves : List (Nat × Nat)) : Refused :=
  if classR d then refuseIf (decide (4096 * teamSize leaves < dN d)) eFuseLong (nField 120)
  else if dOp d = opMm2 then
    refuseIf (decide (4032 < n2Of poolDv rs)) eFuseLong
      (if hasRole rs rolePool then nRole rolePool else nRoleAt roleC 256)
  else none

/-- Check 11 (R208). -/
def check11 (d : Desc) (rs : List Rec) : Refused :=
  if !isConvFam d then none
  else
    let cv := recD rs roleConv
    let op := dOp d
    let at_ (lsb : Nat) : W64 := nRoleAt roleConv lsb
    let rng (lsb : Nat) : Refused := refuseIf (decide (op ≠ opResample) && decide (rExt cv lsb 8 = 0)) eFilter (at_ lsb)
    let g := cvGroups cv
    let (t, h, w) := convOut d cv
    let chans := if op = opPool ∨ op = opResample then cvCin cv else dN d
    let k := if op = opPool ∨ op = opResample then 0
      else rExt cv 312 4 * rExt cv 304 8 * rExt cv 296 8 * cvCg cv
    firstOf
      [refuseIf (decide (31 < rExt cv 296 8)) eFilter (at_ 296),
       refuseIf (decide (31 < rExt cv 304 8)) eFilter (at_ 304),
       refuseIf (decide (9 < rExt cv 312 4)) eFilter (at_ 312),
       rng 320, rng 328, rng 336, rng 344, rng 352, rng 360,
       refuseIf (decide (op ≠ opResample) && (decide (g = 0) || decide (cvCin cv % g ≠ 0) || decide (dN d % g ≠ 0) ||
         ((decide (op = opConv) || decide (op = opConvt)) && decide (g ≠ 1)))) eFilter (at_ 448),
       refuseIf (decide (op = opConvt) && decide (rExt cv 320 8 ≤ rExt cv 464 2)) eFilter (at_ 464),
       refuseIf (decide (op = opConvt) && decide (rExt cv 328 8 ≤ rExt cv 466 2)) eFilter (at_ 466),
       refuseIf (decide (op = opConvt) && decide (rExt cv 336 8 ≤ rExt cv 468 2)) eFilter (at_ 468),
       refuseIf (decide ((if op = opPool ∨ op = opResample then 2 else 0) < cvMode cv)) eFilter (at_ 316),
       refuseIf (decide (dM d ≠ t * h * w)) eFilter (nField 88),
       refuseIf (decide (dN d ≠ chans)) eFilter (nField 120),
       refuseIf (decide (dK d ≠ k)) eFilter (nField 152)]

/-! ### Pools (R285, R294) -/

def pMode (p : Pool) : Bool := bit p.img 0
def pKeyFmt (p : Pool) : Nat := bits p.img 1 5
def pValFmt (p : Pool) : Nat := bits p.img 6 5
def pDk (p : Pool) : Nat := bits p.img 16 16
def pDv (p : Pool) : Nat := bits p.img 32 16
def pHeads (p : Pool) : Nat := bits p.img 48 8
def pSeqTable (p : Pool) : Nat := bits p.img 64 48
def pSeqCount (p : Pool) : Nat := bits p.img 128 24
def pRoot (p : Pool) : Nat := bits p.img 176 48
/-- Bytes of a key of one head and position (R285). -/
def pKeyRow (p : Pool) : Nat := roundUp (rowBytes (pKeyFmt p) (pDk p)) 16
/-- Bytes of a value of one head and position (R285). -/
def pValRow (p : Pool) : Nat := roundUp (rowBytes (pValFmt p) (pDv p)) 16

/-- Pool index of a macro-instruction on a pool. -/
def poolIdx (rs : List Rec) : Nat := rExt (recD rs rolePool) 256 8
/-- Head of a macro-instruction on a pool. -/
def poolHead (rs : List Rec) : Nat := rExt (recD rs rolePool) 264 8

/-- Check 12 (R294). -/
def State.check12 (s : State) (d : Desc) (rs : List Rec) (leaves : List (Nat × Nat)) : Refused :=
  if !hasRole rs rolePool then none
  else
    let p := s.pool (poolIdx rs)
    let name := nRole rolePool
    firstOf
      [refuseIf (!p.defined) eHandle name,
       refuseIf (leaves.any fun l => decide (l.1 ≠ s.own)) eHandle name,
       refuseIf (decide (pHeads p ≤ poolHead rs)) eBounds name,
       refuseIf (decide (dK d ≠ pDk p)) eOperand name,
       refuseIf (decide (dFmtB d ≠ pKeyFmt p)) eFormat name]

/-! ### Checks 13 to 15 -/

/-- Roles whose row_stride is ignored (R70, R138, R313). -/
def rowIgnored (role : Nat) : Bool := decide (role = roleHist) || decide (role = rolePresOut) || decide (role = rolePresIn)
/-- Roles whose batch_stride is ignored (R138). -/
def batchIgnored (role : Nat) : Bool := decide (role = roleHist) || decide (role = roleBias)

/-- Check 13 of one record (R206). -/
def check13 (d : Desc) (r : Rec) : Refused :=
  let role := rRole r
  firstOf
    [refuseIf (!alignedFor (rAddr r % 2 ^ 48)) eAlign (nRoleAt role 32),
     refuseIf (!rowIgnored role && decide (rRow r % 16 ≠ 0)) eAlign (nRoleAt role 144),
     refuseIf (!batchIgnored role && decide (rBatch r % 16 ≠ 0)) eAlign (nRoleAt role 184),
     refuseIf (isImage d role && decide (rH r % 16 ≠ 0)) eAlign (nRoleAt role 256),
     refuseIf (isImage d role && decide (rT r % 16 ≠ 0)) eAlign (nRoleAt role 304)]

/-- Check 14 of one record (R139). -/
def State.check14 (s : State) (d : Desc) (rs : List Rec) (poolDv : Nat) (r : Rec) : Refused :=
  let role := rRole r
  if role = roleConv then none
  else
    firstOf
      [refuseIf (decide (rExtent r < footprint d rs poolDv r)) eBounds (nRoleAt role 96),
       refuseIf (!s.isLive (rAddr r / 2 ^ 48) || !inMem (rAddr r % 2 ^ 48) (rExtent r)) eBounds (nRoleAt role 32)]

/-- Output roles (R138, R313). -/
def isOutRole (role : Nat) : Bool :=
  decide (role = roleOut) || decide (role = roleScaleOut) || decide (role = roleStats) || decide (role = roleHist) ||
  decide (role = rolePresOut)

/-- Two extents share a byte. -/
def extentsMeet (a b : Rec) : Bool :=
  decide (rExtent a ≠ 0) && decide (rExtent b ≠ 0) && decide (rAddr a < rAddr b + rExtent b) &&
  decide (rAddr b < rAddr a + rExtent a)

/-- Starts of the rows of an output, as nested strides (count, stride), innermost first. -/
def rowDims (d : Desc) (rs : List Rec) (poolDv : Nat) (r : Rec) : Nat × List (Nat × Nat) :=
  let role := rRole r
  if isImage d role then
    let (t, h, w) := convOut d (recD rs roleConv)
    (rowBytes (dFmtOut d) (dN d), [(w, rRow r), (h, rH r), (t, rT r), (dBatch d, rBatch r)])
  else
    let (b, rows, rb) := roleShape d rs poolDv role
    (rb, [(rows, if rowIgnored role then 0 else rRow r), (b, if batchIgnored role then 0 else rBatch r)])

/-- All row starts of an output. -/
def rowStarts : List (Nat × Nat) → List Nat
  | [] => [0]
  | (n, st) :: t => (rowStarts t).flatMap fun b => (List.range n).map fun i => b + i * st

/-- Whether two rows of len bytes among some starts overlap. -/
def startsMeet (len : Nat) : List Nat → Bool
  | [] => false
  | a :: t => (t.any fun b => decide (a < b + len) && decide (b < a + len)) || startsMeet len t

/-- Strides so wide that each nest of rows lies apart from the next: no two rows overlap. -/
def apart (len : Nat) : List (Nat × Nat) → Bool
  | [] => true
  | (n, st) :: t => if n ≤ 1 then apart len t else decide (len ≤ st) && apart ((n - 1) * st + len) t

/-- Whether two rows of an output overlap (R139). -/
def rowsOverlap (d : Desc) (rs : List Rec) (poolDv : Nat) (r : Rec) : Bool :=
  let (len, dims) := rowDims d rs poolDv r
  if len = 0 ∨ apart len dims = true ∨ dims.any (fun e => decide (e.1 = 0)) = true then false
  else startsMeet len (rowStarts dims)

/-- Check 15 of one record: the output named first (kind 12). -/
def check15 (d : Desc) (rs : List Rec) (poolDv : Nat) (r : Rec) : Refused :=
  if !isOutRole (rRole r) then none
  else
    firstOf
      [(match rs.find? fun o => decide (rRole o ≠ rRole r) && extentsMeet r o with
        | some o => some (eOverlap, nameW 12 (rRole r * 2 ^ 48 + rRole o * 2 ^ 40))
        | none => none),
       refuseIf (rowsOverlap d rs poolDv r) eOverlap (nameW 12 (rRole r * 2 ^ 48 + rRole r * 2 ^ 40))]

/-! ### Check 16 and the whole -/

/-- ls_reserve of a leaf's cluster: of this device, or as another device tells (log 14, DESIGN CHOICE). -/
def State.reserveOf (s : State) (l : Nat × Nat) : Nat :=
  if l.1 = s.own then bits (s.cluster (l.2 / 16)).lastCfg 0 11 else Config.remoteReserve l.1 (l.2 / 16)

/-- The largest ls_reserve of a leaf set and the leaf whose cluster gives it, lowest device and cluster first (R140, R150). -/
def State.reserveMax (s : State) (leaves : List (Nat × Nat)) : Nat × (Nat × Nat) :=
  leaves.foldl (fun (b : Nat × (Nat × Nat)) l =>
    let v := s.reserveOf l
    let key (x : Nat × Nat) : Nat := x.1 * 32 + x.2 / 16
    if b.1 < v ∨ (b.1 = v ∧ key l < key b.2) then (v, l) else b)
    (match leaves with | l :: _ => (s.reserveOf l, l) | [] => (0, (0, 0)))

/-- Free merge slots of the device (R142, R143). -/
def State.freeMerge (s : State) : List Nat :=
  let used := (s.mis.filter fun m => m.here).flatMap fun m => m.mergeSlots.map (·.2)
  (List.range 128).filter fun k => !used.contains k

/-- The tile shape of a macro-instruction issued by core c (R140, R142). -/
def State.shape (s : State) (c : Nat) (d : Desc) (rs : List Rec) (leaves : List (Nat × Nat)) : Option Shape :=
  let dv := pDv (s.pool (poolIdx rs))
  shapeOf d rs dv leaves ((1536 - (s.reserveMax leaves).1) * 1024) (bit (s.cluster (c / 16)).lastCfg 11)
    s.freeMerge.length

/-- The operand records of a descriptor. -/
def State.readRecs (s : State) (d : Desc) : List Rec :=
  (List.range (dCount d)).map fun k => BitVec.ofNat 512 (s.num (dAddr d + 64 * k) 64)

/-- Checks 5 to 16 of R150 on descriptor d with its records, issued by core c over a leaf set. -/
def State.checkRecs (s : State) (c : Nat) (d : Desc) (rs : List Rec) (leaves : List (Nat × Nat)) : Refused :=
  let dv := pDv (s.pool (poolIdx rs))
  let sh := s.shape c d rs leaves
  let ps := match sh with
    | some x => x.out * x.parts
    | none => ceilDiv (dM d) (tm0 (dM d)) * ceilDiv (dN d) 64 * dBatch d
  let (_, cl) := s.reserveMax leaves
  orCheck (firstOf [check5All d [] rs, check6 d rs, check7 d rs, check8 d ps, check9 d, check10 d rs dv leaves,
      check11 d rs, s.check12 d rs leaves]) fun _ =>
  orCheck (firstOf (rs.map fun r => check13 d r)) fun _ =>
  orCheck (firstOf (rs.map fun r => s.check14 d rs dv r)) fun _ =>
  orCheck (firstOf (rs.map fun r => check15 d rs dv r)) fun _ =>
    refuseIf sh.isNone eBounds (nameW 6 (cl.1 * 2 ^ 16 + cl.2 / 16))

/-- Poison met while the loader reads a descriptor and its records (R279). -/
def State.loadPoison (s : State) (a : Nat) (d : Desc) : Refused :=
  match (s.poisonIn a 32).or (s.poisonIn (dAddr d) (64 * dCount d)) with
  | some ln => some (eStackUe, BitVec.ofNat 64 (128 * ln))
  | none => none

/-- The loader's verdict on the descriptor at local address a (R150). -/
def State.loaderErr (s : State) (c a : Nat) (leaves : List (Nat × Nat)) : Refused :=
  let d : Desc := BitVec.ofNat 256 (s.num a 32)
  orCheck (s.checkDesc a d) fun _ => orCheck (s.loadPoison a d) fun _ => s.checkRecs c d (s.readRecs d) leaves

/-! ### Bytes of any device -/

/-- A use of a macro-instruction. -/
def FarUse.isOf (u : FarUse) (home : BitVec 16) (strm : StreamId) (ticket : W64) : Bool :=
  decide (u.home = home) && decide (u.strm = strm) && decide (u.ticket = ticket)
/-- The tile a use belongs to. -/
def FarPart.tile : FarPart → Option Nat
  | .scan => none
  | .hist => none
  | .load i _ => some i
  | .row i _ => some i
  | .block i _ => some i
  | .team i _ => some i
/-- A use by a tile. -/
def FarUse.isOfTile (u : FarUse) (t : Tile) : Bool := u.isOf t.home t.strm t.ticket && decide (u.part.tile = some t.idx)
/-- Lines of other devices of some uses are no longer kept. -/
def State.dropFar (s : State) (p : FarUse → Bool) : State := { s with farBuf := s.farBuf.filter fun l => !p l.use }
/-- The byte at a global address of another device: of its line as a macro-instruction has read it (R362), else as it stands there
(log 14, DESIGN CHOICE). -/
def State.farByte (s : State) (a : Nat) : Byte :=
  match (s.farBuf.find? fun l => decide (l.line = a / 128) && l.got.isSome).bind FarLine.got with
  | some bs => bs.getD (a % 128) 0
  | none => Config.remoteByte s.freeCtr a
/-- The byte at a global address: of this device, or of another one. -/
def State.gbyte (s : State) (a : Nat) : Byte :=
  if a / 2 ^ 48 = s.own then s.byte (a % 2 ^ 48) else s.farByte a
/-- Little-endian number of n bytes at a global address. -/
def State.gnum (s : State) (a n : Nat) : Nat := leNat ((List.range n).map fun i => s.gbyte (a + i))
/-- A poisoned line among n bytes at a global address of this device. -/
def State.gpoison (s : State) (a n : Nat) : Option Nat :=
  if a / 2 ^ 48 = s.own then s.poisonIn (a % 2 ^ 48) n else none
/-- First poisoned line of this device among some spans of bytes. -/
def State.spanPoison (s : State) (l : List (Nat × Nat)) : Option Nat := l.findSome? fun e => s.gpoison e.1 e.2

/-! ### Scans before the first grant -/

/-- Whether a macro-instruction has a scan that follows its order wait (R126). -/
def needsScan (d : Desc) (rs : List Rec) : Bool :=
  decide (dPrologue d = 3) || isVq d || hasRole rs rolePool || hasRole rs rolePresIn

/-- INDEX value of row i of batch bi. -/
def State.indexVal (s : State) (rs : List Rec) (bi i : Nat) : Int :=
  let r := recD rs roleIndex
  signed 32 (s.gnum (rAddr r + bi * rBatch r + 4 * i) 4)

/-- R151: every INDEX value is at least 0 and below a_rows. -/
def State.indexScan (s : State) (d : Desc) (rs : List Rec) : Refused :=
  if dPrologue d = 3 then
    let rows := rExt (recD rs roleA) 256 32
    refuseIf ((List.range (dBatch d)).any fun bi => (List.range (dM d)).any fun i =>
      let v := s.indexVal rs bi i
      decide (v < 0) || decide ((rows : Int) ≤ v)) eBounds (nRole roleIndex)
  else none

/-- Address of directory entry idx of batch bi of a VQ B (R236). -/
def vqEntryAddr (rs : List Rec) (bi idx : Nat) : Nat :=
  rAddr (recD rs roleB) + bi * rBatch (recD rs roleB) + 8 * idx

/-- R238: every VQ directory entry. -/
def State.vqScan (s : State) (d : Desc) (rs : List Rec) : Refused :=
  if isVq d then
    let r := recD rs roleB
    let n := if dK d = 0 ∨ dN d = 0 then 0 else ceilDiv (dN d) 64 * ceilDiv (dK d) (loadG d rs)
    let nb := if rBatch r = 0 then min 1 (dBatch d) else dBatch d
    firstOf ((List.range nb).map fun bi => firstOf ((List.range n).map fun i =>
      let e := s.gnum (vqEntryAddr rs bi i) 8
      let dir := bi * rBatch r
      let off := dir + 64 * (e % 2 ^ 32)
      let len := 64 * (e / 2 ^ 32 % 2 ^ 16)
      firstOf
        [refuseIf (decide (e / 2 ^ 48 ≠ 0)) eOperand (nRole roleB),
         refuseIf (decide (len = 0) || decide (rExtent r < off + len)) eBounds (nRole roleB)]))
  else none

/-- Sequence list entry bi of a macro-instruction on a pool (R293): sequence, valid length, reserved bits zero. -/
def State.seqEntry (s : State) (rs : List Rec) (bi : Nat) : Nat × Nat × Bool :=
  let e := s.gnum (rAddr (recD rs rolePool) + 8 * bi) 8
  (e % 2 ^ 24, e / 2 ^ 32, decide (e / 2 ^ 24 % 2 ^ 8 = 0))

/-- Sequence record sq of a pool (R288), 32 bytes. -/
def State.seqRec (s : State) (p : Pool) (sq : Nat) : BitVec 256 := BitVec.ofNat 256 (s.num (pSeqTable p + 32 * sq) 32)

/-- R295: the sequence list of a pool. -/
def State.kvScan (s : State) (d : Desc) (rs : List Rec) : Refused :=
  if hasRole rs rolePool then
    let p := s.pool (poolIdx rs)
    let name := nRole rolePool
    firstOf ((List.range (dBatch d)).map fun bi =>
      let (sq, len, ok) := s.seqEntry rs bi
      let r := s.seqRec p sq
      refuseIf (!ok || decide (pSeqCount p ≤ sq) || decide (dN d < len) ||
        (pMode p && (decide (2 ^ 37 < pHeads p * bits r 0 32 * (pKeyRow p + pValRow p) + bits r 64 37) ||
          decide (bits r 0 32 < len)))) eBounds name)
  else none

/-- Presence bit of 256-row block b of batch bi (R313). -/
def State.presBit (s : State) (r : Rec) (bi b : Nat) : Bool :=
  decide ((s.gbyte (rAddr r + bi * rBatch r + b / 8)).toNat / 2 ^ (b % 8) % 2 = 1)

/-- The scans of R151, R238 and R295. -/
def State.scanErr (s : State) (d : Desc) (rs : List Rec) : Refused :=
  firstOf [s.indexScan d rs, s.vqScan d rs, s.kvScan d rs]

end Sys2Proof.Machine
end

