-- ==== Sys2Proof/Machine/Last.lean ====
section
/-! DEFINITION. The Lasts: counters, publication, order waits, claims and grants, codebook pins, release (R136, R142-R149,
R170, R247). -/

namespace Sys2Proof.Machine

/-! ### Counters (R144) -/

/-- The cluster of this device whose Last covers a leaf set; none for the device-level Last. -/
def State.lastOf (s : State) (leaves : List (Nat × Nat)) : Option Nat :=
  match leaves with
  | [] => none
  | l :: _ => if leaves.all (fun x => decide (x.1 = s.own) && decide (x.2 / 16 = l.2 / 16)) then some (l.2 / 16) else none

/-- Counters this device publishes in a Last. -/
def State.lastMis (s : State) (cl : Option Nat) : List MI :=
  s.mis.filter fun m => m.here && decide (!m.leaves.isEmpty) &&
    (match cl with
     | some c => !m.atDevice && decide (m.cluster = c)
     | none => m.atDevice)

/-- Lowest free counter slot of a Last: 64 in a cluster, 256 in the device-level Last. -/
def State.freeSlot (s : State) (cl : Option Nat) : Option Nat :=
  let used := (s.lastMis cl).map MI.slot
  (List.range (if cl.isSome then 64 else 256)).find? fun k => !used.contains k

/-! ### Tile numbering (R145, R315, R479) -/

/-- The tile number of R145 behind published index u. -/
def MI.tileNo (m : MI) (u : Nat) : Nat :=
  match m.pub with
  | none => u
  | some l => l.getD u 0

/-- Output block (batch, row tile, column tile), part and member of published tile index t. -/
def MI.tileAt (m : MI) (t : Nat) : (Nat × Nat × Nat) × Nat × Nat :=
  let mem := t % m.team
  let u := m.tileNo (t / m.team)
  let p := u % m.parts
  let q := u / m.parts
  ((q / m.nn / m.nm, q / m.nn % m.nm, q % m.nn), p, mem)

/-- Number of output block (bi, im, jn). -/
def MI.blockNo (m : MI) (b : Nat × Nat × Nat) : Nat := (b.1 * m.nm + b.2.1) * m.nn + b.2.2

/-- Columns of OUT: n, or n2 of m.mm2, or 1 of m.sample. -/
def MI.cols (s : State) (m : MI) : Nat :=
  if dOp m.desc = opMm2 then n2Of (pDv (s.pool (poolIdx m.recs))) m.recs
  else if dOp m.desc = opSample then 1 else dN m.desc

/-- Rows of a row tile that lie in OUT. -/
def MI.rowsOf (m : MI) (im : Nat) : Nat := min m.tm (dM m.desc - im * m.tm)

/-- First column and number of columns a tile writes (R140, R169, R175). -/
def MI.colSpan (s : State) (m : MI) (jn mem : Nat) : Nat × Nat :=
  if dOp m.desc = opMm2 ∨ dOp m.desc = opSample then (0, m.cols s)
  else if classR m.desc then
    let w := 64 * slab (dN m.desc) m.team
    (mem * w, min w (dN m.desc - mem * w))
  else (64 * jn, min 64 (dN m.desc - 64 * jn))

/-- Progress units of R478 that the rows and columns of an output block touch. -/
def MI.blockUnits (s : State) (m : MI) (b : Nat × Nat × Nat) : List Nat :=
  let ur := ceilDiv (dM m.desc) 4
  let uc := ceilDiv (m.cols s) 64
  let r0 := b.2.1 * m.tm / 4
  let r1 := ceilDiv (b.2.1 * m.tm + m.rowsOf b.2.1) 4
  let cs := if m.nn = 1 then List.range uc else [b.2.2]
  (List.range (r1 - r0)).flatMap fun i => cs.map fun c => (b.1 * ur + r0 + i) * uc + c

/-- Number of progress units. -/
def MI.unitCount (s : State) (m : MI) : Nat := dBatch m.desc * ceilDiv (dM m.desc) 4 * ceilDiv (m.cols s) 64

/-! ### Publication (R136, R142, R144) -/

/-- A macro-instruction with the counter that its leaf set gives it. -/
def MI.placed (s : State) (m : MI) : MI :=
  let cl := s.lastOf m.leaves
  { m with atDevice := cl.isNone, cluster := cl.getD 0, slot := (s.freeSlot cl).getD 0 }

/-- A macro-instruction published under a tile shape, with merge slots if it is split; nothing of it is claimed. -/
def MI.withShape (s : State) (m : MI) (sh : Shape) : MI :=
  { m with
    tm := sh.tm, tk := sh.tk, nm := sh.nm, nn := sh.nn, chunks := sh.chunks, parts := sh.parts, team := sh.team,
    total := sh.out * sh.parts * sh.team, next := 0, returned := [], out := [], claimed := 0, retired := 0,
    waiting := decide (dOrder m.desc ≠ 0), scanned := !needsScan m.desc m.recs, pub := none, mergeDone := [],
    taken := [], offered := 0,
    mergeSlots := if sh.parts ≤ 1 then [] else (List.range sh.out).zip s.freeMerge }

/-- Publish a new macro-instruction. -/
def State.publish (s : State) (m : MI) (sh : Shape) : State := { s with mis := s.mis ++ [(m.placed s).withShape s sh] }

/-- The order wait of R136 is met. -/
def State.orderMet (s : State) (m : MI) : Bool :=
  let mine := s.mis.filter fun x => decide (x.strm = m.strm) && decide (x.home = m.home)
  let earlier := mine.takeWhile fun x => decide (x.ticket ≠ m.ticket)
  if dOrder m.desc = 1 then !(earlier.any fun x => decide (x.ticket + 1 = m.ticket))
  else if dOrder m.desc = 2 then earlier.isEmpty
  else true

/-- Keep in publication only the tiles whose output block passes f (R315, R479). -/
def MI.publishOnly (m : MI) (f : Nat × Nat × Nat → Bool) : MI :=
  let n := m.total / m.team
  let keep := (List.range n).filter fun u => f (m.tileAt (u * m.team)).1
  { m with pub := some (keep.map m.tileNo), total := keep.length * m.team }

/-- Whether all of a row tile's 256-row blocks of PRES_IN are clear (R315). -/
def State.absentTile (s : State) (m : MI) (b : Nat × Nat × Nat) : Bool :=
  let r0 := b.2.1 * m.tm
  let r1 := r0 + m.rowsOf b.2.1
  let r := recD m.recs rolePresIn
  decide (r0 < r1) && (List.range (ceilDiv r1 256 - r0 / 256)).all fun i => !s.presBit r b.1 (r0 / 256 + i)

/-! ### Release (R142, R149, R247, R287) -/

/-- Change the generation slot of a tag in a cluster's layer slot, the pending load included. -/
def State.modGen (s : State) (cl slot : Nat) (tag : BitVec 16) (f : GenSlot → GenSlot) : State :=
  s.modCluster cl fun c =>
    let l := tget LayerSlot.empty c.delta slot
    let on (g : GenSlot) : GenSlot := if g.st ≠ .empty ∧ g.gen = tag then f g else g
    { c with delta := tput c.delta slot { l with g0 := on l.g0, g1 := on l.g1, pending := l.pending.map on } }

/-- Codebook slot and tag of a VQ macro-instruction (R234). -/
def vqSlot (rs : List Rec) : Nat := rExt (recD rs roleB) 261 3
/-- Generation tag of a VQ macro-instruction. -/
def vqGen (rs : List Rec) : BitVec 16 := BitVec.ofNat 16 (rExt (recD rs roleB) 264 16)

/-- Release the pins and the pool user that an outstanding macro-instruction still holds (R247, R287). -/
def State.releaseMi (s : State) (m : MI) : State :=
  let m := (s.findMi m.home.toNat m.strm m.ticket).getD { m with pins := [], pool := none }
  let s := m.pins.foldl (fun s cl => s.modGen cl (vqSlot m.recs) (vqGen m.recs) fun g => { g with pins := g.pins - 1 }) s
  let s := match m.pool with
    | some p => s.modPool p fun x => { x with users := x.users - 1 }
    | none => s
  s.modMi m.home.toNat m.strm m.ticket fun x => { x with pins := [], pool := none }

/-- A tile belongs to a macro-instruction. -/
def Tile.of (t : Tile) (m : MI) : Bool := decide (t.home = m.home) && decide (t.strm = m.strm) && decide (t.ticket = m.ticket)

/-- Clear the accumulators of merge slot k. -/
def State.clearMerge (s : State) (k : Nat) : State :=
  { s with merge := s.merge.filter fun e => decide (e.1 / 16384 ≠ k) }

/-- Take a macro-instruction off the device: pins, pool user, merge slots, counter and the tiles of this device. -/
def State.removeMi (s : State) (m : MI) : State :=
  let s := s.releaseMi m
  let s := m.mergeSlots.foldl (fun s e => s.clearMerge e.2) s
  { s with
    farBuf := s.farBuf.filter fun l => !l.use.isOf m.home m.strm m.ticket
    mis := s.mis.filter fun x => !(decide (x.home = m.home) && decide (x.strm = m.strm) && decide (x.ticket = m.ticket))
    cores := s.cores.map fun e => (e.1, { e.2 with tiles := e.2.tiles.filter fun t => !t.of m }) }

/-- Tiles of a macro-instruction that cores of this device hold. -/
def State.tilesOf (s : State) (m : MI) : List (Nat × Tile) :=
  s.cores.flatMap fun e => (e.2.tiles.filter fun t => t.of m).map fun t => (e.1, t)

/-- A fault of a macro-instruction found at core c of this device (R14, R109): it claims no further tile; its stream faults
here if it is one of this device. -/
def State.miFault (s : State) (m : MI) (c : Nat) (code : Code) (name : W64) : State :=
  let s := (s.senseUe code name).releaseMi m
  let s := s.modMi m.home.toNat m.strm m.ticket fun x => { x with faulted := true, stopped := true }
  if m.home.toNat = s.own then s.faultOn m.strm c code name
  else s.faultFar m.home m.strm c code name

/-! ### Claims and grants (R146-R148, R170, R247) -/

/-- A core claims: fewer than 2 unstarted tiles and fewer than 4 in all, not fenced, no known-answer load owed
after a fence (R455), powered. -/
def State.canClaim (s : State) (c : Nat) : Bool :=
  let ts := (s.core c).tiles
  s.up && !s.coreFenced c && !(s.core c).katGate && decide ((ts.filter fun t => !t.started).length < 2) && decide (ts.length < 4)

/-- The next index of a counter that was never granted. -/
def MI.nextIx (m : MI) : Nat :=
  (((List.range (m.taken.length + 1)).map fun i => m.next + i).find? fun k => !m.taken.contains k).getD m.next

/-- A macro-instruction has tiles ready. -/
def MI.ready (m : MI) : Bool :=
  !m.waiting && m.scanned && !m.stopped && !m.faulted && (!m.returned.isEmpty || decide (m.nextIx < m.total)) &&
  (!m.here || decide (m.parts ≤ 1) || !m.mergeSlots.isEmpty)

/-- The members of the aligned team of core c that would serve a macro-instruction (R168, R170). -/
def teamOf (c team : Nat) : List Nat := (List.range team).map fun j => c / team * team + j

/-- A macro-instruction has a tile for core c: c is a leaf, and with teams every member of its team claims. -/
def State.offers (s : State) (m : MI) (c : Nat) : Bool :=
  m.ready && (teamOf c m.team).all fun k => m.leaves.contains (s.own, k) && s.canClaim k

/-- First offers (R146): from publication on, each leaf core of this device in rank order is offered one tile before any takes
a second; a leaf that cannot claim is passed over. A core whose turn has not come, or has passed while others wait for theirs,
is not served. -/
def State.offerOk (s : State) (m : MI) (c : Nat) : Bool :=
  let k := m.leaves.findIdx fun l => decide (l = (s.own, c))
  let due (l : Nat × Nat) : Bool := decide (l.1 = s.own) && s.offers m l.2
  let waits := (m.leaves.drop m.offered).filter due
  waits.isEmpty || (decide (m.offered ≤ k) && decide (waits.head? = some (s.own, c))) ||
    (decide (1 < m.team) && decide (m.offered ≤ k) && waits.head?.any fun l => decide (l.2 / m.team = c / m.team))

/-- A claim for a second staged tile waits while a core without a tile could claim (R146). -/
def State.yields (s : State) (m : MI) (c : Nat) : Bool :=
  ((s.core c).tiles.any fun t => !t.started) &&
  m.leaves.any fun l => decide (l.1 = s.own) && decide (l.2 ≠ c) && (s.core l.2).tiles.isEmpty && s.offers m l.2

/-- A macro-instruction after a grant to core c: the first offers have come as far as its team. -/
def State.wasOffered (s : State) (m : MI) (c : Nat) : MI :=
  let ks := (teamOf c m.team).map fun k => m.leaves.findIdx fun l => decide (l = (s.own, k))
  { m with offered := if (m.leaves.drop m.offered).any fun l => decide (l.1 = s.own) && s.offers m l.2
      then max m.offered (ks.foldl max 0 + 1) else m.leaves.length }

/-- The oldest of each stream among some macro-instructions. -/
def oldestEach : List (BitVec 16 × StreamId) → List MI → List MI
  | _, [] => []
  | seen, m :: t =>
    if seen.contains (m.home, m.strm) then oldestEach seen t else m :: oldestEach ((m.home, m.strm) :: seen) t

/-- Key of a stream in a grant round. -/
def roundKey (m : MI) : Nat := m.home.toNat * 64 + m.strm.toNat

/-- Grants a stream receives in a round (R147). -/
def MI.weight (m : MI) : Nat := 2 ^ m.prio.toNat

/-- The candidate with the most grants left, ties to the lowest stream number. -/
def bestOf (r : Table Nat) : List MI → Option MI
  | [] => none
  | m :: t =>
    match bestOf r t with
    | none => some m
    | some b =>
      let x := tget 0 r (roundKey m)
      let y := tget 0 r (roundKey b)
      if y < x ∨ (y = x ∧ m.strm.toNat < b.strm.toNat) then some m else some b

/-- A Last's choice among candidates under its round r, with the round after the grant (R31, R147). A round ends once no
candidate of the claiming core has grants left; a stream that becomes ready in mid-round waits for the next one (log 36,
DESIGN CHOICE). -/
def chooseMi (r : Table Nat) (ready cands : List MI) : Option (MI × Table Nat) :=
  let r := r.filter fun e => ready.any fun m => decide (roundKey m = e.1)
  let r := if cands.any fun m => decide (0 < tget 0 r (roundKey m)) then r
    else ready.foldl (fun t m => tput t (roundKey m) m.weight) []
  (bestOf r cands).map fun m => (m, tput r (roundKey m) (tget 0 r (roundKey m) - 1))

/-- Take the next index of a counter: returned tiles first, lowest first (R148), else the next one. -/
def MI.takeIndex (m : MI) : Nat × Bool × MI :=
  match m.returned.min? with
  | some t => (t, true, { m with returned := m.returned.filter fun x => decide (x ≠ t), claimed := m.claimed + 1 })
  | none => (m.nextIx, false, { m with next := m.nextIx + 1, claimed := m.claimed + 1 })

/-- A new staged tile. -/
def Tile.new (m : MI) (t : Nat) : Tile :=
  { home := m.home, strm := m.strm, ticket := m.ticket, idx := t, started := false, loads := 0, decoded := [], katOwed := false,
    outs := [] }

/-- What pinning the codebook of a VQ macro-instruction in a cluster gives (R247). -/
def State.pinErr (s : State) (cl : Nat) (m : MI) : Refused :=
  let l := tget LayerSlot.empty (s.cluster cl).delta (vqSlot m.recs)
  let gs := [l.g0, l.g1] ++ l.pending.toList
  match gs.find? fun g => decide (g.st ≠ .empty) && decide (g.gen = vqGen m.recs) with
  | none => some (eStaleGen, nameW 6 (s.own * 2 ^ 16 + cl))
  | some g =>
    if g.st = .retiring then some (eStaleGen, nameW 6 (s.own * 2 ^ 16 + cl))
    else if g.fmt.toNat ≠ effFmtB m.desc m.recs then some (eFormat, nRole roleB)
    else none

/-- The stream that events of a macro-instruction are attributed to (R472). -/
def State.miStrm (s : State) (m : MI) : Option StreamId := if m.home.toNat = s.own then some m.strm else none

/-- Grant the next tile (or team tile) of a macro-instruction to core c and its team. -/
def State.grant (s : State) (c : Nat) (m : MI) : State :=
  let s := s.modMi m.home.toNat m.strm m.ticket fun _ => s.wasOffered m c
  let m := s.wasOffered m c
  let cl := c / 16
  let needPin := isVq m.desc && !m.pins.contains cl
  match if needPin then s.pinErr cl m else none with
  | some (e, w) => s.miFault m c e w
  | none =>
    let s := if needPin then
        (s.modGen cl (vqSlot m.recs) (vqGen m.recs) fun g => { g with pins := g.pins + 1 }).modMi m.home.toNat m.strm m.ticket
          fun x => { x with pins := cl :: x.pins }
      else s
    (teamOf c m.team).foldl (fun s k =>
      match s.findMi m.home.toNat m.strm m.ticket with
      | none => s
      | some m =>
        let (t, again, m2) := m.takeIndex
        let s := s.modMi m.home.toNat m.strm m.ticket fun _ => m2
        let s := s.modCore k fun x => { x with tiles := x.tiles ++ [Tile.new m t] }
        let s := s.count evTilesClaimed (.core k) (s.miStrm m) 1
        if again then s.count evTilesReissued (.cluster cl) (s.miStrm m) 1 else s) s

/-- A claim of core c (R146, R147): its cluster's Last is asked first, then the device-level Last (log 36, DESIGN CHOICE). -/
def State.claim (s : State) (c : Nat) : State :=
  let cands := (oldestEach [] (s.mis.filter fun m => s.offers m c)).filter fun m => s.offerOk m c && !s.yields m c
  let atCl (m : MI) : Bool := !m.atDevice && m.here && decide (m.cluster = c / 16)
  let near := cands.filter atCl
  if !near.isEmpty then
    match chooseMi (s.cluster (c / 16)).round (s.mis.filter fun m => atCl m && m.ready) near with
    | some (m, r) => (s.modCluster (c / 16) fun x => { x with round := r }).grant c m
    | none => s
  else
    match chooseMi s.devRound (s.mis.filter fun m => !atCl m && m.ready) cands with
    | some (m, r) => { s with devRound := r }.grant c m
    | none => s

end Sys2Proof.Machine
end

