-- ==== Sys2Proof/Machine/Elem.lean ====
section
/-! DEFINITION. Elements of operands: packing, A and B of every opcode, VQ blocks, pool pages (R48-R50, R138, R156, R157,
R206-R210, R236-R242, R288-R296). -/

namespace Sys2Proof.Machine

/-! ### Packed elements (R48, R49) -/

/-- Bytes that element j of a row at address a touches: first address and count. -/
def elemSpan (fmt a j : Nat) : Nat × Nat :=
  let w := fmtBits fmt
  if w = 6 then (a + j / 4 * 3, 3) else if w = 4 then (a + j / 2, 1) else (a + j * (w / 8), w / 8)

/-- Code of element j in the number its bytes spell. -/
def elemOf (fmt j v : Nat) : Nat :=
  let w := fmtBits fmt
  if w = 6 then v / 2 ^ (6 * (j % 4)) % 64 else if w = 4 then v / 2 ^ (4 * (j % 2)) % 16 else v

/-- Code of element j of the row at a global address. -/
def State.elem (s : State) (fmt a j : Nat) : Nat := let (b, n) := elemSpan fmt a j; elemOf fmt j (s.gnum b n)

/-- Pack element codes of one row (R49). -/
def packRow (fmt : Nat) (cs : List Nat) : List Byte :=
  let w := fmtBits fmt
  leBytes (ceilDiv (cs.length * w) 8) ((cs.zipIdx.map fun e => e.1 * 2 ^ (w * e.2)).sum)

/-- An operand element: row address, position, format, address of its scale byte if it has one. -/
structure Src where
  row : Nat
  pos : Nat
  fmt : Nat
  scale : Option Nat
  deriving DecidableEq, Repr

/-- The value of an operand element (R47, R48). -/
def State.srcVal (s : State) (x : Src) : Num :=
  let v := decodeElem x.fmt (s.elem x.fmt x.row x.pos)
  match x.scale with
  | some a => v.scale (s.gbyte a).toNat
  | none => v

/-- The bytes of an operand element and of its scale. -/
def Src.spans (x : Src) : List (Nat × Nat) :=
  elemSpan x.fmt x.row x.pos :: (match x.scale with | some b => [(b, 1)] | none => [])

/-- Address of row i of batch bi of a record. -/
def rowAddr (r : Rec) (bi i : Nat) : Nat := rAddr r + bi * rBatch r + i * rRow r

/-! ### A (R138, R156, R157, R206-R210) -/

/-- Input position of output o and tap j of one dimension; none for padding or, in m.convt, a tap that meets no input. -/
def Dim.input (x : Dim) (transposed : Bool) (o j : Nat) : Option Nat :=
  let p : Int := if transposed then (o : Int) + x.lo - x.d * j else (o : Int) * x.s - x.lo + x.d * j
  if transposed then
    (if p % x.s = 0 ∧ 0 ≤ p / x.s ∧ p / x.s < x.inn then some (p / x.s).toNat else none)
  else if 0 ≤ p ∧ p < x.inn then some p.toNat else none

/-- Output position i of the convolution family as (t, y, x). -/
def convPos (d : Desc) (cv : Rec) (i : Nat) : Nat × Nat × Nat :=
  let (_, h, w) := convOut d cv
  (i / w / h, i / w % h, i % w)

/-- Input address of a position's channel vector (R206). -/
def imageAddr (r : Rec) (bi t y x : Nat) : Nat := rAddr r + bi * rBatch r + t * rT r + y * rH r + x * rRow r

/-- Taps (kt, kh, kw) and channel of reduction index kk (R206). -/
def tapOf (cv : Rec) (kk : Nat) : (Nat × Nat × Nat) × Nat :=
  let cg := cvCg cv
  let q := kk / cg
  let kw := rExt cv 296 8
  let kh := rExt cv 304 8
  ((q / kw / kh, q / kw % kh, q % kw), kk % cg)

/-- Element (i, kk) of A: a source, or none for a zero piece. -/
def State.aSrc (s : State) (m : MI) (bi i kk : Nat) : Option Src :=
  let d := m.desc
  let r := recD m.recs roleA
  let f := dFmtA d
  if dK d ≤ kk then none
  else if isConvFam d then
    let cv := recD m.recs roleConv
    let tr := decide (dOp d = opConvt)
    let (ot, oy, ox) := convPos d cv i
    let ((kt, kh, kw), c) := tapOf cv kk
    match (dimT cv).input tr ot kt, (dimH cv).input tr oy kh, (dimW cv).input tr ox kw with
    | some t, some y, some x => some ⟨imageAddr r bi t y x, c, f, none⟩
    | _, _, _ => none
  else
    let sc := if isMx f then some (rowAddr (recD m.recs roleScaleA) bi i + kk / 32) else none
    if dPrologue d = 1 then some ⟨rowAddr r bi kk, i, f, sc⟩
    else if dPrologue d = 3 then some ⟨rowAddr r bi (s.indexVal m.recs bi i).toNat, kk, f, sc⟩
    else some ⟨rowAddr r bi i, kk, f, sc⟩

/-! ### VQ blocks (R236-R242) -/

/-- Address and directory length of block idx of batch bi. -/
def State.vqBlock (s : State) (m : MI) (bi idx : Nat) : Nat × Nat :=
  let r := recD m.recs roleB
  let e := s.gnum (vqEntryAddr m.recs bi idx) 8
  (rAddr r + bi * rBatch r + 64 * (e % 2 ^ 32), e / 2 ^ 32 % 2 ^ 16)

/-- Block index of the load that covers reduction index kk and column j (R236). -/
def MI.vqIndex (m : MI) (kk j : Nat) : Nat :=
  let g := loadG m.desc m.recs
  j / 64 * ceilDiv (dK m.desc) g + kk / g

/-- The header check of R242. -/
def State.vqHeaderErr (s : State) (m : MI) (bi idx : Nat) : Refused :=
  let (a, len) := s.vqBlock m bi idx
  let h : BitVec 512 := BitVec.ofNat 512 (s.gnum a 64)
  let kind := bits h 0 8
  let name := nameW 4 idx
  let ext := bits (recD m.recs roleB) 261 19
  firstOf
    [refuseIf (!(decide (kind = 1) || decide (kind = 2)) || decide (bits h 8 5 ≠ effFmtB m.desc m.recs) ||
       decide (bits h 64 32 ≠ idx) || decide (bits h 32 16 ≠ len) || decide (bits h 48 16 ≠ 0) ||
       decide (bits h 96 416 ≠ 0)) eVqHeader name,
     refuseIf (decide (kind = 1) && decide (bits h 13 19 ≠ ext)) eStaleGen name,
     refuseIf (decide (kind = 2) && decide (bits h 13 19 ≠ 0)) eVqHeader name]

/-- The generation that a cluster's delta holds for a VQ macro-instruction, if its codebook is there (R244, R247). -/
def State.vqBook (s : State) (cl : Nat) (m : MI) : Option GenSlot :=
  let l := tget LayerSlot.empty (s.cluster cl).delta (vqSlot m.recs)
  [l.g0, l.g1].find? fun g => (decide (g.st = .resident) || decide (g.st = .retiring)) && decide (g.gen = vqGen m.recs)

/-- log2 of 64-byte units: sub-stream length of a block (R240). -/
def vqSubLen (fmt pairs : Nat) (coded : Option GenSlot) : Nat :=
  match coded with
  | some g => ceilDiv (pairs * 64 * g.bits / g.dim) 8
  | none => pairs * 64 * fmtBits fmt / 8

/-- Element (kk, j) of a VQ B as a core of cluster cl expands it: value and code (R240, R241). -/
def State.vqElem (s : State) (cl : Nat) (m : MI) (bi kk j : Nat) : Num :=
  let g := loadG m.desc m.recs
  let pairs := g / 32
  let fmt := effFmtB m.desc m.recs
  let (a, _) := s.vqBlock m bi (m.vqIndex kk j)
  let coded := decide ((s.gbyte a).toNat = 1)
  let book := s.vqBook cl m
  let h := 64 + (if isMx fmt then pairs * 64 else 0)
  let row := kk % g
  let sub := row / pairs
  let col := j % 64
  let sl := vqSubLen fmt pairs (if coded then book else none)
  let start := a + h + sub * sl
  let pos := row % pairs * 64 + col
  let code :=
    if coded then
      match book with
      | some b =>
        let i := pos / b.dim
        let bitsAt := s.gnum (start + b.bits * i / 8) 3
        b.elems.getD ((bitsAt / 2 ^ (b.bits * i % 8) % 2 ^ b.bits) * b.dim + pos % b.dim) 0
      | none => 0
    else s.elem fmt start pos
  let v := decodeElem fmt code
  if isMx fmt then v.scale (s.gbyte (a + 64 + 64 * (row / 32) + col)).toNat else v

/-! ### Pools (R288-R292) -/

/-- A page table entry of walker mode (R290). -/
structure Page where
  kind : Nat
  size : Nat
  dev : Nat
  page : Nat
  deriving DecidableEq, Repr

/-- Positions of a page. -/
def Page.len (p : Page) : Nat := 16 * 2 ^ p.size

/-- The page of an entry, or none for an invalid one (R290, R291). -/
def pageOf (e : Nat) : Option Page :=
  let kind := e % 4
  let size := e / 4 % 8
  if (kind = 1 ∨ kind = 2) ∧ size ≠ 7 ∧ e / 32 % 2 = 0 ∧ e / 2 ^ 63 = 0 ∧ (kind = 1 → size = 4) then
    some ⟨kind, size, e / 64 % 2 ^ 16, e / 2 ^ 22 % 2 ^ 41 * 128⟩
  else none

/-- The entries that block j of a tile is read with: those its lookups found (R297, R300). -/
def Tile.entsOf (t : Tile) (j : Nat) : List LabEntry :=
  match t.walks.find? fun w => decide (w.block = j) with
  | some w => w.ents
  | none => []

/-- The page of a position among some entries, and its first position. -/
def pageAt (ents : List LabEntry) (pos : Nat) : Option (Page × Nat) :=
  ents.findSome? fun e =>
    match pageOf e.val.toNat with
    | some g => if e.start ≤ pos ∧ pos < e.start + g.len then some (g, e.start) else none
    | none => none

/-- The granule of a pool-virtual address among some entries. -/
def granuleAt (ents : List LabEntry) (va : Nat) : Option Nat :=
  (ents.find? fun e => decide (e.idx = va / 2 ^ 16)).map fun e => e.val.toNat

/-- Pool-virtual address of a key (value) row of a position in translated mode (R292). -/
def kvVa (p : Pool) (sr : BitVec 256) (h pos : Nat) (val : Bool) : Nat :=
  let cap := bits sr 0 32
  let v := bits sr 64 37
  if val then v + pHeads p * cap * pKeyRow p + (h * cap + pos) * pValRow p else v + (h * cap + pos) * pKeyRow p

/-- Address in a walker page of a key (value) row (R289). -/
def kvPageAddr (p : Pool) (g : Page) (h r : Nat) (val : Bool) : Nat :=
  let t := g.len
  g.dev * 2 ^ 48 + g.page +
    (if val then pHeads p * t * pKeyRow p + (h * t + r) * pValRow p else (h * t + r) * pKeyRow p)

/-- Global address of byte off of a key (value) row, or the fault of its read: its device is not live, or the address lies in no
memory of it (R261, R291, R292, R366). -/
def State.kvByteAddr (s : State) (ents : List LabEntry) (rs : List Rec) (bi pos off : Nat) (val : Bool) : Except (Code × W64) Nat :=
  let p := s.pool (poolIdx rs)
  let (sq, _, _) := s.seqEntry rs bi
  let h := poolHead rs
  let read (a : Nat) : Except (Code × W64) Nat :=
    if !s.isLive (a / 2 ^ 48) then .error (eFabUnreach, nameW 8 a)
    else if !inMem (a % 2 ^ 48) 1 then .error (eBounds, nameW 8 a)
    else .ok a
  if pMode p then
    let va := kvVa p (s.seqRec p sq) h pos val + off
    match granuleAt ents va with
    | some g => read (g + va % 2 ^ 16)
    | none => .error (eKvUnmapped, nameW 7 (sq * 2 ^ 32 + pos))
  else
    match pageAt ents pos with
    | some (g, start) => read (kvPageAddr p g h (pos - start) val + off)
    | none => .error (eKvPage, nameW 7 (sq * 2 ^ 32))

/-- Element e of a key (value) row of a pool; NaN where its read faults (the fault itself is State.kvErr's). -/
def State.kvElem (s : State) (ents : List LabEntry) (rs : List Rec) (bi pos e : Nat) (val : Bool) : Num :=
  let p := s.pool (poolIdx rs)
  let fmt := if val then pValFmt p else pKeyFmt p
  let w := fmtBits fmt / 8
  match s.kvByteAddr ents rs bi pos (e * w) val with
  | .ok a => decodeElem fmt (s.gnum a w)
  | .error _ => .nan

/-- Offsets that meet every granule and both ends of a row of n bytes. -/
def rowMarks (n : Nat) : List Nat :=
  ((List.range (n / 65536 + 1)).map (fun k => 65536 * k) ++ [n - 1]).filter fun o => decide (o < n)

/-- First fault of the reads of some positions' keys and values (R291, R292, R366). -/
def State.kvErr (s : State) (ents : List LabEntry) (rs : List Rec) (bi : Nat) (poss : List Nat) : Refused :=
  let p := s.pool (poolIdx rs)
  let err (pos : Nat) (val : Bool) (o : Nat) : Refused :=
    match s.kvByteAddr ents rs bi pos o val with
    | .ok _ => none
    | .error e => some e
  firstOf (poss.map fun pos =>
    firstOf ((rowMarks (pKeyRow p)).map (err pos false) ++ (rowMarks (pValRow p)).map (err pos true)))

/-! ### B and C (R138, R156, R166) -/

/-- Element (kk, j) of B that is neither a VQ operand nor a pool: a source, or none beyond k. -/
def bSrc (m : MI) (bi kk j : Nat) : Option Src :=
  let d := m.desc
  let r := recD m.recs roleB
  let f := dFmtB d
  if dK d ≤ kk then none
  else
    let sc := if isMx f then some (rowAddr (recD m.recs roleScaleB) bi j + kk / 32) else none
    if dPrologue d = 2 then some ⟨rowAddr r bi j, kk, f, sc⟩ else some ⟨rowAddr r bi kk, j, f, sc⟩

/-- Element (kk, j) of B as a core of cluster cl meets it; `ents` are the entries a pool is read with. -/
def State.bVal (s : State) (cl : Nat) (ents : List LabEntry) (m : MI) (bi kk j : Nat) : Num :=
  if dK m.desc ≤ kk then .zero
  else if hasRole m.recs rolePool then s.kvElem ents m.recs bi j kk false
  else if isVq m.desc then s.vqElem cl m bi kk j
  else match bSrc m bi kk j with
    | some x => s.srcVal x
    | none => .zero

/-- Element (i, kk) of A. -/
def State.aVal (s : State) (m : MI) (bi i kk : Nat) : Num :=
  match s.aSrc m bi i kk with
  | some x => s.srcVal x
  | none => .zero

/-- Element (row, col) of C, or of a pool's values. An MX C has no scale role: its scales are free (log 30, DESIGN CHOICE). -/
def State.cVal (s : State) (ents : List LabEntry) (m : MI) (bi row col : Nat) : Num :=
  if hasRole m.recs rolePool then s.kvElem ents m.recs bi row col true
  else
    let r := recD m.recs roleC
    let v := decodeElem (rFmt r) (s.elem (rFmt r) (rowAddr r bi row) col)
    if isMx (rFmt r) then v.scale (Config.scaleC (bi * dN m.desc + row) (col / 32)).toNat else v

/-- Format of C, or of a pool's values. -/
def State.fmtC (s : State) (m : MI) : Nat :=
  if hasRole m.recs rolePool then pValFmt (s.pool (poolIdx m.recs)) else rFmt (recD m.recs roleC)

/-- BIAS of column j; +0 where absent (R159, R163). -/
def State.biasVal (s : State) (m : MI) (j : Nat) : Num :=
  match recOf m.recs roleBias with
  | some r => decodeElem (rFmt r) (s.elem (rFmt r) (rAddr r) j)
  | none => .zero

/-- GATE of row i, column j. -/
def State.gateVal (s : State) (m : MI) (bi i j : Nat) : Num :=
  match recOf m.recs roleGate with
  | some r => decodeElem (rFmt r) (s.elem (rFmt r) (rowAddr r bi i) j)
  | none => .zero

/-- α of the OUT record (R164). -/
def MI.alpha (m : MI) : Num := fp32F.decode (rExt (recD m.recs roleOut) 256 32)
/-- ε of the OUT record. -/
def MI.eps (m : MI) : Num := (fp32F.decode (rExt (recD m.recs roleOut) 288 32)).abs
/-- mask_off of the OUT record. -/
def MI.maskOff (m : MI) : Int := signed 32 (rExt (recD m.recs roleOut) 288 32)
/-- fmt_p of the OUT record. -/
def MI.fmtP (m : MI) : Nat := rExt (recD m.recs roleOut) 320 5

end Sys2Proof.Machine
end

