-- ==== Sys2Proof/Machine/Real.lean ====
section
/-! DEFINITION. The real functions of R160 and R194, computed in fixed point with 512 fraction bits: a value given here
lies within 2^-480 of the function value (log 20, DEDUCED). -/

namespace Sys2Proof.Machine

/-- 2^512, the unit of the fixed-point numbers of this file. -/
def fxOne : Int := 2 ^ 512
/-- ln 2 * 2^512, rounded down. -/
def fxLn2 : Int := 0xb17217f7d1cf79abc9e3b39803f2f6af40f343267298b62d8a0d175b8baafa2be7b876206debac98559552fb4afa1b10ed2eae35c138214427573b291169b825
/-- π * 2^512, rounded down. -/
def fxPi : Int := 0x3243f6a8885a308d313198a2e03707344a4093822299f31d0082efa98ec4e6c89452821e638d01377be5466cf34e90c6cc0ac29b7c97c50dd3f84d5b5b5470917
/-- 2 / √π * 2^512, rounded down. -/
def fxTwoSqrtPi : Int := 0x120dd750429b6d11ae3a914fed7fd8688281341d7587cea2e7342b06199cc416180eb39f0b24e1e2281806c12d98f35d77a3e9ddc91c394f0e9eedf0efffd84a2
/-- 1 / √2 * 2^512, rounded down. -/
def fxInvSqrt2 : Int := 0xb504f333f9de6484597d89b3754abe9f1d6f60ba893ba84ced17ac85833399154afc83043ab8a2c3a8b1fe6fdc83db390f74a85e439c7b4a780487363dfa2768

/-- Product of fixed-point numbers. -/
def fxMul (a b : Int) : Int := a * b / fxOne
/-- Quotient of fixed-point numbers. -/
def fxDiv (a b : Int) : Int := a * fxOne / b
/-- Fixed-point value of a finite number. -/
def fxOf : Num → Int
  | .num n p q e => let (a, d) := inUnits p q e (-512); sgn n (a / d)
  | _ => 0
/-- Number of a fixed-point value. -/
def ofFx (x : Int) : Num := .num (decide (x < 0)) x.natAbs 1 (-512)

/-- e^y for 0 ≤ y < 1. -/
def fxExpSmall (y : Int) : Int :=
  (forN 110 (fun i (a : Int × Int) => let t := fxMul a.1 y / ((i : Int) + 1); (t, a.2 + t)) (fxOne, fxOne)).2

/-- 2^x as a fixed-point significand and an exponent. -/
def fxExp2 (x : Int) : Int × Int := (fxExpSmall (fxMul (x % fxOne) fxLn2), x / fxOne)

/-- 2^x as a number, for a number x of any size; beyond ±100,000 the exponent stops there. -/
def numExp2 (v : Num) : Num :=
  let x := max (-100000 * fxOne) (min (100000 * fxOne) (fxOf v))
  let (m, k) := fxExp2 x
  .num false m.natAbs 1 (k - 512)

/-- e^x in fixed point, for x ≤ 0. -/
def fxExpNeg (x : Int) : Int :=
  let (m, k) := fxExp2 (fxDiv (max x (-1000 * fxOne)) fxLn2)
  m / (2 ^ (-k).toNat : Nat)

/-- atanh t for |t| ≤ 1/3. -/
def fxAtanh (t : Int) : Int :=
  let u := fxMul t t
  (forN 170 (fun i (a : Int × Int) => (fxMul a.1 u, a.2 + a.1 / (2 * (i : Int) + 1))) (t, 0)).2

/-- log2 of p / q * 2^e > 0 in fixed point. -/
def fxLog2 (p q : Nat) (e : Int) : Int :=
  let k := ilog p q
  let (a, d) := inUnits p q (-k) (-512)
  let m : Int := (a / d : Nat)
  (k + e) * fxOne + fxDiv (2 * fxAtanh (fxDiv (m - fxOne) (m + fxOne))) fxLn2

/-- sin y for 0 ≤ y ≤ π/2. -/
def fxSin (y : Int) : Int :=
  let u := fxMul y y
  (forN 60 (fun i (a : Int × Int) =>
    (-(fxMul a.1 u) / ((2 * (i : Int) + 2) * (2 * (i : Int) + 3)), a.2 + a.1)) (y, 0)).2

/-- sin(π x) for x ≥ 0 in fixed point, by quadrants. -/
def fxSinPi (x : Int) : Int :=
  let r := x % (2 * fxOne)
  let s := if r < fxOne then r else r - fxOne
  let h := if 2 * s ≤ fxOne then s else fxOne - s
  let v := fxSin (fxMul h fxPi)
  if r < fxOne then v else -v

/-- erf x for 0 ≤ x ≤ 16 by the series of positive terms. -/
def fxErfSmall (x : Int) : Int :=
  let u := 2 * fxMul x x
  let s := (forN 1500 (fun i (a : Int × Int) => (fxMul a.1 u / (2 * (i : Int) + 3), a.2 + a.1)) (fxOne, 0)).2
  fxMul (fxMul (fxMul fxTwoSqrtPi x) (fxExpNeg (-(fxMul x x)))) s

/-- The largest value below 1 these functions give where the exact value is closer to 1 than fixed point tells. -/
def fxAlmostOne : Int := fxOne - 2 ^ 100

/-- erf x for x ≥ 0. -/
def fxErf (x : Int) : Int := if 16 * fxOne < x then fxAlmostOne else min fxAlmostOne (fxErfSmall x)

/-- Φ(-x) for x ≥ 0, positive. -/
def fxPhiNeg (x : Int) : Int :=
  max (2 ^ 20) (if 20 * fxOne < x then 2 ^ 20 else (fxOne - fxErf (fxMul x fxInvSqrt2)) / 2)

/-- tanh x for x ≥ 0. -/
def fxTanh (x : Int) : Int :=
  let ex := fxExpNeg (-2 * x)
  if 200 * fxOne < x then fxAlmostOne else min fxAlmostOne (fxDiv (fxOne - ex) (fxOne + ex))

/-- sigmoid x. -/
def fxSigmoid (x : Int) : Int :=
  let ex := fxExpNeg (-(x.natAbs : Int))
  if 0 ≤ x then min fxAlmostOne (fxDiv fxOne (fxOne + ex)) else max (2 ^ 20) (fxDiv ex (fxOne + ex))

/-- Integer square root by bits from bit n - 1 down. -/
def isqrt (n : Nat) (bits : Nat) : Nat :=
  forN bits (fun i r => let t := r + 2 ^ (bits - 1 - i); if t * t ≤ n then t else r) 0

/-- 1 / √v for a positive number, exact or with a sticky half unit 300 bits below its top. -/
def numRsqrt (p q : Nat) (e : Int) : Num :=
  let x := ilog p q + e
  let k : Int := 300 + x / 2
  let (a, d) := inUnits q p (-e) (-2 * k)
  let r := isqrt (a / d) 320
  if r * r * d = a then .num false r 1 (-k) else .num false (2 * r + 1) 1 (-k - 1)

/-- Functions of v.sfu (R194). -/
inductive SFn where
  | exp2 | log2 | rcp | rsqrt | sinpi | cospi | tanh | sigmoid | erf | gelu
  deriving DecidableEq, Repr

/-- sin(π x) of a finite number, exact at multiples of 1/2; a zero keeps the sign given. -/
def numSinPi (neg : Bool) (x : Int) : Num :=
  if x % fxOne = 0 then .num neg 0 1 0
  else
    let v := fxSinPi x
    let w := if 2 * x % fxOne = 0 then (if v < 0 then -fxOne else fxOne) else v
    ofFx (if neg then -w else w)

/-- Function value of a special function: special values as R161 and R194 list them, the others by fixed point. -/
def realFn (fn : SFn) (v : Num) : Num :=
  match fn, v with
  | _, .nan => .nan
  | .exp2, .inf n => if n then .zero else .inf false
  | .exp2, .num n p q e => if p = 0 then .num false 1 1 0 else numExp2 (.num n p q e)
  | .log2, .inf n => if n then .nan else .inf false
  | .log2, .num n p q e => if p = 0 then .inf true else if n then .nan else ofFx (fxLog2 p q e)
  | .rcp, v => Num.div (.num false 1 1 0) v
  | .rsqrt, .inf n => if n then .nan else .zero
  | .rsqrt, .num n p q e => if p = 0 then .inf n else if n then .nan else numRsqrt p q e
  | .sinpi, .inf _ => .nan
  | .sinpi, .num n p q e => numSinPi n (fxOf (.num false p q e))
  | .cospi, .inf _ => .nan
  | .cospi, .num _ p q e => numSinPi false (fxOf (.num false p q e) + fxOne / 2)
  | .tanh, .inf n => .num n 1 1 0
  | .tanh, .num n p q e => if p = 0 then .num n 0 1 0 else ofFx (sgn n (fxTanh (fxOf (.num false p q e))).natAbs)
  | .sigmoid, .inf n => if n then .zero else .num false 1 1 0
  | .sigmoid, .num n p q e => ofFx (fxSigmoid (fxOf (.num n p q e)))
  | .erf, .inf n => .num n 1 1 0
  | .erf, .num n p q e => if p = 0 then .num n 0 1 0 else ofFx (sgn n (fxErf (fxOf (.num false p q e))).natAbs)
  | .gelu, .inf n => if n then .num true 0 1 0 else .inf false
  | .gelu, .num n p q e =>
    if p = 0 then .num n 0 1 0
    else
      let a := fxOf (.num false p q e)
      (Num.num n p q e).mul (ofFx (if n then fxPhiNeg a else fxOne - fxPhiNeg a))

end Sys2Proof.Machine
end

