-- ==== Sys2Proof/Machine/Flags.lean ====
section
/-! DEFINITION. Conditions and predicates of the sequencer, comparisons, minima and maxima of vector lanes, flushing
(R125, R127, R188-R190). -/

namespace Sys2Proof.Machine

/-- Condition of s.cmp and s.cmpi (R125). -/
def condHolds (k : Cond) (a b : W64) : Bool :=
  match k with
  | .eq => decide (a = b)
  | .ne => decide (a ≠ b)
  | .lt => decide (a.toInt < b.toInt)
  | .ge => decide (b.toInt ≤ a.toInt)
  | .ltu => decide (a.toNat < b.toNat)
  | .geu => decide (b.toNat ≤ a.toNat)

/-- Result of s.pop (R125). -/
def popResult (fn : PopFn) (a b : Bool) : Bool :=
  match fn with
  | .and => a && b
  | .or => a || b
  | .xor => a != b
  | .andNot => a && !b
  | .not => !a

/-- Floating-point comparison of v.cmp: eq, ne, lt, le, unordered (R127). -/
def fpCond (fn : Nat) (a b : Num) : Bool :=
  match fn with
  | 0 => a.eqv b
  | 1 => !a.eqv b
  | 2 => a.lt b
  | 3 => a.le b
  | _ => decide (a = .nan) || decide (b = .nan)

/-- Signed integer comparison of v.cmp (R189). -/
def intCond (fn : Nat) (a b : W32) : Bool :=
  match fn with
  | 0 => decide (a = b)
  | 1 => decide (a ≠ b)
  | 2 => decide (a.toInt < b.toInt)
  | 3 => decide (a.toInt ≤ b.toInt)
  | _ => false

/-- a orders below b, with -0 below +0 (R188). -/
def fpBelow (a b : Num) : Bool := a.lt b || (a.isZero && b.isZero && a.neg && !b.neg)

/-- v.min and v.max: the operand that is not NaN, -0 below +0 (R188). -/
def fpMinMax (isMax : Bool) (a b : Num) : Num :=
  if a = .nan then b
  else if b = .nan then a
  else if isMax then (if fpBelow a b then b else a)
  else (if fpBelow b a then b else a)

/-- fp32 code with a subnormal replaced by zero of its sign, and whether it was one (R190). -/
def flush32 (c : Nat) : Nat × Bool :=
  if c / 2 ^ 23 % 256 = 0 ∧ c % 2 ^ 23 ≠ 0 then (c / 2 ^ 31 * 2 ^ 31, true) else (c, false)

/-- Flush in fp32 arithmetic, nothing in the packed formats (R68). -/
def flushFor (fmt c : Nat) : Nat × Bool := if fmt = 1 then flush32 c else (c, false)

/-- An element result: code, whether an input or the result was flushed, whether it turned non-NaN operands into NaN. -/
structure ElemOut where
  code : Nat
  fl : Bool
  nan : Bool
  deriving DecidableEq, Repr

/-- One floating-point operation g on register elements: flush, compute exactly, round once, flush (R188, R190). -/
def fpElem (fmt : Nat) (rnd : Rnd) (xs : List Nat) (g : List Num → Num) : ElemOut :=
  let ins := xs.map (flushFor fmt)
  let vs := ins.map fun x => decodeElem fmt x.1
  let r := g vs
  let c := encodeElem fmt rnd false r
  let o := flushFor fmt c
  ⟨o.1, ins.any Prod.snd || o.2, decide (r = .nan) && !vs.any (fun v => decide (v = .nan))⟩

/-- First of a list of operands. -/
def arg0 (vs : List Num) : Num := vs.getD 0 .nan
/-- Second of a list of operands. -/
def arg1 (vs : List Num) : Num := vs.getD 1 .nan
/-- Third of a list of operands. -/
def arg2 (vs : List Num) : Num := vs.getD 2 .nan

/-- floor, ceil or trunc (fn 3, 4, 5 of v.un), the sign of the operand kept. -/
def roundToInt (fn : Nat) (v : Num) : Num :=
  match v with
  | .num n p q e =>
    let (a, d) := inUnits p q e 0
    let up := decide (a % d ≠ 0) && (if fn = 3 then n else if fn = 4 then !n else false)
    .num n (a / d + b2n up) 1 0
  | v => v

/-- A conversion of one element between formats: subnormals kept, one rounding (R68, R188, R489). No conversion leaves
the bits. -/
def convElem (src dst : Nat) (rnd : Rnd) (c : Nat) : ElemOut :=
  if src = dst then ⟨c, false, false⟩
  else
    let v := decodeElem src c
    let r := encodeElem dst rnd false v
    ⟨r, false, decide (v ≠ .nan) && !isIntFmt dst && decide (decodeElem dst r = .nan)⟩

/-- Lower and upper neighbours in a register format of a magnitude, and the 32 bits of its place between them. -/
def neighbours (F : FFmt) (v : Num) : Nat × Nat × Nat × Bool :=
  match v with
  | .num n p q e =>
    if p = 0 then (F.signed n 0, F.signed n 0, 0, true)
    else
      let x := ilog p q + e
      let u := max x F.emin - F.fb
      let (a, d) := inUnits p q e u
      let m := a / d
      (F.pack n m u, if m + 1 = 2 ^ (F.fb + 1) then F.pack n (2 ^ F.fb) (u + 1) else F.pack n (m + 1) u,
        a % d * 2 ^ 32 / d, decide (a % d = 0))
  | _ => (F.nanCode, F.nanCode, 0, true)

/-- A special function of a register element: correctly rounded for fn 0 to 3, else the neighbour on the side of the
interval's free cut, computed on |x| for odd functions (R194, R195, log 12, DESIGN CHOICE). -/
def sfuElem (fmt : Nat) (F : FFmt) (fn : Nat) (f : SFn) (c : Nat) : ElemOut :=
  let i := flushFor fmt c
  let v := decodeElem fmt i.1
  let r := realFn f v
  let code :=
    if fn < 4 ∨ !r.isFin then encodeElem fmt .near false r
    else
      let k := neighbours F r
      if k.2.2.2 || decide (k.2.2.1 < Config.sfuCut fn fmt (k.1 % 2 ^ (F.eb + F.fb) + (if fn = 9 then b2n r.neg * 2 ^ 32 else 0)))
      then k.1 else k.2.1
  let o := flushFor fmt code
  ⟨o.1, i.2 || o.2, decide (r = .nan) && decide (v ≠ .nan)⟩

/-- Function of an fn value of v.sfu (R127). -/
def sfuFn : Nat → SFn
  | 0 => .exp2 | 1 => .log2 | 2 => .rcp | 3 => .rsqrt | 4 => .sinpi | 5 => .cospi | 6 => .tanh | 7 => .sigmoid
  | 8 => .erf | _ => .gelu

end Sys2Proof.Machine
end

