-- ==== Sys2Proof/Machine/Lanes.lean ====
section
/-! DEFINITION. What each vector instruction does to the registers of its context (R127, R128, R186-R199, R224). -/

namespace Sys2Proof.Machine

/-- A vector instruction's effect on its context, with the lanes flushed and the halves that made a NaN (R203). -/
structure VOut where
  ctx : Ctx
  fl : Nat
  nans : Nat

/-- A lane's result. -/
structure LaneOut where
  w : W32
  fl : Bool
  nans : Nat
  deriving DecidableEq, Repr

/-- A lane result without flush or NaN. -/
def plain (w : W32) : LaneOut := ⟨w, false, 0⟩

/-- Active lanes of an instruction. -/
def Ctx.activeLanes (c : Ctx) (v : VOp) : List Nat := (List.range 64).filter fun l => c.active v l

/-- Write vd in every active lane from f, computed on the registers before (R127). -/
def Ctx.mapLanes (c : Ctx) (v : VOp) (f : Nat → LaneOut) : VOut :=
  let rs := (c.activeLanes v).map fun l => (l, f l)
  ⟨rs.foldl (fun c e => c.setLane v.vd e.1 e.2.w) c, (rs.filter fun e => e.2.fl).length,
    (rs.map fun e => e.2.nans).sum⟩

/-- A lane of a floating-point operation g, by halves in the packed formats (R186). -/
def Ctx.fpLane (c : Ctx) (v : VOp) (rs : List Reg) (l : Nat) (g : List Num → Num) : LaneOut :=
  let fmt := v.fmt.toNat
  let one (h : Nat) : ElemOut := fpElem fmt (c.vrnd v l h) (rs.map fun r => getHalf fmt (c.lane r l) h) g
  if packed fmt then
    let a := one 0
    let b := one 1
    ⟨putHalf fmt (putHalf fmt 0 0 a.code) 1 b.code, a.fl || b.fl, b2n a.nan + b2n b.nan⟩
  else
    let a := one 0
    ⟨BitVec.ofNat 32 a.code, a.fl, b2n a.nan⟩

/-- A lane of an operation that has a floating-point form g and an int32 form i (R188, R189). -/
def Ctx.arith (c : Ctx) (v : VOp) (rs : List Reg) (g : List Num → Num) (i : List W32 → W32) (l : Nat) : LaneOut :=
  if v.fmt.toNat = 0x0F then plain (i (rs.map fun r => c.lane r l)) else c.fpLane v rs l g

/-- First lane word of a list. -/
def w0 (ws : List W32) : W32 := ws.getD 0 0
/-- Second lane word of a list. -/
def w1 (ws : List W32) : W32 := ws.getD 1 0
/-- Third lane word of a list. -/
def w2 (ws : List W32) : W32 := ws.getD 2 0

/-- v.add. -/
def Ctx.vAdd (c : Ctx) (v : VOp) : VOut :=
  c.mapLanes v (c.arith v [v.va, v.vb] (fun x => (arg0 x).add (arg1 x)) fun w => w0 w + w1 w)
/-- v.sub. -/
def Ctx.vSub (c : Ctx) (v : VOp) : VOut :=
  c.mapLanes v (c.arith v [v.va, v.vb] (fun x => (arg0 x).add (arg1 x).opp) fun w => w0 w - w1 w)
/-- v.mul. -/
def Ctx.vMul (c : Ctx) (v : VOp) : VOut :=
  c.mapLanes v (c.arith v [v.va, v.vb] (fun x => (arg0 x).mul (arg1 x)) fun w => w0 w * w1 w)
/-- v.fma: one rounding. -/
def Ctx.vFma (c : Ctx) (v : VOp) : VOut :=
  c.mapLanes v (c.arith v [v.va, v.vb, v.vc] (fun x => ((arg0 x).mul (arg1 x)).add (arg2 x)) fun w => w0 w * w1 w + w2 w)
/-- v.min. -/
def Ctx.vMin (c : Ctx) (v : VOp) : VOut :=
  c.mapLanes v (c.arith v [v.va, v.vb] (fun x => fpMinMax false (arg0 x) (arg1 x))
    fun w => if (w1 w).toInt < (w0 w).toInt then w1 w else w0 w)
/-- v.max. -/
def Ctx.vMax (c : Ctx) (v : VOp) : VOut :=
  c.mapLanes v (c.arith v [v.va, v.vb] (fun x => fpMinMax true (arg0 x) (arg1 x))
    fun w => if (w0 w).toInt < (w1 w).toInt then w1 w else w0 w)

/-- v.un neg, abs and mov of one floating-point element: a NaN becomes the canonical one (R188), other bits stay but for the
sign (R190). -/
def unBits (fmt fn c : Nat) : Nat :=
  match ffmt fmt with
  | none => c
  | some f =>
    if f.decode c = .nan then f.nanCode
    else
      let s := 2 ^ (f.eb + f.fb)
      if fn = 0 then (c + s) % (2 * s) else if fn = 1 then c % s else c

/-- v.un: neg, abs and mov on the bits, floor, ceil and trunc by value (R188-R190). -/
def Ctx.vUn (c : Ctx) (v : VOp) : VOut :=
  c.mapLanes v fun l =>
    let w := c.lane v.va l
    let fmt := v.fmt.toNat
    let fn := v.fn.toNat
    if fmt = 0x0F then
      plain (if fn = 0 then -w else if fn = 1 then (if w.toInt < 0 then -w else w) else w)
    else if fn ≤ 2 then
      plain (if packed fmt then putHalf fmt (putHalf fmt 0 0 (unBits fmt fn (getHalf fmt w 0))) 1 (unBits fmt fn (getHalf fmt w 1))
        else BitVec.ofNat 32 (unBits fmt fn w.toNat))
    else c.fpLane v [v.va] l fun x => roundToInt fn (arg0 x)

/-- All ones or zero per element. -/
def cmpWord (fmt : Nat) (f : Nat → Bool) : W32 :=
  if packed fmt then (if f 0 then 0x0000FFFF else 0) ||| (if f 1 then 0xFFFF0000 else 0)
  else if f 0 then 0xFFFFFFFF else 0

/-- v.cmp. -/
def Ctx.vCmp (c : Ctx) (v : VOp) : VOut :=
  c.mapLanes v fun l =>
    let fmt := v.fmt.toNat
    let fn := v.fn.toNat
    let x := c.lane v.va l
    let y := c.lane v.vb l
    if fmt = 0x0F then plain (if intCond fn x y then 0xFFFFFFFF else 0)
    else
      let a (h : Nat) := flushFor fmt (getHalf fmt x h)
      let b (h : Nat) := flushFor fmt (getHalf fmt y h)
      ⟨cmpWord fmt fun h => fpCond fn (decodeElem fmt (a h).1) (decodeElem fmt (b h).1),
        (List.range (halves fmt)).any (fun h => (a h).2 || (b h).2), 0⟩

/-- v.sel: each half of vc selects for its own half (R186). -/
def Ctx.vSel (c : Ctx) (v : VOp) : VOut :=
  c.mapLanes v fun l =>
    let fmt := v.fmt.toNat
    let pick (h : Nat) : Nat :=
      getHalf fmt (if getHalf fmt (c.lane v.vc l) h ≠ 0 then c.lane v.va l else c.lane v.vb l) h
    plain (if packed fmt then putHalf fmt (putHalf fmt 0 0 (pick 0)) 1 (pick 1) else BitVec.ofNat 32 (pick 0))

/-- v.log. -/
def Ctx.vLog (c : Ctx) (v : VOp) : VOut :=
  c.mapLanes v fun l =>
    let a := c.lane v.va l
    let b := c.lane v.vb l
    plain (match v.fn.toNat with
      | 0 => a &&& b
      | 1 => a ||| b
      | 2 => a ^^^ b
      | _ => a &&& ~~~b)

/-- v.sh: amount in vb lane [4:0], or imm11[4:0] if fn[3] is set. -/
def Ctx.vSh (c : Ctx) (v : VOp) : VOut :=
  c.mapLanes v fun l =>
    let a := c.lane v.va l
    let n := if bit v.fn 3 then bits v.imm 0 5 else bits (c.lane v.vb l) 0 5
    plain (match v.fn.toNat % 8 with
      | 0 => a <<< n
      | 1 => a >>> n
      | _ => a.sshiftRight n)

/-- One element of v.cvt: a conversion, and a NaN result is canonical even where the format stays (R188, R489). -/
def cvtElem (src dst : Nat) (rnd : Rnd) (c : Nat) : ElemOut :=
  if src = dst then ⟨unBits dst 2 c, false, false⟩ else convElem src dst rnd c

/-- v.cvt (R489). -/
def Ctx.vCvt (c : Ctx) (v : VOp) : VOut :=
  c.mapLanes v fun l =>
    let src := v.vc.toNat
    let dst := v.fmt.toNat
    let h := bits v.imm 0 1
    let a := c.lane v.va l
    let conv (hs hd : Nat) : ElemOut := cvtElem src dst (c.vrnd v l hd) (getHalf src a hs)
    if packed src && packed dst then
      let x := conv 0 0
      let y := conv 1 1
      ⟨putHalf dst (putHalf dst 0 0 x.code) 1 y.code, false, b2n x.nan + b2n y.nan⟩
    else if packed src then
      let x := conv h 0
      ⟨BitVec.ofNat 32 x.code, false, b2n x.nan⟩
    else if packed dst then
      let x := conv 0 h
      ⟨putHalf dst (c.lane v.vd l) h x.code, false, b2n x.nan⟩
    else
      let x := conv 0 0
      ⟨BitVec.ofNat 32 x.code, false, b2n x.nan⟩

/-- v.sfu. -/
def Ctx.vSfu (c : Ctx) (v : VOp) : VOut :=
  c.mapLanes v fun l =>
    let fmt := v.fmt.toNat
    match ffmt fmt with
    | none => plain (c.lane v.vd l)
    | some F =>
      let one (h : Nat) := sfuElem fmt F v.fn.toNat (sfuFn v.fn.toNat) (getHalf fmt (c.lane v.va l) h)
      if packed fmt then
        let a := one 0
        let b := one 1
        ⟨putHalf fmt (putHalf fmt 0 0 a.code) 1 b.code, a.fl || b.fl, b2n a.nan + b2n b.nan⟩
      else
        let a := one 0
        ⟨BitVec.ofNat 32 a.code, a.fl, b2n a.nan⟩

/-! ### v.red (R128) -/

/-- A node of the reduction tree: its element if an active lane lies beneath it, its first lane, lanes flushed there
(a node's result belongs to its first lane), NaNs made. -/
structure RedNode where
  code : Option Nat
  lane : Nat
  fl : List Nat
  nans : Nat
  deriving DecidableEq, Repr

/-- Combine two nodes of v.red: the left one is the even lane. -/
def redPair (fmt fn : Nat) (rnd : Rnd) (a b : RedNode) : RedNode :=
  match a.code, b.code with
  | none, _ => ⟨b.code, a.lane, a.fl ++ b.fl, a.nans + b.nans⟩
  | _, none => ⟨a.code, a.lane, a.fl ++ b.fl, a.nans + b.nans⟩
  | some x, some y =>
    if fmt = 0x0F then
      let p : W32 := BitVec.ofNat 32 x
      let q : W32 := BitVec.ofNat 32 y
      let r := if fn = 0 then p + q else if fn = 1 then (if p.toInt < q.toInt then q else p)
        else (if q.toInt < p.toInt then q else p)
      ⟨some r.toNat, a.lane, a.fl ++ b.fl, a.nans + b.nans⟩
    else
      let o := fpElem fmt rnd [x, y] fun v =>
        if fn = 0 then (arg0 v).add (arg1 v) else fpMinMax (fn = 1) (arg0 v) (arg1 v)
      ⟨some o.code, a.lane, a.fl ++ b.fl ++ (if o.fl then [a.lane] else []), a.nans + b.nans + b2n o.nan⟩

/-- Combine neighbours: nodes 2i and 2i + 1. -/
def redLevel (fmt fn : Nat) (rnd : Rnd) : List RedNode → List RedNode
  | a :: b :: t => redPair fmt fn rnd a b :: redLevel fmt fn rnd t
  | l => l

/-- Result of v.red with no active lane. -/
def redEmpty (fmt fn : Nat) : Nat :=
  if fmt = 0x0F then (if fn = 0 then 0 else if fn = 1 then 0x80000000 else 0x7FFFFFFF)
  else
    match ffmt fmt with
    | some F => if fn = 0 then 0 else F.signed (decide (fn = 1)) F.infCode
    | none => 0

/-- The tree over element h of the lanes. -/
def Ctx.redHalf (c : Ctx) (v : VOp) (h : Nat) : RedNode :=
  let fmt := v.fmt.toNat
  let fn := v.fn.toNat
  let rnd : Rnd := if v.rnd = 1 then .zero else .near
  let leaf (l : Nat) : RedNode :=
    if c.active v l then
      let x := if fmt = 0x0F then ((c.lane v.va l).toNat, false) else flushFor fmt (getHalf fmt (c.lane v.va l) h)
      ⟨some x.1, l, if x.2 then [l] else [], 0⟩
    else ⟨none, l, [], 0⟩
  let r := forN 6 (fun _ ns => redLevel fmt fn rnd ns) ((List.range 64).map leaf)
  match r with
  | [n] => ⟨some (n.code.getD (redEmpty fmt fn)), 0, n.fl, n.nans⟩
  | _ => ⟨none, 0, [], 0⟩

/-- Distinct lanes of a list. -/
def laneCount (ls : List Nat) : Nat := ((List.range 64).filter fun l => decide (l ∈ ls)).length

/-- v.red: lane 0 takes the result and every other lane 0, active or not; packed halves are two trees (log 22, DEDUCED). -/
def Ctx.vRed (c : Ctx) (v : VOp) : VOut :=
  let fmt := v.fmt.toNat
  let a := c.redHalf v 0
  let b := c.redHalf v 1
  let w : W32 := if packed fmt then putHalf fmt (putHalf fmt 0 0 (a.code.getD 0)) 1 (b.code.getD 0)
    else BitVec.ofNat 32 (a.code.getD 0)
  ⟨c.setLanes v.vd fun l => some (if l = 0 then w else 0),
    laneCount (a.fl ++ (if packed fmt then b.fl else [])), a.nans + (if packed fmt then b.nans else 0)⟩

/-- v.bcast. -/
def Ctx.vBcast (c : Ctx) (v : VOp) : VOut := c.mapLanes v fun _ => plain ((c.s v.va).extractLsb' 0 32)
/-- v.ext: a scalar destination, so no lane mask applies (log 22, DEDUCED). -/
def Ctx.vExt (c : Ctx) (v : VOp) : VOut :=
  ⟨c.setS v.vd ((c.lane v.va (bits v.imm 0 6)).zeroExtend 64), 0, 0⟩
/-- v.iota. -/
def Ctx.vIota (c : Ctx) (v : VOp) : VOut :=
  c.mapLanes v fun l => plain ((c.s v.va).extractLsb' 0 32 + BitVec.ofNat 32 l)
/-- v.perm. -/
def Ctx.vPerm (c : Ctx) (v : VOp) : VOut := c.mapLanes v fun l => plain (c.lane v.va ((c.lane v.vb l).toNat % 64))

/-- v.rng (R224). -/
def Ctx.vRng (c : Ctx) (v : VOp) : VOut :=
  c.mapLanes v fun l =>
    let q := drawWords c.seed c.cstream (bits (c.lane v.vb l) 0 16 * 2 ^ 32 + (c.lane v.va l).toNat) (c.lane v.vc l).toNat 1
    let w := q.word v.fn.toNat
    plain (match v.fn.toNat / 4 with
      | 0 => w
      | 1 => BitVec.ofNat 32 (encodeElem 1 .near false (.num false (2 * (w.toNat / 512) + 1) 1 (-24)))
      | _ => if w.toNat < (c.lane v.vd l).toNat then 0xFFFFFFFF else 0)

/-! ### v.welford (R197-R199) -/

/-- One fp32 operation, nearest-even and flushed: result and whether anything was flushed. -/
def f32 (xs : List Nat) (g : List Num → Num) : ElemOut := fpElem 1 .near xs g
/-- max(+0, z) of R198. -/
def clampPos (c : Nat) : Nat :=
  if decodeElem 1 c = .nan then fp32F.nanCode else if c / 2 ^ 31 % 2 = 1 then 0 else c
/-- A count, an int32, as fp32, nearest-even (R197, R198). -/
def countF (n : Int) : Nat := encodeElem 1 .near false (Num.ofInt n)
/-- Saturation of counts. -/
def satCount (n : Int) : Int := min 0x7FFFFFFF n

/-- A lane state: count, mean, m2, with flushes and NaNs made. -/
structure Wf where
  n : Int
  mean : Nat
  m2 : Nat
  lane : Nat
  fl : List Nat
  nans : Nat
  deriving DecidableEq, Repr

/-- Step of fn 0 with element x and shift k. -/
def wfStep (st : Wf) (x k : Nat) : Wf :=
  let y := f32 [x, k] fun v => (arg0 v).add (arg1 v).opp
  let n := satCount (st.n + 1)
  let d := f32 [y.code, st.mean] fun v => (arg0 v).add (arg1 v).opp
  let q := f32 [d.code, countF n] fun v => (arg0 v).div (arg1 v)
  let mean := f32 [st.mean, q.code] fun v => (arg0 v).add (arg1 v)
  let e := f32 [y.code, mean.code] fun v => (arg0 v).add (arg1 v).opp
  let m2 := f32 [d.code, e.code, st.m2] fun v => ((arg0 v).mul (arg1 v)).add (arg2 v)
  ⟨n, mean.code, clampPos m2.code, st.lane,
    if y.fl || d.fl || q.fl || mean.fl || e.fl || m2.fl then [st.lane] else [],
    st.nans + b2n y.nan + b2n d.nan + b2n q.nan + b2n mean.nan + b2n e.nan + b2n m2.nan⟩

/-- Merge of fn 1. A flushed mean or m2 of state b is a flush of b's lane, the other flushes are a's (R190). -/
def wfMerge (a b : Wf) : Wf :=
  let fl := a.fl ++ b.fl
  let nans := a.nans + b.nans
  if b.n = 0 then { a with fl := fl, nans := nans }
  else if a.n = 0 then { b with lane := a.lane, fl := fl, nans := nans }
  else
    let n := satCount (a.n + b.n)
    let bm := flush32 b.mean
    let bs := flush32 b.m2
    let dl := f32 [bm.1, a.mean] fun v => (arg0 v).add (arg1 v).opp
    let w := f32 [countF b.n, countF n] fun v => (arg0 v).div (arg1 v)
    let mean := f32 [dl.code, w.code, a.mean] fun v => ((arg0 v).mul (arg1 v)).add (arg2 v)
    let p := f32 [dl.code, w.code] fun v => (arg0 v).mul (arg1 v)
    let q := f32 [dl.code, countF a.n] fun v => (arg0 v).mul (arg1 v)
    let t := f32 [a.m2, bs.1] fun v => (arg0 v).add (arg1 v)
    let m2 := f32 [p.code, q.code, t.code] fun v => ((arg0 v).mul (arg1 v)).add (arg2 v)
    ⟨n, mean.code, clampPos m2.code, a.lane,
      fl ++ (if bm.2 || bs.2 then [b.lane] else []) ++ (if dl.fl || w.fl || mean.fl || p.fl || q.fl || t.fl || m2.fl then [a.lane] else []),
      nans + b2n dl.nan + b2n w.nan + b2n mean.nan + b2n p.nan + b2n q.nan + b2n t.nan + b2n m2.nan⟩

/-- Merge neighbours. -/
def wfLevel : List Wf → List Wf
  | a :: b :: t => wfMerge a b :: wfLevel t
  | l => l

/-- The lane state in registers r to r + 2. -/
def Ctx.wfAt (c : Ctx) (r : Reg) (l : Nat) : Wf :=
  ⟨(c.lane r l).toInt, (c.lane (r + 1) l).toNat, (c.lane (r + 2) l).toNat, l, [], 0⟩

/-- v.welford. -/
def Ctx.vWelford (c : Ctx) (v : VOp) : VOut :=
  match v.fn.toNat with
  | 0 =>
    let rs := (c.activeLanes v).map fun l =>
      (l, wfStep (c.wfAt v.vd l) (c.lane v.va l).toNat (c.lane v.vb l).toNat)
    ⟨rs.foldl (fun c e => ((c.setLane v.vd e.1 (BitVec.ofInt 32 e.2.n)).setLane (v.vd + 1) e.1
        (BitVec.ofNat 32 e.2.mean)).setLane (v.vd + 2) e.1 (BitVec.ofNat 32 e.2.m2)) c,
      laneCount (rs.flatMap fun e => e.2.fl), (rs.map fun e => e.2.nans).sum⟩
  | 1 =>
    let leaf (l : Nat) : Wf := if c.active v l then c.wfAt v.va l else ⟨0, 0, 0, l, [], 0⟩
    let r := (forN 6 (fun _ ns => wfLevel ns) ((List.range 64).map leaf)).getD 0 ⟨0, 0, 0, 0, [], 0⟩
    ⟨((c.setLanes v.vd fun l => some (if l = 0 then BitVec.ofInt 32 r.n else 0)).setLanes (v.vd + 1) fun l =>
        some (if l = 0 then BitVec.ofNat 32 r.mean else 0)).setLanes (v.vd + 2) fun l =>
        some (if l = 0 then BitVec.ofNat 32 r.m2 else 0), laneCount r.fl, r.nans⟩
  | _ =>
    let rs := (c.activeLanes v).map fun l =>
      let n := (c.lane v.va l).toInt
      if n = 0 then (l, (⟨0, false, false⟩ : ElemOut), (⟨0, false, false⟩ : ElemOut))
      else (l, f32 [(c.lane v.vb l).toNat, (c.lane (v.va + 1) l).toNat] fun x => (arg0 x).add (arg1 x),
        f32 [(c.lane (v.va + 2) l).toNat, countF n] fun x => (arg0 x).div (arg1 x))
    ⟨rs.foldl (fun c e => (c.setLane v.vd e.1 (BitVec.ofNat 32 e.2.1.code)).setLane (v.vd + 1) e.1
        (BitVec.ofNat 32 e.2.2.code)) c,
      (rs.filter fun e => e.2.1.fl || e.2.2.fl).length, (rs.map fun e => b2n e.2.1.nan + b2n e.2.2.nan).sum⟩

end Sys2Proof.Machine
end

