-- ==== Sys2Proof/Machine/Welt.lean ====
section
/-! DEFINITION. The welt: format W, chains, row statistics, attention, stepwise mode, the rounding of rows, and the row
arithmetic of m.sample (R156-R182, R228-R231). -/

namespace Sys2Proof.Machine

/-! ### Format W and free errors (R160, log 13, DESIGN CHOICE) -/

/-- Nearest-even rounding to the 40-bit significand of W. -/
def wRound (v : Num) : Num :=
  match v with
  | .num n p q e =>
    if p = 0 then .num n 0 1 0
    else
      let u := ilog p q + e - 39
      let (a, d) := inUnits p q e u
      let m := a / d + b2n (stepUp .near (a / d) (a % d) d)
      if m = 2 ^ 40 then .num n (2 ^ 39) 1 (u + 1) else .num n m 1 u
  | v => v

/-- A W value as integers, the key of a free error. -/
def wKey (v : Num) : List Int :=
  match wRound v with
  | .num n p _ e => [sgn n p, if p = 0 then b2n n else e]
  | .inf n => [2 ^ 41, b2n n]
  | .nan => [2 ^ 41, 2]

/-- y with a free error of at most |y| 2^-rel + 2^-ab, a function of the stage and its inputs (log 13, DESIGN CHOICE). -/
def stageErr (tag rel ab : Nat) (ins : List Int) (y : Num) : Num :=
  if y.isFin then
    let u := max (-(2 ^ 64)) (min (2 ^ 64) (Config.weltError tag ins))
    let bound := (y.abs.mul (.num false 1 1 (-(rel : Int)))).add (.num false 1 1 (-(ab : Int)))
    y.add (bound.mul (.num (decide (u < 0)) u.natAbs 1 (-64)))
  else y

/-- What a function stage returns: a W value within the bound of R160 of the exact y. The free error takes half the bound and
the rounding to W less than the other half. -/
def wStage (tag : Nat) (ins : List Int) (y : Num) : Num := wRound (stageErr tag 38 141 ins y)

/-- An exact zero is +0 (R62). -/
def plusZero (v : Num) : Num := if v.isZero then .zero else v

/-! ### Element-wise chains (R161, R162) -/

/-- relu: x for x > 0 and +0 otherwise (R162). -/
def relu (x : Num) : Num :=
  match x with
  | .nan => .nan
  | x => if x.neg || x.isZero then .zero else x

/-- Whether a finite value lies below -600, where GELU and SiLU are closer to 0 than 2^-700. -/
def farNeg (x : Num) : Bool := x.isFin && x.lt (.num true 600 1 0)

/-- GELU. -/
def geluOf (x : Num) : Num := if farNeg x then .num true 1 1 (-700) else realFn .gelu x

/-- SiLU, x sigmoid(x). -/
def siluOf (x : Num) : Num :=
  match x with
  | .nan => .nan
  | .inf n => if n then .num true 0 1 0 else .inf false
  | x => if farNeg x then .num true 1 1 (-700) else x.mul (realFn .sigmoid x)

/-- The function of a chain before its gate. -/
def actOf (chain : Nat) (x : Num) : Num :=
  if chain = 2 ∨ chain = 8 ∨ chain = 23 then relu x
  else if chain = 3 ∨ chain = 9 ∨ chain = 21 then geluOf x
  else if chain = 4 ∨ chain = 10 ∨ chain = 22 then siluOf x
  else if chain = 5 ∨ chain = 12 then realFn .tanh x
  else if chain = 6 ∨ chain = 11 then realFn .sigmoid x
  else if chain = 13 then (relu x).mul (relu x)
  else x

/-- relu chains, whose function is exactly 0 where it is 0. -/
def reluChain (chain : Nat) : Bool :=
  decide (chain = 2) || decide (chain = 8) || decide (chain = 13) || decide (chain = 23)

/-- The value of an element of chains 0 to 13 before its rounding, from x = αP + b (x = P in chain 0) and the gate g
(R159-R162). -/
def weltElem (chain : Nat) (x g : Num) : Num :=
  if chain ≤ 1 then (if x.isFin then plusZero x else x)
  else if chain = 7 then (if x.isFin && g.isFin then plusZero (x.mul g) else x.mul g)
  else
    let f := actOf chain (wRound x)
    let f := if f.isZero && reluChain chain || !x.isFin then f else wStage chain (wKey x) f
    let y := if chainGate chain then f.mul g else f
    if y.isFin then plusZero y else y

/-! ### Row statistics (R171-R173) -/

/-- A finite W value as the state holds it. -/
def toW (v : Num) : WVal :=
  match wRound v with
  | .num n p _ e => (sgn n p, e)
  | _ => (0, 0)
/-- The number of a stored W value. -/
def ofW (w : WVal) : Num := .num (decide (w.1 < 0)) w.1.natAbs 1 w.2

/-- Sum in W. -/
def wAdd (a b : Num) : Num := wRound (a.add b)
/-- Difference in W. -/
def wSub (a b : Num) : Num := wRound (a.add b.opp)
/-- Product in W. -/
def wMul (a b : Num) : Num := wRound (a.mul b)
/-- Quotient in W. -/
def wDiv (a b : Num) : Num := wRound (a.div b)

/-- Largest of some values. -/
def maxNum (x : Num) (t : List Num) : Num := t.foldl (fun a b => if a.lt b then b else a) x

/-- Sum of some values. -/
def sumNum (xs : List Num) : Num := xs.foldl Num.add .zero

/-- e^v for v ≤ 0, or for any v near 0, to 2^-480. -/
def expNum (v : Num) : Num :=
  if v.lt (.num true 1200 1 0) then .zero else ofFx (fxExpNeg (fxOf v))

/-- 1 / √v for v ≥ 0. -/
def rsqrtNum (v : Num) : Num := realFn .rsqrt v.abs

/-- max(+0, z) in W. -/
def wClamp (z : Num) : Num := if z.neg then .zero else z

/-- exp in W of a difference. -/
def wExp (v : Num) : Num := wStage 14 (wKey v) (expNum v)

/-- The shifted Welford update over a block, from the column after the k-th: mean and m2 of x - sh (R171, R198). -/
def wWelford (sh : Num) : Nat → Num × Num → List Num → Num × Num
  | _, st, [] => st
  | k, (mean, m2), x :: t =>
    let y := wSub x sh
    let d := wSub y mean
    let mean := wAdd mean (wDiv d (.num false (k + 1) 1 0))
    wWelford sh (k + 1) (mean, wClamp (wRound ((d.mul (wSub y mean)).add m2))) t

/-- The core welt's statistics of one block of W values (R171). -/
def blockStat (xs : List Num) : RowStat :=
  let sh := xs.headD .zero
  let (mean, m2) := wWelford sh 0 (.zero, .zero) xs
  let mx := maxNum sh xs
  ⟨xs.length, toW (wAdd mean sh), toW m2, toW mx, toW (xs.foldl (fun a x => wAdd a (wExp (wSub x mx))) .zero),
    toW (xs.foldl (fun a x => wAdd a (wMul x x)) .zero)⟩

/-- The cluster welt combines the next block into a row's statistics (R171). -/
def RowStat.combine (a b : RowStat) : RowStat :=
  if a.n = 0 then b
  else
    let n : Num := .num false a.n 1 0
    let cnt : Num := .num false b.n 1 0
    let nn : Num := .num false (a.n + b.n) 1 0
    let d := wSub (ofW b.mean) (ofW a.mean)
    let mx := maxNum (ofW a.mx) [ofW b.mx]
    ⟨a.n + b.n, toW (wAdd (ofW a.mean) (wDiv (wMul d cnt) nn)),
      toW (wClamp (wAdd (wAdd (ofW a.m2) (ofW b.m2)) (wDiv (wMul (wMul (wMul d d) n) cnt) nn))), toW mx,
      toW (wAdd (wMul (ofW a.se) (wExp (wSub (ofW a.mx) mx))) (wMul (ofW b.se) (wExp (wSub (ofW b.mx) mx)))),
      toW (wAdd (ofW a.sq) (ofW b.sq))⟩

/-- Cut a list into pieces of n. -/
def chunksOf {α : Type} (n : Nat) : Nat → List α → List (List α)
  | 0, _ => []
  | k + 1, l => if l.isEmpty then [] else l.take n :: chunksOf n k (l.drop n)

/-- Statistics of a row of finite x: blocks of 64 columns in ascending order, whatever the team (R171). -/
def rowStat (xs : List Num) : RowStat :=
  ((chunksOf 64 (xs.length / 64 + 1) (xs.map wRound)).map blockStat).foldl RowStat.combine ⟨0, (0, 0), (0, 0), (0, 0), (0, 0), (0, 0)⟩

/-- The reciprocal root of chains 16 to 18, in W. -/
def RowStat.rs (st : RowStat) (chain : Nat) (eps : Num) : Num :=
  let v := wAdd (wDiv (ofW (if chain = 17 then st.sq else st.m2)) (.num false st.n 1 0)) eps
  let r := rsqrtNum v
  if r.isFin then wStage 16 (wKey v) r else r

/-- An element of chains 14 to 18 from the statistics the welt holds, the gate apart (R162, R172). -/
def RowStat.elem (st : RowStat) (chain : Nat) (eps x : Num) : Num :=
  let w := wRound x
  let mx := ofW st.mx
  let se := ofW st.se
  if chain = 14 then wDiv (wExp (wSub w mx)) se
  else if chain = 15 then
    wSub (wSub w mx) (wStage 15 (wKey se) (match se with
      | .num _ p q e => if p = 0 then .zero else ofFx (fxMul (fxLog2 p q e) fxLn2)
      | v => v))
  else if chain = 17 then wMul w (st.rs chain eps)
  else wMul (wSub w (ofW st.mean)) (st.rs chain eps)

/-- The mathematical result of an element of chains 14 to 18 over the whole row (R160, R162). -/
def exactRow (chain : Nat) (xs : List Num) (eps x : Num) : Num :=
  let cnt : Num := .num false xs.length 1 0
  let mx := maxNum (xs.headD .zero) xs
  let se := sumNum (xs.map fun x => expNum (x.add mx.opp))
  let mu := (sumNum xs).div cnt
  if chain = 14 then (expNum (x.add mx.opp)).div se
  else if chain = 15 then
    (x.add mx.opp).add (match se with
      | .num _ p q e => if p = 0 then Num.zero else (ofFx (fxMul (fxLog2 p q e) fxLn2)).opp
      | v => v)
  else if chain = 17 then x.mul (rsqrtNum (((sumNum (xs.map fun x => x.mul x)).div cnt).add eps))
  else
    let var := (sumNum (xs.map fun x => (x.add mu.opp).mul (x.add mu.opp))).div cnt
    (x.add mu.opp).mul (rsqrtNum (var.add eps))

/-- What the welt's arithmetic gave, held to the bound of R160 around the mathematical result y (log 13, DEDUCED). -/
def heldTo (y w : Num) : Num :=
  if y.isFin && w.isFin then
    let d := w.add y.opp
    let bound := (y.abs.mul (.num false 1 1 (-33))).add (.num false 1 1 (-136))
    if bound.lt d.abs then y.add (if d.neg then bound.opp else bound) else w
  else y

/-- Outputs before rounding of the elements `ys` of a row `xs` of chains 14 to 18, with their gates, and the row's two
statistics (R161, R171-R173). -/
def rowChain (chain : Nat) (st : RowStat) (odd : Bool) (xs : List Num) (eps : Num) (ys gs : List Num) : List Num × Num × Num :=
  if odd then (ys.map fun _ => Num.nan, Num.nan, Num.nan)
  else
    (((ys.zip gs).map fun e =>
        let y := heldTo (exactRow chain xs eps e.1) (st.elem chain eps e.1)
        let y := if chain = 18 then y.mul e.2 else y
        if y.isFin then plusZero y else y),
      if chain = 14 ∨ chain = 15 then ofW st.mx else if chain = 17 then .zero else ofW st.mean,
      if chain = 14 ∨ chain = 15 then ofW st.se else st.rs chain eps)

/-! ### Attention (R176, R177) -/

/-- Shift an accumulator right by d bits, discarding toward minus infinity (R177). -/
def Acc.shiftDown (x : Acc) (d : Nat) : Acc :=
  let a := BitVec.ofInt 608 (x.a.toInt / (2 ^ d : Nat))
  { x with a := a, res := resOf a }

/-- The smallest integer that is not below a finite value. -/
def ceilNum (v : Num) : Int :=
  match v with
  | .num n p q e => let (a, d) := inUnits p q e 0; if n then -((a / d : Nat) : Int) else (ceilDiv a d : Nat)
  | _ => 0

/-- Round to a format of its own scale, nearest-even, and take the value. -/
def roundTo (fmt : Nat) (rnd : Rnd) (sat : Bool) (v : Num) : Num := decodeElem fmt (encodeElem fmt rnd sat v)

/-- log2 e. -/
def log2e : Num := ofFx (fxDiv fxOne fxLn2)

/-- A row before its first block. -/
def AttnRow.start (r : Nat) : AttnRow := ⟨r, none, 0, false, []⟩

/-- One block of a row of chains 19 and 20: from the exact αs of its columns, none where masked, and the O of the row, the row
and O rebased, with p in fmt_p, and the rebases done (R161, R176, R177). A fully masked block changes nothing. -/
def AttnRow.block (st : AttnRow) (fmtP : Nat) (base : Int) (scores : List (Option Num)) (os : List Acc) :
    AttnRow × List Acc × Nat :=
  let xs := scores.filterMap id
  let t (x : Num) : Num := if x.isZero then x else wStage 20 (wKey x) (x.mul log2e)
  if xs.any fun x => !x.isFin then ({ st with odd := true, p := scores.map fun _ => 0 }, os, 0)
  else
    match xs.map t with
    | [] => ({ st with p := scores.map fun _ => 0 }, os, 0)
    | t0 :: ts =>
      let mj := ceilNum (maxNum t0 ts)
      let mnew := match st.m with | some m => max m mj | none => mj
      let d := match st.m with | some m => (mnew - m).toNat | none => 0
      let ps := scores.map fun x => match x with
        | some x =>
          let z := (t x).add (Num.ofInt mnew).opp
          encodeElem fmtP .near false (wStage 19 (wKey z) (numExp2 z))
        | none => 0
      let li := (ps.map fun c => match decodeElem fmtP c with | .num _ a _ e => a * p2 (e - base) | _ => 0).sum
      (⟨st.row, some mnew, st.l / (2 ^ d : Nat) + (li : Int), st.odd, ps⟩,
        if d = 0 then os else os.map fun x => x.shiftDown d, b2n (decide (0 < d)))

/-- Outputs of a row of chains 19 and 20 before rounding and its STATS word, from its O (R161, R173, R176). -/
def AttnRow.finish (st : AttnRow) (base : Int) (os : List Acc) : List Num × Num :=
  if st.odd then (os.map fun _ => .nan, .nan)
  else
    let l : Num := .num false st.l.natAbs 1 base
    match st.m with
    | none => (os.map fun _ => .zero, .inf true)
    | some m =>
      (os.map fun x => if st.l = 0 then Num.zero else
        let v := (x.value base).div l
        if v.isFin then plusZero v else v,
       match l with
        | .num _ p q e => if p = 0 then Num.inf true else wStage 21 [m, (p : Int), e] ((Num.ofInt m).add (ofFx (fxLog2 p q e)))
        | v => v)

/-! ### Rounding rows -/

/-- Rounding of the element with draw position `el` at rounding point k of a descriptor (R60, R61, R181, R221). -/
def MI.rnd (m : MI) (k el : Nat) : Rnd := rndOf (dRnd m.desc) (roundWord m.seed m.cstream el (dDraw m.desc + k))

/-- Round values into a format: element codes and block scales (R60-R66); element t of the list has draw position el + t. -/
def MI.roundRow (m : MI) (fmt k el : Nat) (ys : List Num) : List Nat × List Nat :=
  let vs := ys.zipIdx.map fun e => (e.1, m.rnd k (el + e.2))
  if isMx fmt then
    match ffmt fmt with
    | some f =>
      let bs := (chunksOf 32 (vs.length / 32 + 1) vs).map fun b => encodeBlock f (dSat m.desc) b
      (bs.flatMap Prod.snd, bs.map Prod.fst)
    | none => ([], [])
  else (vs.map fun e => encodeElem fmt e.2 (dSat m.desc) e.1, [])

/-- The values that codes and block scales store. -/
def rowValues (fmt : Nat) (cs ss : List Nat) : List Num :=
  cs.zipIdx.map fun e =>
    let v := decodeElem fmt e.1
    if isMx fmt then v.scale (ss.getD (e.2 / 32) 0xFF) else v

/-- Values of a row once rounded into a format. -/
def MI.rounded (m : MI) (fmt k el : Nat) (ys : List Num) : List Num :=
  let (cs, ss) := m.roundRow fmt k el ys
  rowValues fmt cs ss

/-! ### Stepwise mode (R180, R181) -/

/-- fp32 code of a value that vector code converts, subnormals kept until an operation flushes them (R68). -/
def to32 (rnd : Rnd) (v : Num) : Nat := encodeElem 1 rnd false v

/-- fp32 value of a code. -/
def of32 (c : Nat) : Num := fp32F.decode c

/-- One fp32 vector operation under a rounding mode. -/
def op32 (rnd : Rnd) (xs : List Nat) (g : List Num → Num) : Nat := (fpElem 1 rnd xs g).code

/-- The function of a chain by fp32 vector code: v.sfu, then a product where the chain has one. -/
def act32 (chain : Nat) (rnd : Rnd) (x : Nat) : Nat :=
  let sf (fn : Nat) : Nat := (sfuElem 1 fp32F fn (sfuFn fn) x).code
  let mul (a b : Nat) : Nat := op32 rnd [a, b] fun v => (arg0 v).mul (arg1 v)
  let rl : Nat := op32 rnd [x] fun v => relu (arg0 v)
  if chain = 2 ∨ chain = 8 ∨ chain = 23 then rl
  else if chain = 3 ∨ chain = 9 ∨ chain = 21 then sf 9
  else if chain = 4 ∨ chain = 10 ∨ chain = 22 then mul x (sf 7)
  else if chain = 5 ∨ chain = 12 then sf 6
  else if chain = 6 ∨ chain = 11 then sf 7
  else if chain = 13 then mul rl rl
  else x

/-- Stepwise elements of chains 2 to 6 and 8 to 13 up to the last rounding, and that rounding's point. -/
def MI.stepElems (m : MI) (chain el : Nat) (xs gs : List Num) : List Num × Nat :=
  let fo := dFmtOut m.desc
  let x1 := m.rounded fo 0 el (xs.map plusZero)
  let y3 := x1.zipIdx.map fun e => of32 (act32 chain (m.rnd 2 (el + e.2)) (to32 (m.rnd 1 (el + e.2)) e.1))
  if chainGate chain then
    let x4 := m.rounded fo 3 el y3
    ((x4.zip gs).zipIdx.map fun e =>
      let r := m.rnd 4 (el + e.2)
      of32 (op32 r [to32 r e.1.1, to32 r e.1.2] fun v => (arg0 v).mul (arg1 v)), 5)
  else (y3, 3)

/-- The statistics of R201 over a row of fp32 codes: shifted mean, mean and variance. -/
def rowWelford (xs : List Nat) : Nat × Nat × Nat :=
  let k := xs.getD 0 0
  let lane (l : Nat) : Wf :=
    ((List.range (ceilDiv xs.length 64)).filterMap fun c => xs[64 * c + l]?).foldl (fun st x => wfStep st x k)
      ⟨0, 0, 0, l, [], 0⟩
  let st := (forN 6 (fun _ ns => wfLevel ns) ((List.range 64).map lane)).getD 0 ⟨0, 0, 0, 0, [], 0⟩
  if st.n = 0 then (st.mean, 0, 0)
  else (st.mean, op32 .near [k, st.mean] (fun v => (arg0 v).add (arg1 v)),
    op32 .near [st.m2, countF st.n] (fun v => (arg0 v).div (arg1 v)))

/-- One ulp of a format at a value. -/
def ulpAt (fmt : Nat) (v : Num) : Num :=
  match ffmt fmt, v with
  | some f, .num _ p q e => .num false 1 1 ((if p = 0 then f.emin else max (ilog p q + e) f.emin) - f.fb)
  | _, _ => .zero

/-- The result of a stepwise element of chains 14 and 15, whose row pass the manual does not give: a free value of fmt_out
within the bound of R180 of the fused result (log 39, DESIGN CHOICE). -/
def stepBound (fmt : Nat) (ux fused free : Num) : Num :=
  let bound := ((fused.abs.mul (.num false 2 1 0)).mul ux).add (ulpAt fmt fused)
  if fused.isFin && free.isFin && !(bound.lt (free.add fused.opp).abs) then free else fused

/-- x and the row's statistics in the fp32 arithmetic of R201, by column: chains 16 and 18 run the row normalisation, chain 17
the same pass with the mean of x² in place of the variance and no shift (log 39, DEDUCED). -/
def MI.stepNorm (m : MI) (chain el0 : Nat) (c1 : List Nat) : List Nat × Nat × Nat :=
  let add (rn : Rnd) (a b : Nat) : Nat := op32 rn [a, b] fun v => (arg0 v).add (arg1 v)
  let sub (rn : Rnd) (a b : Nat) : Nat := op32 rn [a, b] fun v => (arg0 v).add (arg1 v).opp
  let mul (rn : Rnd) (a b : Nat) : Nat := op32 rn [a, b] fun v => (arg0 v).mul (arg1 v)
  let root (v : Nat) : Nat := (sfuElem 1 fp32F 3 .rsqrt (add (m.rnd 1 el0) v (to32 .near m.eps))).code
  if chain = 17 then
    let lane (l : Nat) : Nat := ((List.range (ceilDiv c1.length 64)).filterMap fun c => c1[64 * c + l]?).foldl
      (fun a x => op32 .near [x, x, a] fun v => ((arg0 v).mul (arg1 v)).add (arg2 v)) 0
    let level (l : List Nat) : List Nat := (chunksOf 2 64 l).map fun q => match q with | [a, b] => add .near a b | _ => q.headD 0
    let sq := (forN 6 (fun _ => level) ((List.range 64).map lane)).headD 0
    let r := root (op32 .near [sq, countF c1.length] fun v => (arg0 v).div (arg1 v))
    (c1.zipIdx.map fun e => mul (m.rnd 1 (el0 + e.2)) e.1 r, 0, r)
  else
    let (ms, mu, var) := rowWelford c1
    let r := root var
    (c1.zipIdx.map fun e =>
      let rn := m.rnd 1 (el0 + e.2)
      mul rn (sub rn (sub rn e.1 (c1.headD 0)) ms) r, mu, r)

/-- Stepwise rows of chains 14 to 18: values up to the last rounding, its point, and the statistics (R180, R181). The points
are those of the table's row, whether or not a gate takes the third (log 39, DEDUCED). -/
def MI.stepRow (m : MI) (chain el0 : Nat) (st : RowStat) (xs gs : List Num) : List Num × Nat × Num × Num :=
  let fo := dFmtOut m.desc
  if xs.any fun x => !x.isFin then (xs.map fun _ => .nan, 3, .nan, .nan)
  else
    let x1 := m.rounded fo 0 el0 (xs.map plusZero)
    let c1 := x1.zipIdx.map fun e => to32 (m.rnd 1 (el0 + e.2)) e.1
    if chain = 14 ∨ chain = 15 then
      let key := c1.map fun (c : Nat) => (c : Int)
      let free (k : Nat) : Num := of32 (wrapNat 32 (Config.weltError (2 ^ 27 + chain * 2 ^ 20 + k) key))
      let (fs, a, b) := rowChain chain st false xs m.eps xs gs
      let fused := m.rounded fo 2 el0 fs
      let ux := maxNum .zero (x1.map (ulpAt fo))
      let out := m.rounded fo 2 el0 (c1.zipIdx.map fun e => free e.2)
      ((fused.zip out).map fun e => stepBound fo ux e.1 e.2, 2, a, b)
    else
      let (ys, mu, r) := m.stepNorm chain el0 c1
      let zs := if chain = 18 then (ys.zip gs).zipIdx.map fun e =>
          let rn := m.rnd 2 (el0 + e.2)
          op32 rn [e.1.1, to32 rn e.1.2] fun v => (arg0 v).mul (arg1 v)
        else ys
      (zs.map of32, 3, of32 mu, of32 r)

/-- Stepwise intermediates of chains 21 to 23, as codes in fmt_p; el is the draw position in the first product. -/
def MI.stepHidden (m : MI) (chain el : Nat) (xs : List Num) : List Nat :=
  let x1 := m.rounded m.fmtP 0 el (xs.map plusZero)
  let y := x1.zipIdx.map fun e => of32 (act32 chain (m.rnd 1 (el + e.2)) (to32 (m.rnd 1 (el + e.2)) e.1))
  (m.roundRow m.fmtP 2 el y).1

/-- Fused intermediates of chains 21 to 23, nearest-even into fmt_p (R178, log 39, DEDUCED). -/
def MI.hidden (m : MI) (chain : Nat) (xs : List Num) : List Nat :=
  xs.map fun x =>
    let f := actOf chain (wRound x)
    let f := if f.isZero && reluChain chain || !x.isFin then f else wStage chain (wKey x) f
    encodeElem m.fmtP .near (dSat m.desc) f

/-! ### Sampling (R230) -/

/-- Parameters of m.sample (R229). -/
structure SampleArgs where
  temp : Num
  topP : Num
  topK : Nat
  topkEn : Bool
  toppEn : Bool

/-- The parameters in the OUT record. -/
def MI.sampleArgs (m : MI) : SampleArgs :=
  let r := recD m.recs roleOut
  ⟨fp32F.decode (rExt r 256 32), fp32F.decode (rExt r 288 32), rExt r 320 11, bit r 331, bit r 332⟩

/-- The k largest of indexed values, ties to the lower index: a stable insertion by value. -/
def topOf (k : Nat) (xs : List (Num × Nat)) : List (Num × Nat) :=
  let ins (l : List (Num × Nat)) (x : Num × Nat) : List (Num × Nat) :=
    let keep := l.filter fun y => !y.1.lt x.1
    (keep ++ x :: l.filter fun y => y.1.lt x.1).take k
  xs.foldl ins []

/-- floor(2^32 2^-trunc24 v) for v ≥ 0 (R230). -/
def weightOf (v : Num) : Nat :=
  match v with
  | .num _ p q e =>
    let (a, d) := inUnits p q e (-24)
    let t := a / d
    if 33 * 2 ^ 24 ≤ t then 0
    else
      match numExp2 (.num true t 1 (-24)) with
      | .num _ p q e => let (a, d) := inUnits p q e (-32); a / d
      | _ => 0
  | _ => 0

/-- The outcome of a row of m.sample: token (none writes 0xFFFF_FFFF), prob and cnt. -/
structure SampleOut where
  tok : Option Nat
  prob : Num
  cnt : Num

/-- First index at which the running sum exceeds tgt. -/
def drawTok (tgt : Nat) : Nat → List (Nat × Nat) → Option Nat
  | _, [] => none
  | acc, (q, j) :: t => if tgt < acc + q then some j else drawTok tgt (acc + q) t

/-- Shortest prefix of weights whose sum reaches a bound. -/
def prefixTo (bound : Nat) : Nat → List (Nat × Nat) → List (Nat × Nat)
  | _, [] => []
  | acc, (q, j) :: t => if bound ≤ acc then [] else (q, j) :: prefixTo bound (acc + q) t

/-- Insert x before the first element that it orders strictly before. -/
def insertBy {α : Type} (lt : α → α → Bool) (x : α) : List α → List α
  | [] => [x]
  | y :: t => if lt x y then x :: y :: t else y :: insertBy lt x t

/-- Stable sort by insertion. -/
def sortBy {α : Type} (lt : α → α → Bool) (xs : List α) : List α := xs.foldl (fun l x => insertBy lt x l) []

/-- Order by weight descending, ties to the lower index, of a list in ascending index. -/
def byWeight (xs : List (Nat × Nat)) : List (Nat × Nat) := sortBy (fun a b => decide (b.1 < a.1)) xs

/-- One row of m.sample: logits at exact values and the 64-bit draw u. -/
def sampleRow (g : SampleArgs) (xs : List Num) (u : Nat) : SampleOut :=
  let none : SampleOut := ⟨.none, .zero, .zero⟩
  if xs.isEmpty || (g.topkEn && decide (g.topK = 0)) || xs.all (fun x => decide (x = .inf true)) then none
  else if xs.any fun x => decide (x = .nan) then ⟨.none, .nan, .nan⟩
  else
    let all := xs.zipIdx
    let cand := if g.topkEn then sortBy (fun a b => decide (a.2 < b.2)) (topOf g.topK all) else all
    let xm := maxNum (cand.headD (.zero, 0)).1 (cand.map Prod.fst)
    if g.temp.isZero then
      ⟨(cand.find? fun c => !c.1.lt xm).map Prod.snd, .num false 1 1 0, .num false 1 1 0⟩
    else
      let w (x : Num) : Nat :=
        if xm = .inf false then (if x = .inf false then 2 ^ 32 else 0)
        else if x = .inf true then 0
        else weightOf (((xm.add x.opp).mul log2e).div g.temp)
      let qs := cand.map fun c => (w c.1, c.2)
      let keep :=
        if g.toppEn then
          let sum := (qs.map Prod.fst).sum
          sortBy (fun a b => decide (a.2 < b.2))
            (prefixTo (ceilNum (g.topP.mul (.num false sum 1 0))).toNat 0 (byWeight qs))
        else qs
      let s2 := (keep.map Prod.fst).sum
      let tok := drawTok (u * s2 / 2 ^ 64) 0 keep
      let q := match keep.find? fun e => decide (some e.2 = tok) with | some e => e.1 | .none => 0
      ⟨tok, .num false q s2 0, .num false (keep.filter fun e => decide (0 < e.1)).length 1 0⟩

end Sys2Proof.Machine
end

