-- ==== Sys2Proof/Machine/Loads.lean ====
section
/-! DEFINITION. Loads of a tile: how many, what each streams, what each adds to the accumulators, and the rows of a tile
(R53, R78-R88, R140-R142, R169, R175, R253). -/

namespace Sys2Proof.Machine

/-! ### Geometry of a tile -/

/-- The macro-instruction of a tile. -/
def State.tileMi (s : State) (t : Tile) : Option MI := s.findMi t.home.toNat t.strm t.ticket

/-- Output block, part and member of a tile. -/
def MI.at_ (m : MI) (t : Tile) : (Nat × Nat × Nat) × Nat × Nat := m.tileAt t.idx

/-- Rows of a tile that lie in OUT. -/
def MI.tileRows (m : MI) (t : Tile) : Nat := m.rowsOf (m.at_ t).1.2.1

/-- Rows of a tile per array: its rows are spread evenly, array 0 first, so a last row tile is short on every array alike
(R80, R141, 08_convolution_and_image_operators.md's worked example; log 40, DEDUCED). -/
def MI.rpa (m : MI) (t : Tile) : Nat := ceilDiv (m.tileRows t) 4

/-- Phase of an output position of m.convt (R210). -/
def MI.phase (m : MI) (i : Nat) : Nat × Nat × Nat :=
  let cv := recD m.recs roleConv
  let (t, y, x) := convPos m.desc cv i
  let ph (d : Dim) (o : Nat) : Nat := (((o : Int) + d.lo) % d.s).toNat
  (ph (dimT cv) t, ph (dimH cv) y, ph (dimW cv) x)

/-- Phases that the rows of a tile of m.convt have, in order of first appearance. -/
def MI.tilePhases (m : MI) (t : Tile) : List (Nat × Nat × Nat) :=
  ((List.range (m.tileRows t)).map fun r => m.phase ((m.at_ t).1.2.1 * m.tm + r)).foldl
    (fun l p => if l.contains p then l else l ++ [p]) []

/-- Row of OUT's batch that row r of a tile holds: in m.convt the rows of a tile are ordered by phase (R210). -/
def MI.rowIx (m : MI) (t : Tile) (r : Nat) : Nat :=
  let i0 := (m.at_ t).1.2.1 * m.tm
  if dOp m.desc = opConvt then
    i0 + ((m.tilePhases t).flatMap fun p => (List.range (m.tileRows t)).filter fun r => decide (m.phase (i0 + r) = p)).getD r r
  else i0 + r

/-- First column and columns of a tile. -/
def MI.tileCols (s : State) (m : MI) (t : Tile) : Nat × Nat := let (b, _, mem) := m.at_ t; m.colSpan s b.2.2 mem

/-- 64-column blocks of a tile. -/
def MI.tileBlocks (s : State) (m : MI) (t : Tile) : Nat := ceilDiv (m.tileCols s t).2 64

/-- Reduction groups of k. -/
def MI.groups (m : MI) : Nat := ceilDiv (dK m.desc) (loadG m.desc m.recs)

/-- Reduction groups of part p (R142): first and end. -/
def MI.partGroups (m : MI) (p : Nat) : Nat × Nat :=
  let step := m.tk / loadG m.desc m.recs
  (p * m.chunks / m.parts * step, min ((p + 1) * m.chunks / m.parts * step) m.groups)

/-- Pieces of B. -/
def MI.pb (m : MI) : Nat := pieces (effFmtB m.desc m.recs)

/-! ### Reduction order and tap chains (R81, R82, R210, R211) -/

/-- Length of a tap chain along W: the filter's width where the stride divides the dilation, else 1 (R81, R82). A VQ operand
keeps the row order of R206 and forms none (R212; log 40, DESIGN CHOICE). -/
def MI.chainLen (m : MI) : Nat :=
  let w := dimW (recD m.recs roleConv)
  if (dOp m.desc = opConv ∨ dOp m.desc = opConvt) ∧ isVq m.desc = false ∧ 1 < w.k ∧ w.d % w.s = 0 then w.k else 1

/-- The reduction index at place q of the Last's order: consecutive taps of one filter row, in descending tap order, stand
together where chains form (R81, R211). -/
def MI.redOrder (m : MI) (q : Nat) : Nat :=
  let c := m.chainLen
  let cg := cvCg (recD m.recs roleConv)
  if c ≤ 1 then q else (q / c / cg * c + (c - 1 - q % c)) * cg + q / c % cg

/-- Whether a tap can meet an integer input in a phase (R210). -/
def MI.tapMeets (m : MI) (p : Nat × Nat × Nat) (k : Nat) : Bool :=
  let cv := recD m.recs roleConv
  let ((kt, kh, kw), _) := tapOf cv k
  let ok (d : Dim) (ph j : Nat) : Bool := decide (((ph : Int) - d.d * j) % d.s = 0)
  ok (dimT cv) p.1 kt && ok (dimH cv) p.2.1 kh && ok (dimW cv) p.2.2 kw

/-- The reduction indices of natural groups lo to hi in the Last's order. -/
def MI.redRange (m : MI) (lo hi : Nat) : List Nat :=
  let g := loadG m.desc m.recs
  ((List.range ((hi - lo) * g)).map fun q => lo * g + q).filter (fun q => decide (q < dK m.desc)) |>.map m.redOrder

/-- The loads' reduction indices for one phase of a part of m.convt, with the natural group of each: taps that cannot meet an
input are not loaded (R210). -/
def MI.phaseGroups (m : MI) (part : Nat) (p : Nat × Nat × Nat) : List (Nat × List Nat) :=
  let (lo, hi) := m.partGroups part
  let g := loadG m.desc m.recs
  if isVq m.desc then
    ((List.range (hi - lo)).map fun i => (lo + i, (m.redRange (lo + i) (lo + i + 1)).filter (m.tapMeets p))).filter
      fun e => !e.2.isEmpty
  else
    let ks := (m.redRange lo hi).filter (m.tapMeets p)
    (chunksOf g (ks.length + 1) ks).map fun l => (0, l)

/-! ### Loads of a tile -/

/-- A load (R80): whether it belongs to the second product, the natural reduction group and score block it belongs to, its
reduction indices by cell row (pairs in pair mode), the accumulator block it adds into, the piece of its stationary operand,
the first entry row it streams and how many, the phase its rows have, and its first flag (R78). -/
structure Load where
  second : Bool
  group : Nat
  jblk : Nat
  ks : List Nat
  blk : Nat
  piece : Nat
  lo : Nat
  n : Nat
  phase : Option (Nat × Nat × Nat)
  fresh : Bool
  deriving DecidableEq, Repr

/-- Valid positions of batch bi: the sequence's length on a pool, else n (R293). -/
def State.mm2Len (s : State) (m : MI) (bi : Nat) : Nat :=
  if hasRole m.recs rolePool then min (dN m.desc) (s.seqEntry m.recs bi).2.1 else dN m.desc

/-- The score blocks of m.mm2 that a tile streams: those not masked for every row (R176, R296). -/
def MI.scoreBlocks (s : State) (m : MI) (t : Tile) : List Nat :=
  let len := s.mm2Len m (m.at_ t).1.1
  let last : Int := (m.at_ t).1.2.1 * m.tm + m.tileRows t - 1
  (List.range (ceilDiv len 64)).filter fun j => decide (dChain m.desc ≠ 20) || decide ((64 * j : Int) ≤ last + m.maskOff)

/-- Columns of score block j. -/
def State.blockLen (s : State) (m : MI) (bi j : Nat) : Nat := min 64 (s.mm2Len m bi - 64 * j)

/-- Loads of m.mm2 for score block j: first product, second product (R175). -/
def MI.mm2Loads (s : State) (m : MI) (bi j : Nat) : Nat × Nat :=
  (m.groups * m.pb, ceilDiv (s.blockLen m bi j) 32 * ceilDiv (m.cols s) 64 * pieces (s.fmtC m))

/-- Load l of m.mm2 from some score blocks on; `any` tells that a block came before. -/
def MI.mm2Load (s : State) (m : MI) (t : Tile) : List Nat → Bool → Nat → Option Load
  | [], _, _ => none
  | j :: js, any, l =>
    let bi := (m.at_ t).1.1
    let (a, b) := m.mm2Loads s bi j
    if l < a then
      let grp := l / m.pb
      some ⟨false, grp, j, m.redRange grp (grp + 1), 0, l % m.pb, 0, m.rpa t, none, decide (l = 0)⟩
    else if l < a + b then
      let q := l - a
      let pc := pieces (s.fmtC m)
      let nb := ceilDiv (m.cols s) 64
      let c := q / pc / nb
      some ⟨true, c, j, (List.range (min 32 (s.blockLen m bi j - 32 * c))).map fun i => 64 * j + 32 * c + i,
        1 + q / pc % nb, q % pc, 0, m.rpa t, none, !any && decide (c = 0) && decide (q % pc = 0)⟩
    else m.mm2Load s t js true (l - a - b)

/-- Rows of a tile, by place, that have a phase: the least and greatest entry they take and the span's length. -/
def MI.phaseSpan (m : MI) (t : Tile) (p : Nat × Nat × Nat) : Nat × Nat :=
  let es := ((List.range (m.tileRows t)).filter fun r => decide (m.phase (m.rowIx t r) = p)).map fun r => r % m.rpa t
  match es with
  | [] => (0, 0)
  | e :: r => (r.foldl min e, r.foldl max e + 1 - r.foldl min e)

/-- The loads of a tile of m.convt: each serves one phase (R210). The first load of a column block streams every entry row,
zero pieces in those of other phases, so that its first flag reaches them all. -/
def MI.convtLoads (s : State) (m : MI) (t : Tile) : List Load :=
  let part := (m.at_ t).2.1
  let all := (m.tilePhases t).flatMap fun p => (m.phaseGroups part p).map fun g => (p, g)
  all.zipIdx.flatMap fun e =>
    let (lo, n) := if e.2 = 0 then (0, m.rpa t) else m.phaseSpan t e.1.1
    (List.range (m.tileBlocks s t)).flatMap fun b => (List.range m.pb).map fun j =>
      ⟨false, e.1.2.1, 0, e.1.2.2, b, j, lo, n, some e.1.1, decide (e.2 = 0) && decide (j = 0)⟩

/-- Loads of a tile: none for work that does not reduce on the arrays. -/
def MI.loadCount (s : State) (m : MI) (t : Tile) : Nat :=
  if dOp m.desc = opConvt then (m.convtLoads s t).length
  else if onArrays m.desc then
    let (lo, hi) := m.partGroups (m.at_ t).2.1
    (hi - lo) * m.tileBlocks s t * m.pb
  else if dOp m.desc = opMm2 then
    ((m.scoreBlocks s t).map fun j => let l := m.mm2Loads s (m.at_ t).1.1 j; l.1 + l.2).sum
  else 0

/-- Load l of a tile, in the order the core takes them. -/
def MI.loadAt (s : State) (m : MI) (t : Tile) (l : Nat) : Option Load :=
  if dOp m.desc = opMm2 then m.mm2Load s t (m.scoreBlocks s t) false l
  else if dOp m.desc = opConvt then (m.convtLoads s t)[l]?
  else if l < m.loadCount s t then
    let nb := m.tileBlocks s t
    let lo := (m.partGroups (m.at_ t).2.1).1
    let g := lo + l / m.pb / nb
    some ⟨false, g, 0, m.redRange g (g + 1), l / m.pb % nb, l % m.pb, 0, m.rpa t, none, decide (g = lo) && decide (l % m.pb = 0)⟩
  else none

/-- The VQ block a load needs: batch and index (R236). -/
def MI.needBlock (s : State) (m : MI) (t : Tile) (l : Nat) : Option (Nat × Nat) :=
  if isVq m.desc then
    match m.loadAt s t l with
    | some x =>
      if x.second then none
      else
        let blk := if dOp m.desc = opMm2 then x.jblk else (m.tileCols s t).1 / 64 + x.blk
        some ((m.at_ t).1.1, blk * m.groups + x.group)
    | none => none
  else none

/-- Passes of the streaming operand against piece j of B (R51, R53). -/
def MI.passes (m : MI) (j : Nat) : Nat :=
  if dP6 m.desc && decide (dFmtA m.desc = 1) && decide (effFmtB m.desc m.recs = 1) then 3 - j else pieces (dFmtA m.desc)

/-- Passes of a load. -/
def MI.passesOf (m : MI) (x : Load) : Nat := if x.second then pieces m.fmtP else m.passes x.piece

/-- Length M of load l (R80). -/
def MI.loadLen (s : State) (m : MI) (t : Tile) (l : Nat) : Nat :=
  match m.loadAt s t l with
  | some x => x.n * m.passesOf x
  | none => 0

/-! ### Pieces and cells (R50-R57, R74, R75) -/

/-- Piece j of a value of a format. -/
def pieceOf (fmt j : Nat) (v : Num) : Piece :=
  match v with
  | .nan => ⟨.nan, 0, 0⟩
  | .inf n => ⟨.inf n, 0, 0⟩
  | .num n p _ e =>
    if p = 0 then .zero
    else
      let (sig, sh) := if fmt = 1 then (if j = 0 then (p / 65536, 16) else if j = 1 then (p / 256 % 256, 8) else (p % 256, 0))
        else if fmt = 2 then (if j = 0 then (p / 8, 3) else (p % 8, 0))
        else (p, 0)
      ⟨.fin n, BitVec.ofInt 9 (sgn n sig), BitVec.ofInt 10 (e + (sh : Nat))⟩

/-- Add the product of two pieces to a partial sum (R54, R57): products of finite pieces exactly, the others as flags. -/
def Acc.addPieces (x : Acc) (base : Int) (a b : Piece) : Acc :=
  match a.kind, b.kind with
  | .nan, _ => { x with nan := true }
  | _, .nan => { x with nan := true }
  | .inf _, .zero => { x with nan := true }
  | .zero, .inf _ => { x with nan := true }
  | .inf n, .inf m => if n = m then { x with pinf := true } else { x with ninf := true }
  | .inf n, .fin m => if n = m then { x with pinf := true } else { x with ninf := true }
  | .fin n, .inf m => if n = m then { x with pinf := true } else { x with ninf := true }
  | .fin _, .fin _ => x.addInt (a.sig.toInt * b.sig.toInt * p2 (a.exp.toInt + b.exp.toInt - base))
  | _, _ => x

/-- A cell adds its one or two products into the partial sum that comes from the cell above (R75, R77). -/
def Acc.addCells (x : Acc) (base : Int) (a b : Cell) : Acc := (x.addPieces base a.p b.p).addPieces base a.q b.q

/-- The partial sum that leaves the cells of some rows of a column: streaming elements and stationary pieces by row (R77).
After all 32 rows it is the vector's. -/
def colSum (base : Int) (cs : List (Cell × Cell)) : Acc := cs.foldl (fun x e => x.addCells base e.1 e.2) Acc.zero

/-- psum of cell (i, j) of an array for the vector in act: the sum of rows 0 to i (R74). -/
def Arrays.psumAt (k : Arrays) (base : Int) (a i j : Nat) : Acc :=
  colSum base ((List.range (i + 1)).map fun r => (tget Cell.zero k.act (a * 32 + r), tget Cell.zero k.cur (r * 64 + j)))

/-- The reduction indices of cell row i of a load. -/
def MI.cellKs (m : MI) (x : Load) (i : Nat) : Option Nat × Option Nat :=
  if !x.second && pairMode m.desc m.recs then (x.ks[2 * i]?, x.ks[2 * i + 1]?) else (x.ks[i]?, none)

/-- The stationary cell (i, col) of a load. -/
def State.bCell (s : State) (c : Nat) (m : MI) (t : Tile) (x : Load) (i col : Nat) : Cell :=
  let bi := (m.at_ t).1.1
  let one (k : Option Nat) : Piece :=
    match k with
    | none => .zero
    | some k =>
      if x.second then pieceOf (s.fmtC m) x.piece (s.cVal (t.entsOf x.jblk) m bi k (64 * (x.blk - 1) + col))
      else
        let j := if dOp m.desc = opMm2 then 64 * x.jblk + col else (m.tileCols s t).1 + 64 * x.blk + col
        pieceOf (effFmtB m.desc m.recs) x.piece (s.bVal (c / 16) (t.entsOf x.jblk) m bi k j)
  let (p, q) := m.cellKs x i
  ⟨one p, one q⟩

/-- Columns of a load that carry pieces of B or C; the others hold zero pieces (R141). -/
def MI.loadCols (s : State) (m : MI) (t : Tile) (x : Load) : Nat :=
  if x.second then min 64 (m.cols s - 64 * (x.blk - 1))
  else if dOp m.desc = opMm2 then s.blockLen m (m.at_ t).1.1 x.jblk
  else min 64 ((m.tileCols s t).2 - 64 * x.blk)

/-- The stationary pieces of a load as its lanes bring them (R83). -/
def State.lanePieces (s : State) (c : Nat) (m : MI) (t : Tile) (x : Load) : Table Cell :=
  (List.range 32).flatMap fun i => (List.range (m.loadCols s t x)).filterMap fun col =>
    let v := s.bCell c m t x i col
    if v = .zero then none else some (i * 64 + col, v)

/-- Row of a tile in entry e of array a, if there is one. -/
def MI.rowIn (m : MI) (t : Tile) (a e : Nat) : Option Nat :=
  let r := a * m.rpa t + e
  if e < m.rpa t ∧ r < m.tileRows t then some r else none

/-- Source of the streaming element of reduction index k for the row of a tile in entry e of array a; none for a zero piece. -/
def State.streamSrc (s : State) (m : MI) (t : Tile) (x : Load) (a e k : Nat) : Option Src :=
  match m.rowIn t a e with
  | none => none
  | some r =>
    let i := m.rowIx t r
    if x.phase.isSome && decide (x.phase ≠ some (m.phase i)) then none else s.aSrc m (m.at_ t).1.1 i k

/-- Chain position of cell row i of a load (R81): 0 at the first row of a chain. -/
def MI.chainPos (m : MI) (x : Load) : Nat → Nat
  | 0 => 0
  | i + 1 =>
    match x.ks[i]?, x.ks[i + 1]? with
    | some k0, some k1 =>
      let cv := recD m.recs roleConv
      let ((at_, ah, aw), ac) := tapOf cv k0
      let ((bt, bh, bw), bc) := tapOf cv k1
      if 1 < m.chainLen ∧ pairMode m.desc m.recs = false ∧ at_ = bt ∧ ah = bh ∧ ac = bc ∧ aw = bw + 1 then m.chainPos x i + 1 else 0
    | _, _ => 0

/-- Vectors between a chained row and the one above it: D / s (R81). -/
def MI.chainStep (m : MI) : Nat := let w := dimW (recD m.recs roleConv); w.d / w.s

/-- Elements that cell row i of a load reads from the local store: all M of them at the first row of a chain, the first
min(k D / s, M) at chain position k (R81). -/
def MI.storeReads (m : MI) (x : Load) (i : Nat) : Nat :=
  let len := x.n * m.passesOf x
  let k := m.chainPos x i
  if k = 0 then len else min (k * m.chainStep) len

/-- What cell row i receives as the element of vector e: at chain position k > 0 the element that the row above received
D / s vectors earlier, where that is the element of this row, else its own from the local store (R81, R82). Where output rows
wrap inside a load the two differ and R82 decides (log 40, DEDUCED). -/
def State.actSrc (s : State) (m : MI) (t : Tile) (x : Load) (a e i : Nat) : Option Src :=
  let own := (x.ks[i]?).bind (s.streamSrc m t x a e)
  let up := if 0 < m.chainPos x i ∧ m.chainStep ≤ e then (x.ks[i - 1]?).bind (s.streamSrc m t x a (e - m.chainStep)) else own
  if up = own then up else own

/-- The intermediates in fmt_p of a row of m.mm2 for the block that streams against C (R176, R178). -/
def Tile.pCode (t : Tile) (r k : Nat) : Nat :=
  match t.rows2.find? fun x => decide (x.row = r) with
  | some x => x.p.getD (k % 64) 0
  | none => 0

/-- The streaming cell of row i in entry e of array a in pass p of a load. -/
def State.aCell (s : State) (m : MI) (t : Tile) (x : Load) (p a e i : Nat) : Cell :=
  let fa := dFmtA m.desc
  let one (src : Option Src) : Piece := match src with | some y => pieceOf fa p (s.srcVal y) | none => .zero
  if x.second then
    match x.ks[i]?, m.rowIn t a e with
    | some k, some r => ⟨pieceOf m.fmtP p (decodeElem m.fmtP (t.pCode r k)), .zero⟩
    | _, _ => .zero
  else if pairMode m.desc m.recs then
    ⟨one ((x.ks[2 * i]?).bind (s.streamSrc m t x a e)), one ((x.ks[2 * i + 1]?).bind (s.streamSrc m t x a e))⟩
  else ⟨one (s.actSrc m t x a e i), .zero⟩

/-- The vector of entry e of array a in pass p of a load, by row. -/
def State.vector (s : State) (m : MI) (t : Tile) (x : Load) (p a e : Nat) : List Cell :=
  (List.range 32).map fun i => s.aCell m t x p a e i

/-- Weight of one unit of an accumulator of the first product (R54). -/
def MI.base (m : MI) : Int := baseOf (dFmtA m.desc) + baseOf (effFmtB m.desc m.recs)

/-- Weight of one unit of an accumulator of the second product. -/
def MI.base2 (s : State) (m : MI) : Int := baseOf m.fmtP + baseOf (s.fmtC m)

/-- Weight of one unit of the accumulators a load adds into. -/
def MI.loadBase (s : State) (m : MI) (x : Load) : Int := if x.second then m.base2 s else m.base

/-- Place of row r, block blk, column col of a tile in the accumulators of its core (R78, R169, R175): the entry is the load's
entry base plus the row's place in its array, modulo 64. Block blk of a tile has entry base blk x rows per array (log 40,
DESIGN CHOICE); in m.mm2 block 0 holds the scores and block 1 + b columns 64 b on of O. -/
def MI.accAt (m : MI) (t : Tile) (r blk col : Nat) : Nat :=
  r / m.rpa t * 4096 + col * 64 + (blk * m.rpa t + r % m.rpa t) % 64

/-- A load as the arrays know it. -/
def Tile.loadId (t : Tile) (l : Nat) : LoadId := ⟨t.home, t.strm, t.ticket, t.idx, l⟩

/-- Cells of a vector in which any bit differs from the vector before, as a density in 1/256 of the streaming bits: 19 bits a
piece over the rows of the four arrays (R90, log 54, DESIGN CHOICE). -/
def toggles (a b : List Cell) : Nat :=
  let bits9 (x : BitVec 9) : Nat := ((List.range 9).map fun i => b2n (bit x i)).sum
  let bits10 (x : BitVec 10) : Nat := ((List.range 10).map fun i => b2n (bit x i)).sum
  let one (p q : Piece) : Nat := bits9 (p.sig ^^^ q.sig) + bits10 (p.exp ^^^ q.exp)
  ((a.zip b).map fun e => one e.1.p e.2.p + one e.1.q e.2.q).sum * 256 / (38 * a.length)

/-- The vectors of the four arrays in the order a load streams them, each as 128 cells. -/
def State.loadVectors (s : State) (m : MI) (t : Tile) (x : Load) : List (List Cell) :=
  (List.range (m.passesOf x)).flatMap fun p => (List.range x.n).map fun e =>
    (List.range 4).flatMap fun a => s.vector m t x p a (x.lo + e)

/-- The accumulator after a load, of entry e of array a and column col: every pass adds its vector's partial sum (R78, R80). -/
def State.loadAcc (s : State) (m : MI) (t : Tile) (x : Load) (cur : Table Cell) (a e col : Nat) (old : Acc) : Acc :=
  (List.range (m.passesOf x)).foldl (fun acc p =>
    acc.merge (colSum (m.loadBase s x) ((s.vector m t x p a e).zipIdx.map fun v => (v.1, tget Cell.zero cur (v.2 * 64 + col)))))
    (if x.fresh then Acc.zero else old)

/-- Stream the vectors of a load against cur (R76-R80): accumulators, and act, psum and the densities of the last real ic. -/
def State.runLoad (s : State) (c : Nat) (m : MI) (t : Tile) (x : Load) : State :=
  s.modCore c fun k =>
    let cells := (List.range 4).flatMap fun a => (List.range x.n).flatMap fun e =>
      match m.rowIn t a (x.lo + e) with
      | some r => (List.range (m.loadCols s t x)).map fun col => (a, x.lo + e, col, m.accAt t r x.blk col)
      | none => []
    let vs := s.loadVectors m t x
    let last := vs.getLastD []
    let act := last.zipIdx.map fun e => (e.2, e.1)
    let arr := { k.arr with
      act := act, tag := .real
      psum := (List.range 4).flatMap fun a => (List.range 64).map fun j =>
        (a * 64 + j, colSum (m.loadBase s x) ((List.range 32).map fun i =>
          (tget Cell.zero act (a * 32 + i), tget Cell.zero k.arr.cur (i * 64 + j)))) }
    let ds := k.rif.density ++ (vs.zip (vs.drop 1)).map fun e => toggles e.1 e.2
    { k with
      arr := arr, rif := { k.rif with density := ds.drop (ds.length - 256) }
      acc := cells.foldl (fun acc e => tput acc e.2.2.2 (s.loadAcc m t x k.arr.cur e.1 e.2.1 e.2.2.1 (tget Acc.zero acc e.2.2.2))) k.acc }

/-- The spans of memory that load l of a tile reads for its pieces and its vectors, and the bias row of m.mm2, which the welt adds to
the scores. -/
def State.loadSpans (s : State) (m : MI) (t : Tile) (l : Nat) : List (Nat × Nat) :=
  match m.loadAt s t l with
  | none => []
  | some x =>
    let bi := (m.at_ t).1.1
    let bias := match recOf m.recs roleBias with
      | some b => if dOp m.desc = opMm2 then [(rAddr b, rowBytes (rFmt b) (dN m.desc))] else []
      | none => []
    bias ++
    if x.second then
      if hasRole m.recs rolePool then []
      else x.ks.map fun k =>
        let r := recD m.recs roleC
        (rowAddr r bi k + 8 * (x.blk - 1) * fmtBits (rFmt r), rowBytes (rFmt r) (m.loadCols s t x))
    else
      let as := (List.range 4).flatMap fun a => (List.range x.n).flatMap fun e => x.ks.filterMap fun k =>
        s.streamSrc m t x a (x.lo + e) k
      let bs := if isVq m.desc || hasRole m.recs rolePool then [] else
        (List.range (m.loadCols s t x)).flatMap fun col => x.ks.filterMap fun k =>
          bSrc m bi k (if dOp m.desc = opMm2 then 64 * x.jblk + col else (m.tileCols s t).1 + 64 * x.blk + col)
      (as ++ bs).flatMap Src.spans

/-- A poisoned line that load l of a tile reads (R279). -/
def State.loadPoisoned (s : State) (m : MI) (t : Tile) (l : Nat) : Option Nat := s.spanPoison (s.loadSpans m t l)

/-! ### Tiles of a core -/

/-- Every row of a tile has been read out. -/
def MI.isRead (m : MI) (t : Tile) : Bool := decide (m.tileRows t ≤ t.outs.length) && t.started

/-- First tile of a core that still reads rows out, streams, or has not started; earlier tiles are read out. -/
def State.headTile (s : State) : List Tile → Option (Tile × MI)
  | [] => none
  | t :: ts =>
    match s.tileMi t with
    | none => s.headTile ts
    | some m => if m.isRead t then s.headTile ts else some (t, m)

/-- The tile a core works on. -/
def State.workTile (s : State) (c : Nat) : Option (Tile × MI) := s.headTile (s.core c).tiles

/-- A tile may go on: a tile of a faulted macro-instruction does not start (R14, R109). -/
def MI.mayRun (m : MI) (t : Tile) : Bool := t.started || !m.faulted

/-- Two records of one tile. -/
def Tile.same (t u : Tile) : Bool :=
  decide (t.home = u.home) && decide (t.strm = u.strm) && decide (t.ticket = u.ticket) && decide (t.idx = u.idx)

/-- Change a tile of a core. -/
def State.modTile (s : State) (c : Nat) (t : Tile) (f : Tile → Tile) : State :=
  s.modCore c fun k => { k with tiles := k.tiles.map fun x => if x.same t then f x else x }

/-- A load belongs to a tile. -/
def LoadId.isOf (l : LoadId) (t : Tile) : Bool := decide (l = t.loadId l.load)

/-- Pieces of a tile that leaves the core are not used: nxt and the lanes come free (log 40, DESIGN CHOICE). -/
def Arrays.forget (k : Arrays) (t : Tile) : Arrays :=
  let mine (o : Option LoadId) : Bool := o.any fun l => l.isOf t
  let k := if mine k.nxtOf then { k with nxtV := false, nxtOf := none } else k
  if mine k.ldOf then { k with ld := [], ldOf := none } else k

/-- Take a tile from a core. -/
def State.dropTile (s : State) (c : Nat) (t : Tile) : State :=
  (s.dropFar fun u => u.isOfTile t).modCore c fun k =>
    { k with arr := k.arr.forget t, tiles := k.tiles.filter fun x => !x.same t }

/-- Tiles of this device that belong to the team tile of t, t among them (R170). -/
def State.mates (s : State) (m : MI) (t : Tile) : List (Nat × Tile) :=
  (s.tilesOf m).filter fun e => decide (e.2.idx / m.team = t.idx / m.team)

/-- A fault while core c runs a tile: the macro-instruction faults and the tile, with its team, writes nothing (R58, R97,
R174, R242, R279). -/
def State.tileFault (s : State) (c : Nat) (m : MI) (t : Tile) (code : Code) (name : W64) : State :=
  (s.mates m t).foldl (fun s e => s.dropTile e.1 e.2) (s.miFault m c code name)

/-- arg0 of a fault at a poisoned line of this device (R279). -/
def poisonName (ln : Nat) : W64 := BitVec.ofNat 64 (128 * ln)

end Sys2Proof.Machine
end

