-- ==== Sys2Proof/Machine/Rows.lean ====
section
/-! DEFINITION. A row of a tile as the welt produces it, by opcode (R58, R88, R159-R182, R213-R217, R228-R231, R294). -/

namespace Sys2Proof.Machine

/-! ### Exact results before the chain -/

/-- x of an element (R159): P in chain 0, else αP + b. -/
def State.xOf (s : State) (m : MI) (p : Num) (j : Nat) : Num :=
  if dChain m.desc = 0 then p else (m.alpha.mul p).add (s.biasVal m j)

/-- The accumulator of row r, block blk, column col of a tile: the core's, with the merge slot of a split tile added; an
accumulator that no load reached is zero (R129, R143). -/
def State.accOf (s : State) (c : Nat) (m : MI) (t : Tile) (r blk col : Nat) : Acc :=
  let own := if t.loads = 0 then Acc.zero else tget Acc.zero (s.core c).acc (m.accAt t r blk col)
  match m.mergeSlots.find? fun e => decide (e.1 = m.blockNo (m.at_ t).1) with
  | some (_, k) => if m.parts ≤ 1 then own
      else own.merge (tget Acc.zero s.merge (k * 16384 + m.accAt t r blk col))
  | none => own

/-- An accumulator with one bit of A flipped (R58). -/
def Acc.flip (x : Acc) (b : Nat) : Acc := { x with a := x.a ^^^ (BitVec.ofNat 608 (2 ^ (b % 608))) }

/-! ### The depth-wise path (R209, R213-R217) -/

/-- Source of channel ch at tap j = (kt, kh, kw) of output position i; none for padding. -/
def tapSrc (m : MI) (bi i : Nat) (j : Nat × Nat × Nat) (ch : Nat) : Option Src :=
  let cv := recD m.recs roleConv
  let (ot, oy, ox) := convPos m.desc cv i
  match (dimT cv).input false ot j.1, (dimH cv).input false oy j.2.1, (dimW cv).input false ox j.2.2 with
  | some t, some y, some x => some ⟨imageAddr (recD m.recs roleA) bi t y x, ch, dFmtA m.desc, none⟩
  | _, _, _ => none

/-- The taps of a window in order. -/
def tapsOf (cv : Rec) : List (Nat × Nat × Nat) :=
  (List.range (dimT cv).k).flatMap fun kt => (List.range (dimH cv).k).flatMap fun kh =>
    (List.range (dimW cv).k).map fun kw => (kt, kh, kw)

/-- Sources of an element of m.dwconv with the row of B each meets. -/
def dwSrcs (m : MI) (bi i oc : Nat) : List (Src × Nat) :=
  let cv := recD m.recs roleConv
  let cg := cvCg cv
  let grp := oc / (dN m.desc / cvGroups cv)
  (tapsOf cv).zipIdx.flatMap fun e => (List.range cg).filterMap fun ch =>
    (tapSrc m bi i e.1 (grp * cg + ch)).map fun x => (x, e.2 * cg + ch)

/-- The lane accumulator of an element of m.dwconv (R213, R214). -/
def State.dwAcc (s : State) (m : MI) (bi i oc : Nat) : Acc :=
  (dwSrcs m bi i oc).foldl (fun x e =>
    match bSrc m bi e.2 oc with
    | some b => x.addProd m.base (dP6 m.desc && decide (dFmtA m.desc = 1) && decide (dFmtB m.desc = 1)) (s.srcVal e.1) (s.srcVal b)
    | none => x) Acc.zero

/-- Empty maximum: −∞, or the most negative finite value of fmt_out (R215). -/
def emptyMax (fmt : Nat) : Num :=
  match ffmt fmt with
  | some f => if f.sp = .ieee then .inf true else (f.decode (f.signed true f.maxCode))
  | none => Num.ofInt (intRange fmt).1

/-- In-bound sources of a window of m.pool. -/
def poolSrcs (m : MI) (bi i oc : Nat) : List Src :=
  (tapsOf (recD m.recs roleConv)).filterMap fun j => tapSrc m bi i j oc

/-- Result of a window of m.pool (R215). -/
def State.poolVal (s : State) (m : MI) (bi i oc : Nat) : Num :=
  let cv := recD m.recs roleConv
  let vs := (poolSrcs m bi i oc).map s.srcVal
  match vs with
  | [] => if cvMode cv = 0 then emptyMax (dFmtOut m.desc) else .zero
  | v :: t =>
    if cvMode cv = 0 then
      (if vs.any fun x => decide (x = .nan) then .nan else t.foldl (fun a b => fpMinMax true a b) v)
    else
      let n := if cvMode cv = 1 then (tapsOf cv).length else vs.length
      (sumNum vs).div (.num false n 1 0)

/-- Weighted input indices of one dimension of m.resample (R216, R217): input size, output size, taps, output; none where the
input has no position (R209). -/
def State.resampleTaps (s : State) (m : MI) (bi inn out k o phase : Nat) : List (Nat × Num) :=
  let cv := recD m.recs roleConv
  let p : Int := ((2 * (o : Int) + 1) * inn - out) * 256 / (2 * (out : Int))
  let i := p / 256
  let f := (p % 256).toNat
  let clamp (x : Int) : Nat := (max 0 (min ((inn : Int) - 1) x)).toNat
  if inn = 0 then []
  else if cvMode cv = 0 then [(clamp (if f < 128 then i else i + 1), .num false 1 1 0)]
  else if cvMode cv = 1 then [(clamp i, .num false (256 - f) 1 (-8)), (clamp (i + 1), .num false f 1 (-8))]
  else
    let b := recD m.recs roleB
    (List.range k).map fun (j : Nat) =>
      (clamp (i - (((k : Int) - 1) / 2) + (j : Int)), s.srcVal ⟨rowAddr b bi (phase + f), j, 3, none⟩)

/-- Sources and weights of an output of m.resample. -/
def State.resampleSrcs (s : State) (m : MI) (bi i oc : Nat) : List (Src × Num) :=
  let cv := recD m.recs roleConv
  let (ot, oy, ox) := convPos m.desc cv i
  let (_, oh, ow) := convOut m.desc cv
  let (_, ih, iw) := convIn cv
  let ws := s.resampleTaps m bi iw ow (dimW cv).k ox 0
  let hs := s.resampleTaps m bi ih oh (dimH cv).k oy 256
  hs.flatMap fun h => ws.map fun w =>
    (⟨imageAddr (recD m.recs roleA) bi ot h.1 w.1, oc, dFmtA m.desc, none⟩, h.2.mul w.2)

/-- Result of m.resample: the exact sum; where the input has no position the manual states none (log 55, DESIGN CHOICE). -/
def State.resampleVal (s : State) (m : MI) (bi i oc : Nat) : Num :=
  match s.resampleSrcs m bi i oc with
  | [] => fp32F.decode (Config.emptyInput ((bi * dM m.desc + i) * dN m.desc + oc)).toNat
  | es => sumNum (es.map fun e => e.2.mul (s.srcVal e.1))

/-- Weight of one unit of the lane accumulators of m.pool and m.resample (R54, R213, R217). -/
def MI.laneBase (m : MI) : Int :=
  let b := baseOf (dFmtA m.desc)
  if dOp m.desc = opDw then m.base
  else if dOp m.desc = opResample then b + (match cvMode (recD m.recs roleConv) with | 0 => 0 | 1 => -16 | _ => 2 * baseOf 3)
  else b

/-- The accumulator that a lane holds for output (i, oc) of the depth-wise path; none for a maximum, which sums nothing
(R213-R217). -/
def State.laneAcc (s : State) (m : MI) (bi i oc : Nat) : Option Acc :=
  let add (x : Acc) (w v : Num) : Acc := x.addProd m.laneBase false w v
  if dOp m.desc = opDw then some (s.dwAcc m bi i oc)
  else if dOp m.desc = opPool then
    if cvMode (recD m.recs roleConv) = 0 then none
    else some ((poolSrcs m bi i oc).foldl (fun x v => add x (.num false 1 1 0) (s.srcVal v)) Acc.zero)
  else if dOp m.desc = opResample then
    some ((s.resampleSrcs m bi i oc).foldl (fun x e => add x e.2 (s.srcVal e.1)) Acc.zero)
  else none

/-- Source of element (i, j) of A of m.copy and m.sample (R138, R228, log 32, DEDUCED). -/
def copySrc (m : MI) (bi i j : Nat) : Src :=
  let f := dFmtA m.desc
  ⟨rowAddr (recD m.recs roleA) bi i, j, f, if isMx f then some (rowAddr (recD m.recs roleScaleA) bi i + j / 32) else none⟩

/-! ### m.mm2 -/

/-- What the welt makes of a row: values before rounding, the rounding point, statistics. -/
structure RowRes where
  ys : List Num
  k : Nat
  stats : Option (Num × Num)

/-- The exact score input of the welt for column k of a block, row r of a tile: αs, with b in chains 21 to 23; none where
masked (R176, R178). -/
def State.score (s : State) (c : Nat) (m : MI) (t : Tile) (r j col : Nat) : Option Num :=
  let k := 64 * j + col
  let v := if m.groups = 0 then Num.zero else (tget Acc.zero (s.core c).acc (m.accAt t r 0 col)).value m.base
  let x := m.alpha.mul v
  if dChain m.desc = 20 ∧ (m.rowIx t r : Int) + m.maskOff < k then none
  else if dChain m.desc ≤ 20 then some x else some (x.add (s.biasVal m k))

/-- The accumulators of O of row r, column by column. -/
def State.rowO (s : State) (c : Nat) (m : MI) (t : Tile) (r : Nat) : List Acc :=
  (List.range (m.cols s)).map fun col =>
    if t.loads = 0 then Acc.zero else tget Acc.zero (s.core c).acc (m.accAt t r (1 + col / 64) (col % 64))

/-- The welt takes the scores of block j of row r: the row between its blocks, its O, and rebases (R176, R178). -/
def State.takeRow (s : State) (c : Nat) (m : MI) (t : Tile) (r j : Nat) : AttnRow × List Acc × Nat :=
  let bi := (m.at_ t).1.1
  let xs := (List.range (s.blockLen m bi j)).map fun col => s.score c m t r j col
  let st := (t.rows2.find? fun x => decide (x.row = r)).getD (AttnRow.start r)
  let ch := dChain m.desc
  if ch = 19 ∨ ch = 20 then st.block m.fmtP (m.base2 s) xs (s.rowO c m t r)
  else
    let vs := xs.map fun x => x.getD .zero
    let hs := if dStepwise m.desc then m.stepHidden ch ((bi * dM m.desc + m.rowIx t r) * dN m.desc + 64 * j) vs else m.hidden ch vs
    ({ st with p := hs }, s.rowO c m t r, 0)

/-- The welt takes score blocks of a tile until n of them are taken (R175). -/
def State.takeBlocks (s : State) (c : Nat) (m : MI) (t : Tile) (n : Nat) : State × Tile :=
  (List.range (n - t.blk)).foldl (fun (e : State × Tile) _ =>
    let (s, t) := e
    let j := (m.scoreBlocks s t).getD t.blk 0
    let rows := (List.range (m.tileRows t)).map fun r => s.takeRow c m t r j
    let acc := rows.foldl (fun acc x =>
      if x.2.2 = 0 then acc
      else x.2.1.zipIdx.foldl (fun acc o => tput acc (m.accAt t x.1.row (1 + o.2 / 64) (o.2 % 64)) o.1) acc) (s.core c).acc
    let s := s.modCore c fun k => { k with acc := acc }
    (s.count evWeltRebase (.core c) (s.miStrm m) (rows.map fun x => x.2.2).sum,
      { t with blk := t.blk + 1, rows2 := rows.map fun x => x.1 })) (s, t)

/-- Row r of m.mm2 once every block has passed (R176, R178). -/
def State.mm2Row (s : State) (c : Nat) (m : MI) (t : Tile) (r : Nat) : RowRes :=
  let os := s.rowO c m t r
  let base := m.base2 s
  if dChain m.desc ≤ 20 then
    let (ys, lg) := ((t.rows2.find? fun x => decide (x.row = r)).getD (AttnRow.start r)).finish base os
    ⟨ys, 0, some (lg, .zero)⟩
  else
    ⟨os.map fun x => let v := x.value base; if v.isFin then plusZero v else v, if dStepwise m.desc then 3 else 0, none⟩

/-! ### One row -/

/-- Element number of (bi, i, j) in OUT (R221). -/
def MI.elNo (s : State) (m : MI) (bi i j : Nat) : Nat := (bi * dM m.desc + i) * m.cols s + j

/-- Values of a tile's row r for element-wise chains, from P of each column of the tile. -/
def State.plainRow (s : State) (m : MI) (bi i j0 : Nat) (ps : List Num) : RowRes :=
  let ch := dChain m.desc
  let xs := ps.zipIdx.map fun e => s.xOf m e.1 (j0 + e.2)
  let gs := (List.range ps.length).map fun t => if chainGate ch then s.gateVal m bi i (j0 + t) else .num false 1 1 0
  if dStepwise m.desc && decide (ch ≠ 0) && decide (ch ≠ 1) && decide (ch ≠ 7) then
    let (ys, k) := m.stepElems ch (m.elNo s bi i j0) xs gs
    ⟨ys, k, none⟩
  else ⟨(xs.zip gs).map fun e => weltElem ch e.1 e.2, 0, none⟩

/-- The member tiles of row i of batch bi that cores of this device hold, in member order. -/
def State.membersOf (s : State) (m : MI) (bi i : Nat) : List (Nat × Tile) :=
  let ms := (s.tilesOf m).filter fun e =>
    let b := (m.at_ e.2).1
    decide (b.1 = bi) && decide (b.2.1 = i / m.tm)
  (List.range m.team).filterMap fun k => ms.find? fun e => decide ((m.at_ e.2).2.2 = k)

/-- The accumulators of row r of a tile, column by column, with the upset of the readout applied (R58). -/
def State.rowAccs (s : State) (c : Nat) (m : MI) (t : Tile) (r : Nat) (upset : Option Upset) : List Acc :=
  (List.range (m.tileCols s t).2).map fun j =>
    let x := s.accOf c m t r (j / 64) (j % 64)
    match upset with
    | some u => if j = u.col.toNat then x.flip u.bit else x
    | none => x

/-- The whole row of x that a team's accumulators hold (R171). -/
def State.teamXs (s : State) (m : MI) (bi i : Nat) : List Num :=
  ((s.membersOf m bi i).flatMap fun e => s.rowAccs e.1 m e.2 (i % m.tm) none).zipIdx.map fun e => s.xOf m (e.1.value m.base) e.2

/-- Row i of chains 14 to 18 from the statistics the cluster welt holds: w columns from j0 on. -/
def State.teamRowRes (s : State) (m : MI) (bi i j0 w : Nat) (tr : TeamRow) : RowRes :=
  let ch := dChain m.desc
  let xs := s.teamXs m bi i
  let gs := (List.range (dN m.desc)).map fun j => if ch = 18 then s.gateVal m bi i j else .num false 1 1 0
  let cut (ys : List Num) : List Num := (ys.drop j0).take w
  if dStepwise m.desc then
    let (ys, k, a, b) := m.stepRow ch (m.elNo s bi i 0) tr.stat xs gs
    ⟨cut ys, k, some (a, b)⟩
  else
    let (ys, a, b) := rowChain ch tr.stat tr.odd xs m.eps (cut xs) (cut gs)
    ⟨ys, 0, some (a, b)⟩

/-- The statistics of a row, if the cluster welt holds them. -/
def MI.teamRow (m : MI) (bi i : Nat) : Option TeamRow :=
  m.teamRows.find? fun r => decide (r.batch = bi) && decide (r.row = i)

/-- Row r of a tile: its values, or none where the statistics are not there yet. -/
def State.rowRes (s : State) (c : Nat) (m : MI) (t : Tile) (r : Nat) : Option RowRes :=
  let bi := (m.at_ t).1.1
  let (j0, w) := m.tileCols s t
  let i := m.rowIx t r
  let op := dOp m.desc
  let cols (f : Nat → Num) : List Num := (List.range w).map fun j => f (j0 + j)
  if op = opMm2 then some (s.mm2Row c m t r)
  else if op = opSample then some ⟨[], 0, none⟩
  else if op = opCopy then
    some ⟨cols fun j => let v := s.srcVal (copySrc m bi i j); if v.isFin then plusZero v else v, 0, none⟩
  else if op = opPool then
    some ⟨cols fun j => let v := s.poolVal m bi i j; if v.isFin then plusZero v else v, 0, none⟩
  else if op = opResample then
    some ⟨cols fun j => let v := s.resampleVal m bi i j; if v.isFin then plusZero v else v, 0, none⟩
  else if op = opDw then some (s.plainRow m bi i j0 (cols fun j => (s.dwAcc m bi i j).value m.base))
  else if classR m.desc then (m.teamRow bi i).map (s.teamRowRes m bi i j0 w)
  else some (s.plainRow m bi i j0 ((s.rowAccs c m t r none).map fun x => x.value m.base))

/-! ### Poison under a row (R279) -/

/-- Spans of memory that the readout of row r reads: row operands of the welt, and for work off the arrays its inputs. -/
def State.rowSpans (s : State) (m : MI) (t : Tile) (r : Nat) : List (Nat × Nat) :=
  let bi := (m.at_ t).1.1
  let (j0, w) := m.tileCols s t
  let i := m.rowIx t r
  let op := dOp m.desc
  let d := m.desc
  let gate := match recOf m.recs roleGate with
    | some g => [(rowAddr g bi i + j0 * fmtBits (rFmt g) / 8, rowBytes (rFmt g) w)]
    | none => []
  let bias := match recOf m.recs roleBias with
    | some b => [(rAddr b, rowBytes (rFmt b) (dN d))]
    | none => []
  let own : List (Nat × Nat) :=
    if op = opMm2 then []
    else if op = opCopy then (List.range w).flatMap fun j => Src.spans (copySrc m bi i (j0 + j))
    else if op = opSample then (List.range (dN d)).flatMap fun j => Src.spans (copySrc m bi i j)
    else if op = opPool then (List.range w).flatMap fun j => (poolSrcs m bi i (j0 + j)).flatMap Src.spans
    else if op = opResample then (List.range w).flatMap fun j => (s.resampleSrcs m bi i (j0 + j)).flatMap fun e => e.1.spans
    else if op = opDw then (List.range w).flatMap fun j => (dwSrcs m bi i (j0 + j)).flatMap fun e => e.1.spans
    else []
  own ++ gate ++ bias

/-- Poison that stops the readout of row r before its values are formed (R279). -/
def State.rowErr (s : State) (m : MI) (t : Tile) (r : Nat) : Refused :=
  (s.spanPoison (s.rowSpans m t r)).map fun ln => (eStackUe, poisonName ln)

/-- What stops a load: a fault of the reads of the positions it takes, or a poisoned line under its operands (R279, R291,
R292). -/
def State.loadFault (s : State) (m : MI) (t : Tile) (l : Nat) : Refused :=
  let bi := (m.at_ t).1.1
  let kv := match m.loadAt s t l with
    | some x =>
      if hasRole m.recs rolePool then
        let poss := (List.range (s.blockLen m bi x.jblk)).map fun i => 64 * x.jblk + i
        orCheck (s.kvErr (t.entsOf x.jblk) m.recs bi poss) fun _ =>
          let p := s.pool (poolIdx m.recs)
          (s.spanPoison (poss.flatMap fun pos => (List.range (if x.second then pValRow p else pKeyRow p)).filterMap fun o =>
            match s.kvByteAddr (t.entsOf x.jblk) m.recs bi pos o x.second with
            | .ok a => some (a, 1)
            | .error _ => none)).map fun ln => (eStackUe, poisonName ln)
      else none
    | none => none
  orCheck kv fun _ => (s.loadPoisoned m t l).map fun ln => (eStackUe, poisonName ln)

/-! ### What a row writes -/

/-- Address of row i of OUT. -/
def outAddr (m : MI) (bi i : Nat) : Nat :=
  let r := recD m.recs roleOut
  if isConvFam m.desc then
    let (t, y, x) := convPos m.desc (recD m.recs roleConv) i
    imageAddr r bi t y x
  else rowAddr r bi i

/-- The two words of a STATS record. -/
def statBytes (a b : Num) : List Byte := leBytes 4 (to32 .near a) ++ leBytes 4 (to32 .near b)

/-- The progress unit of row i, column j (R478). -/
def MI.unitOf (s : State) (m : MI) (bi i j : Nat) : Nat :=
  (bi * ceilDiv (dM m.desc) 4 + i / 4) * ceilDiv (m.cols s) 64 + j / 64

/-- Round row r of a tile and collect what it writes (R69, R88, R173, R313, R314). Elements of units that a restored image
already holds are not classified again. -/
def State.rowOut (s : State) (m : MI) (t : Tile) (r : Nat) (x : RowRes) : RowOut :=
  let ((bi, _, _), _, mem) := m.at_ t
  let (j0, _) := m.tileCols s t
  let i := m.rowIx t r
  let fo := dFmtOut m.desc
  let (cs, ss) := m.roundRow fo x.k (m.elNo s bi i j0) x.ys
  let vs := rowValues fo cs ss
  let odd (y v : Num) : Num := if isIntFmt fo && !y.isFin then .nan else v
  let stats := match recOf m.recs roleStats, x.stats with
    | some sr, some (a, b) => if mem = 0 then [(rowAddr sr bi i, statBytes a b)] else []
    | _, _ => []
  let scale := if isMx fo then [(rowAddr (recD m.recs roleScaleOut) bi i + j0 / 32, ss.map (BitVec.ofNat 8))] else []
  ⟨r, if x.ys.isEmpty then stats else (outAddr m bi i + j0 * fmtBits fo / 8, packRow fo cs) :: scale ++ stats,
    if dHistEn m.desc then
      ((x.ys.zip vs).zipIdx.filter fun e => !m.units.contains (m.unitOf s bi i (j0 + e.2))).map
        fun e => histBin (dHistLo m.desc) (odd e.1.1 e.1.2)
    else [],
    if vs.any fun v => !v.isZero then [bi * ceilDiv (dM m.desc) 256 + i / 256] else [], false⟩

/-- Outcome of row i of m.sample (R230). -/
def State.sampleOut (s : State) (m : MI) (bi i : Nat) : SampleOut :=
  let w := drawWords m.seed m.cstream (bi * dM m.desc + i) (dDraw m.desc) 2
  sampleRow m.sampleArgs ((List.range (dN m.desc)).map fun j => s.srcVal (copySrc m bi i j))
    (w.x1.toNat * 2 ^ 32 + w.x0.toNat)

/-- What a row of m.sample writes (R228, R231). -/
def sampleRowOut (m : MI) (bi i : Nat) (o : SampleOut) : RowOut :=
  let stats := match recOf m.recs roleStats with
    | some sr => [(rowAddr sr bi i, statBytes o.prob o.cnt)]
    | none => []
  ⟨0, (rowAddr (recD m.recs roleOut) bi i, leBytes 4 (o.tok.getD 0xFFFFFFFF)) :: stats, [], [], o.tok.isNone⟩

end Sys2Proof.Machine
end

