-- ==== Sys2Proof/Machine/Fetch.lean ====
section
/-! DEFINITION. Lines of other devices that macro-instructions read, as RDL packets (R279, R362-R366). -/

namespace Sys2Proof.Machine

/-- Whether lines that a step reads are here. -/
inductive Fetch where
  | ready (s : State)
  | wait (s : State)
  | failed (s : State) (code : Code) (name : W64)

/-- Global line numbers of spans of bytes that lie on other devices. -/
def State.farLines (s : State) (spans : List (Nat × Nat)) : List Nat :=
  firstOnly [] ((spans.filter fun e => decide (e.1 / 2 ^ 48 ≠ s.own) && decide (0 < e.2)).flatMap fun e =>
    (List.range ((e.1 + e.2 - 1) / 128 + 1 - e.1 / 128)).map fun i => e.1 / 128 + i)

/-- The record of a line that a use reads. -/
def State.farLine (s : State) (u : FarUse) (n : Nat) : Option FarLine :=
  s.farBuf.find? fun l => decide (l.use = u) && decide (l.line = n)

/-- A line of a use is asked for. -/
def State.farAsked (s : State) (u : FarUse) (n : Nat) : State :=
  let mine (l : FarLine) : Bool := decide (l.use = u) && decide (l.line = n)
  { s with farBuf := (s.farBuf.filter fun l => !mine l) ++ [⟨u, n, true, none⟩] }

/-- Ask for the lines of a use that are not asked for yet, one RDL each, in order (R362). A wait for a tag or for a held line is
counted once, when it begins (R153, R361). -/
def State.askLines (s : State) (u : FarUse) (c : Nat) : List Nat → Fetch
  | [] => .ready s
  | n :: t =>
    let old := s.farLine u n
    if old.any FarLine.asked then s.askLines u c t
    else
      match s.request 0x02 (n * 128 / 2 ^ 48) (n * 128 % 2 ^ 48) 0 0 [] (.farRead u n) with
      | .sent _ s => (s.farAsked u n).askLines u c t
      | .failed e => .failed s e (nameW 8 (n * 128))
      | .held q =>
        if old.isSome then .wait s
        else
          let s : State := if q = 8 then s.countDev evFabLineHold else s.countQ evHeldAtBound (.core c) none 5 1
          .wait { s with farBuf := s.farBuf ++ [⟨u, n, false, none⟩] }

/-- The lines of other devices among the spans that a use reads: once all are here, the use reads its own (R362). -/
def State.fetchLines (s : State) (u : FarUse) (c : Nat) (spans : List (Nat × Nat)) : Fetch :=
  let ns := s.farLines spans
  if ns.isEmpty then .ready s
  else
    match s.askLines u c ns with
    | .ready s =>
      let mine (l : FarLine) : Bool := decide (l.use = u)
      if ns.all fun n => (s.farLine u n).any fun l => l.got.isSome then
        .ready { s with farBuf := s.farBuf.filter mine ++ s.farBuf.filter fun l => !mine l }
      else .wait s
    | r => r

/-- Every operand of a macro-instruction lies on this device. -/
def State.allHere (s : State) (m : MI) : Bool := m.recs.all fun r => decide (rAddr r / 2 ^ 48 = s.own)

/-- A use of a macro-instruction. -/
def MI.use (m : MI) (p : FarPart) : FarUse := ⟨m.home, m.strm, m.ticket, p⟩

/-- Memory that the scans read (R151, R238, R295, R315). -/
def scanSpans (m : MI) : List (Nat × Nat) :=
  (m.recs.filter fun r => [roleIndex, rolePool, rolePresIn].contains (rRole r)).map (fun r => (rAddr r, rExtent r)) ++
  (if isVq m.desc then
     let r := recD m.recs roleB
     (List.range (dBatch m.desc)).map fun bi => (rAddr r + bi * rBatch r, 8 * (ceilDiv (dN m.desc) 64 * m.groups))
   else [])

/-- The lines that the scans of a macro-instruction read are here: kept while it runs. -/
def State.fetchScan (s : State) (m : MI) (c : Nat) : Fetch :=
  if s.allHere m then .ready s else s.fetchLines (m.use .scan) c (scanSpans m)

/-- The lines that a step of a macro-instruction reads are here, those of its scans first. -/
def State.fetchFor (s : State) (m : MI) (c : Nat) (p : FarPart) (spans : State → List (Nat × Nat)) : Fetch :=
  if s.allHere m then .ready s
  else
    match s.fetchScan m c with
    | .ready s => s.fetchLines (m.use p) c (spans s)
    | r => r

/-- A line of another device is here (R363). -/
def State.farGot (s : State) (u : FarUse) (n : Nat) (bs : List Byte) : State :=
  { s with farBuf := s.farBuf.map fun l => if l.use = u ∧ l.line = n then { l with got := some bs } else l }

/-- A line of another device cannot be read: the macro-instruction faults, and the tile that asked writes nothing (R279, R366). -/
def State.farFailed (s : State) (u : FarUse) (code : Code) (name : W64) : State :=
  match s.findMi u.home.toNat u.strm u.ticket with
  | none => s
  | some m =>
    if m.faulted || !s.farBuf.any (fun l => decide (l.use = u)) then s
    else
      match (s.tilesOf m).find? fun e => decide (u.part.tile = some e.2.idx) with
      | some (c, t) => s.tileFault c m t code name
      | none =>
        let s := s.miFault m m.core.toNat code name
        if m.here then s.removeMi m else s

end Sys2Proof.Machine
end

