-- ==== Sys2Proof/Machine/Spill.lean ====
section
/-! DEFINITION. Leaf sections of a dirty image (R119, R477): accumulator entries, and in the tail the tile progress with its
team statistics and check state. The places inside the tail are this model's (log 42, DESIGN CHOICE). -/

namespace Sys2Proof.Machine

/-- Accumulator entries of a leaf section, 80 bytes each. -/
abbrev imgAcc : Nat := 16384 * 80
/-- Leaf section: 1,344 KiB (R119). -/
abbrev imgLeaf : Nat := imgAcc + 65536
/-- Place in the tail of the context record, after the blocks. -/
abbrev tailCtx : Nat := 16384
/-- Place in the tail of the tile progress. -/
abbrev tailTiles : Nat := tailCtx + 8704
/-- Place in the tail of a word of the shape list. -/
abbrev tailShape : Nat := 65534

/-! ### Accumulators -/

/-- An accumulator entry: 76 bytes of A, its flags and residue, 3 reserved. -/
def Acc.bytes (x : Acc) : List Byte :=
  leBytes 76 x.a.toNat ++ [BitVec.ofNat 8 (b2n x.nan + 2 * b2n x.pinf + 4 * b2n x.ninf + 8 * x.res.toNat), 0, 0, 0]

/-- The accumulator of 80 bytes. -/
def Acc.ofBytes (b : List Byte) : Acc :=
  let f := leNat ((b.drop 76).take 1)
  ⟨BitVec.ofNat 608 (leNat (b.take 76)), decide (f % 2 = 1), decide (f / 2 % 2 = 1), decide (f / 4 % 2 = 1), BitVec.ofNat 3 (f / 8)⟩

/-- An accumulator in a notice: A, flags, residue. -/
def Acc.wire (x : Acc) : BitVec 614 :=
  BitVec.ofNat 614 (x.a.toNat + 2 ^ 608 * (b2n x.nan + 2 * b2n x.pinf + 4 * b2n x.ninf + 8 * x.res.toNat))

/-- The accumulator of a notice. -/
def Acc.ofWire (w : BitVec 614) : Acc :=
  ⟨BitVec.ofNat 608 (bits w 0 608), bit w 608, bit w 609, bit w 610, BitVec.ofNat 3 (bits w 611 3)⟩

/-! ### Tile progress -/

/-- A signed number in n words of 64 bits. -/
def intWords (n : Nat) (v : Int) : List Nat := (List.range n).map fun i => wrapNat (64 * n) v / 2 ^ (64 * i) % 2 ^ 64

/-- The signed number of some words. -/
def wordsInt (ws : List Nat) : Int := signed (64 * ws.length) ((ws.zipIdx.map fun e => e.1 * 2 ^ (64 * e.2)).sum)

/-- A row of m.mm2 as words. -/
def AttnRow.words (r : AttnRow) : List Nat :=
  [r.row, b2n r.m.isSome] ++ intWords 1 (r.m.getD 0) ++ intWords 4 r.l ++ [b2n r.odd, r.p.length] ++
  (chunksOf 4 (r.p.length + 1) r.p).map fun l => (l.zipIdx.map fun e => e.1 % 2 ^ 16 * 2 ^ (16 * e.2)).sum

/-- A row of m.mm2 from words, and the words after it. -/
def AttnRow.ofWords (ws : List Nat) : AttnRow × List Nat :=
  let n := ws.getD 8 0
  let k := ceilDiv n 4
  (⟨ws.getD 0 0, if ws.getD 1 0 = 1 then some (wordsInt [ws.getD 2 0]) else none, wordsInt ((ws.drop 3).take 4),
    decide (ws.getD 7 0 = 1), (List.range n).map fun i => (ws.drop 9).getD (i / 4) 0 / 2 ^ (16 * (i % 4)) % 2 ^ 16⟩, ws.drop (9 + k))

/-- A W value as words. -/
def wWords (w : WVal) : List Nat := intWords 1 w.1 ++ intWords 1 w.2

/-- Statistics of a team row as words (R174). -/
def TeamRow.words (r : TeamRow) : List Nat :=
  [r.batch, r.row, b2n r.odd, r.stat.n] ++ wWords r.stat.mean ++ wWords r.stat.m2 ++ wWords r.stat.mx ++ wWords r.stat.se ++ wWords r.stat.sq

/-- Statistics of a team row from 14 words. -/
def TeamRow.ofWords (ws : List Nat) : TeamRow :=
  let w (k : Nat) : WVal := (wordsInt [ws.getD (4 + 2 * k) 0], wordsInt [ws.getD (5 + 2 * k) 0])
  ⟨ws.getD 0 0, ws.getD 1 0, ⟨ws.getD 3 0, w 0, w 1, w 2, w 3, w 4⟩, decide (ws.getD 2 0 = 1)⟩

/-- The progress of a stopped tile: ticket, number of R145 with its member, tile shape, loads, score blocks, verdict owed, rows
of m.mm2, and the statistics that the cluster welt holds for it. -/
structure TileSave where
  ticket : W64
  number : Nat
  shape : List Nat
  loads : Nat
  blk : Nat
  katOwed : Bool
  rows2 : List AttnRow
  team : List TeamRow

/-- The tile shape that progress belongs to. -/
def MI.shapeKey (m : MI) : List Nat := [m.tm, m.tk, m.chunks, m.parts, m.team]

/-- Number and member of a published tile, as images and other devices name it. -/
def MI.numberOf (m : MI) (t : Nat) : Nat := m.tileNo (t / m.team) * m.team + t % m.team

/-- The published index of a number. -/
def MI.indexOf (m : MI) (k : Nat) : Nat := ((List.range m.total).find? fun t => decide (m.numberOf t = k)).getD k

/-- Progress of a tile. -/
def MI.saveTile (m : MI) (t : Tile) : TileSave :=
  let (bi, im, _) := (m.at_ t).1
  ⟨m.ticket, m.numberOf t.idx, m.shapeKey, t.loads, t.blk, t.katOwed, t.rows2,
    m.teamRows.filter fun r => decide (r.batch = bi) && decide (r.row / m.tm = im)⟩

/-- Progress as words. -/
def TileSave.words (x : TileSave) : List Nat :=
  [x.ticket.toNat, x.number] ++ x.shape ++ [x.loads, x.blk, b2n x.katOwed, x.rows2.length, x.team.length] ++
  x.rows2.flatMap AttnRow.words ++ x.team.flatMap TeamRow.words

/-- Progress from words, and the words after it. -/
def TileSave.ofWords (ws : List Nat) : TileSave × List Nat :=
  let (rows, rest) := (List.range (ws.getD 10 0)).foldl (fun (e : List AttnRow × List Nat) _ =>
    let (r, t) := AttnRow.ofWords e.2
    (e.1 ++ [r], t)) ([], ws.drop 12)
  let n := ws.getD 11 0
  (⟨BitVec.ofNat 64 (ws.getD 0 0), ws.getD 1 0, (ws.drop 2).take 5, ws.getD 7 0, ws.getD 8 0, decide (ws.getD 9 0 = 1), rows,
    (List.range n).map fun k => TeamRow.ofWords (rest.drop (14 * k))⟩, rest.drop (14 * n))

/-- The tile progress of a tail: a count, then the tiles. -/
def tilesBytes (l : List TileSave) : List Byte := (l.length :: l.flatMap TileSave.words).flatMap (leBytes 8)

/-- The tiles of a leaf section's tail. -/
def tilesOfTail (b : List Byte) : List TileSave :=
  let ws := (List.range ((tailShape - tailTiles) / 8)).map fun k => leNat ((b.drop (tailTiles + 8 * k)).take 8)
  ((List.range (min (ws.headD 0) 4)).foldl (fun (e : List TileSave × List Nat) _ =>
    let (x, t) := TileSave.ofWords e.2
    (e.1 ++ [x], t)) ([], ws.drop 1)).1

/-- The accumulators of a leaf section. -/
def accsOfLeaf (b : List Byte) : Table Acc :=
  (List.range 16384).filterMap fun k =>
    let x := Acc.ofBytes ((b.drop (80 * k)).take 80)
    if x = Acc.zero then none else some (k, x)

/-- The core comes to a tile whose accumulators were read back: they go into its entries. -/
def State.reload (s : State) (c : Nat) (t : Tile) : State × Tile :=
  match t.saved with
  | none => (s, t)
  | some acc => (s.modCore c fun k => { k with acc := acc }, { t with saved := none })

end Sys2Proof.Machine
end

