-- ==== Sys2Proof/Machine/Restart.lean ====
section
/-! DEFINITION. Macro-instructions of a stream that goes on after a pause: tiles and parts given back, and the loader's second
look at a restored macro-instruction (R119, R143, R148, R478, R479, log 42, DESIGN CHOICE). -/

namespace Sys2Proof.Machine

/-- Whether a leaf set holds a fenced core; cores of other devices answer as they do when asked (R455, log 14, DESIGN CHOICE). -/
def State.anyFenced (s : State) (ls : List (Nat × Nat)) : Bool :=
  ls.any fun l => if l.1 = s.own then s.coreFenced l.2 else Config.remoteFenced s.freeCtr l.1 l.2

/-- Advance past the answers of other devices. -/
def State.askedFar (s : State) (ls : List (Nat × Nat)) : State := if (s.farDevs ls).isEmpty then s else s.takeFree

/-- Withhold the tiles whose progress units are all set (R479). -/
def MI.skipDone (s : State) (m : MI) : MI :=
  m.publishOnly fun b => !(m.blockUnits s b).all fun u => m.units.contains u

/-- A macro-instruction of a restored image is not published: it has no tile shape yet. -/
def MI.unpublished (m : MI) : Bool := decide (m.team = 0)

/-- The refusal of a restored macro-instruction (R479): its unit, fenced cores, and the checks of R150 but for those of
where its descriptor lay. -/
def State.restoredErr (s : State) (m : MI) (ls : List (Nat × Nat)) : Refused :=
  firstOf [
    refuseIf (decide (s.handleErr m.handle ≠ 0)) (s.handleErr m.handle) (nameW 5 m.handle.toNat),
    refuseIf (s.anyFenced ls) eCoreFenced 0,
    s.checkDesc stackLo m.desc,
    s.checkRecs m.core.toNat m.desc m.recs ls]

/-- Publish a restored macro-instruction: the loader checks it again, and it waits while its Last has no counter (R153,
R479). -/
def State.publishRestored (s : State) (m : MI) : State :=
  let ls := s.leavesOf m.handle
  if decide (s.handleErr m.handle = 0) && ls.isEmpty then
    s.removeMi m
  else
    let c := m.core.toNat
    match s.restoredErr m ls with
    | some (e, w) =>
      ((s.askedFar ls).count evLoaderRefused (.cluster (c / 16)) (s.miStrm m) 1).miFault m c e w
    | none =>
      let s := s.askedFar ls
      let m2 := { m with leaves := ls, stopped := false }
      match s.shape c m.desc m.recs ls, s.freeSlot (s.lastOf ls) with
      | some sh, some _ =>
        let pool := if hasRole m.recs rolePool then some (poolIdx m.recs) else none
        let s := match pool with
          | some p => s.modPool p fun x => { x with users := x.users + 1 }
          | none => s
        s.modMi m.home.toNat m.strm m.ticket fun _ => { ((m2.placed s).withShape s sh).skipDone s with pool := pool }
      | _, _ => s.modMi m.home.toNat m.strm m.ticket fun x => { x with stopped := false }

/-- A split macro-instruction whose merge slots a prompt pause released is published again from the start, in the shape it has
(R143, R155, R478); its blocks that are whole are withheld. It waits while the device has too few free slots. -/
def State.republish (s : State) (m : MI) : State :=
  let out := m.nm * m.nn * dBatch m.desc
  let free := s.freeMerge
  if free.length < out then s.modMi m.home.toNat m.strm m.ticket fun x => { x with stopped := false }
  else
    s.modMi m.home.toNat m.strm m.ticket fun x =>
      { ({ x with total := out * x.parts * x.team, next := 0, returned := [], out := [], retired := 0, pub := none, mergeDone := [],
                  mergeSlots := (List.range out).zip free }).skipDone s with stopped := false }

/-- A split macro-instruction of this device's counters that has tiles left and no merge slots. -/
def MI.slotless (m : MI) : Bool := m.here && decide (1 < m.parts) && m.mergeSlots.isEmpty && decide (m.retired < m.total)

/-- A macro-instruction of a resumed stream goes on. -/
def State.resumeMi (s : State) (m : MI) : State :=
  if m.unpublished then s.publishRestored m
  else if m.slotless then s.republish m
  else s.modMi m.home.toNat m.strm m.ticket fun x => { x with stopped := false }

/-- Restored macro-instructions of running streams that wait for a counter, and split ones that wait for merge slots, try
again. -/
def State.retryHeld (s : State) : State :=
  (s.mis.filter fun m => (m.unpublished || m.slotless) && !m.stopped && !m.faulted).foldl (fun s m => s.resumeMi m) s

/-- A prompt pause releases the merge slots of a split macro-instruction: parts of output blocks that are not whole are lost
(R142, R143, R478). -/
def State.releaseParts (s : State) (m : MI) : State :=
  if m.parts ≤ 1 then s
  else (m.mergeSlots.foldl (fun s e => s.clearMerge e.2) s).modMi m.home.toNat m.strm m.ticket fun x =>
    { x with mergeSlots := [], mergeDone := [] }

/-- A tile whose progress a prompt pause keeps: it has started and is no part of a split reduction, whose merge is lost anyway
(R119, R478; log 42, DESIGN CHOICE). -/
def MI.keeps (m : MI) (t : Tile) : Bool := t.started && decide (m.parts ≤ 1)

/-- The tiles of a macro-instruction that a prompt pause stops at the next load boundary, with their cores (R119). A tile whose
rows are all read out, with its team, is past its loads and retires. -/
def State.stoppedTiles (s : State) (m : MI) : List (Nat × Tile) :=
  (s.tilesOf m).filter fun e => (s.mates m e.2).any fun x => !m.isRead x.2

/-- Tiles of core c whose progress its leaf section records when stream i of device `home` stops promptly. -/
def State.savedTiles (s : State) (home : Nat) (i : StreamId) (c : Nat) : List TileSave :=
  (s.mis.filter fun m => decide (m.home.toNat = home) && decide (m.strm = i) && !m.faulted).flatMap fun m =>
    ((s.stoppedTiles m).filter fun e => decide (e.1 = c) && (s.mates m e.2).any fun x => m.keeps x.2).map fun e => m.saveTile e.2

/-- A prompt pause takes the stopped tiles of a macro-instruction from their cores: those without progress go back to the
counter, which reissues them (R119, R148). -/
def State.returnTiles (s : State) (m : MI) : State :=
  let ts := s.stoppedTiles m
  let back := (ts.filter fun e => (s.mates m e.2).all fun x => !m.keeps x.2).map fun e => e.2.idx
  let s1 := ts.foldl (fun s e => s.dropTile e.1 e.2) s
  s1.modMi m.home.toNat m.strm m.ticket fun x =>
    { x with returned := x.returned ++ back, teamRows := x.teamRows.filter fun r => !(ts.any fun e =>
        let b := (m.at_ e.2).1
        decide (r.batch = b.1) && decide (r.row / m.tm = b.2.1)) }

/-- A stopped tile goes on in its core from its progress, where its macro-instruction still has the shape the progress was made
under and has not written the tile (R119, R479). -/
def State.takeBack (s : State) (home : Nat) (i : StreamId) (c : Nat) (acc : Table Acc) (x : TileSave) : State :=
  match s.findMi home i x.ticket with
  | none => s
  | some m =>
    if m.unpublished || decide (m.shapeKey ≠ x.shape) || m.faulted || decide (m.numberOf (m.indexOf x.number) ≠ x.number) then s
    else
      let t := { Tile.new m (m.indexOf x.number) with
        started := true, loads := x.loads, blk := x.blk, rows2 := x.rows2, saved := some acc,
        katOwed := x.katOwed && decide ((s.core c).rif.kat = .running) }
      let s := s.modMi home i x.ticket fun y =>
        { y with
          returned := y.returned.filter fun k => decide (k ≠ t.idx)
          taken := if y.next ≤ t.idx then t.idx :: y.taken else y.taken
          teamRows := y.teamRows ++ x.team.filter fun r => !y.teamRows.contains r }
      s.modCore c fun k => { k with tiles := t :: k.tiles }

/-- The tiles recorded in a leaf section go on in core c. -/
def State.takeLeaf (s : State) (home : Nat) (i : StreamId) (c : Nat) (b : List Byte) : State :=
  let acc := accsOfLeaf b
  (tilesOfTail (b.drop imgAcc)).foldl (fun s x => s.takeBack home i c acc x) s

end Sys2Proof.Machine
end

