-- ==== Sys2Proof/Machine/Tiles.lean ====
section
/-! DEFINITION. ORDER_WAIT_MET, TILE_CLAIM, RANGE_CLAIM, LOAD_FRONT, READOUT, TEAM_STATS_COMBINE, TILE_RETIRE and
MI_RETIRE (R83-R88, R136, R142-R149, R170-R174, R314, R315, R365, log 39, DEDUCED, log 40, DESIGN CHOICE). -/

namespace Sys2Proof.Machine

/-! ### Order waits and scans -/

/-- Run the scans of a macro-instruction whose order wait is met: a refusal faults the stream and the macro-instruction
retires faulted (R126); PRES_IN withholds tiles (R315). Lines of other devices are read first
(R362); the scans run with the command that finds them here. -/
def State.runScans (s : State) (m : MI) : State :=
  match s.fetchScan m m.core.toNat with
  | .wait s => s
  | .failed s e w => (s.miFault m m.core.toNat e w).removeMi m
  | .ready s =>
  let err := match s.spanPoison (scanSpans m) with
    | some ln => some (eStackUe, poisonName ln)
    | none => s.scanErr m.desc m.recs
  match err with
  | some (e, w) =>
    let s := if e = eStackUe then s else s.count evLoaderRefused (.cluster (m.core.toNat / 16)) (s.miStrm m) 1
    (s.miFault m m.core.toNat e w).removeMi m
  | none =>
    let m2 := if hasRole m.recs rolePresIn then m.publishOnly fun b => !s.absentTile m b else m
    let s := s.modMi m.home.toNat m.strm m.ticket fun _ => { m2 with waiting := false, scanned := true }
    s.count evPresSkipTiles .device none (m.total - m2.total)

/-- ORDER_WAIT_MET: the order wait of R136 is met, the scans of R126 run, and claims may start. Nothing happens while the
wait is not met or once claims may start. -/
def execOrderWaitMet (strm : StreamId) (ticket : W64) (s : State) : Res :=
  match s.hereMi strm ticket with
  | none => .next s
  | some m => if (m.waiting || !m.scanned) && !m.faulted && decide (m.team ≠ 0) && s.orderMet m then .next (s.runScans m) else .next s

/-! ### Claims -/

/-- TILE_CLAIM: a core with room claims and the Last grants one tile (R146, R147); a full core does not claim, and the wait is
counted once, when it begins (R153). -/
def execTileClaim (core : CoreId) (s : State) : Res :=
  let c := core.toNat
  if s.canClaim c then .next ((s.modCore c fun k => { k with claimWait := false }).claim c)
  else if s.up && !s.coreFenced c && decide (4 ≤ (s.core c).tiles.length) && !(s.core c).claimWait &&
    s.mis.any (fun m => m.ready && m.leaves.contains (s.own, c))
  then .next ((s.modCore c fun k => { k with claimWait := true }).countQ evHeldAtBound (.core c) none 3 1)
  else .next s

/-- Take up to n indices of a counter for device dev. -/
def takeRange (dev : Nat) : Nat → MI → List Nat → Nat → MI × List Nat × Nat
  | 0, m, l, k => (m, l, k)
  | n + 1, m, l, k =>
    if m.returned.isEmpty && decide (m.total ≤ m.nextIx) then (m, l, k)
    else
      let (t, again, m) := m.takeIndex
      takeRange dev n { m with out := m.out ++ [(dev, t)] } (l ++ [m.numberOf t]) (k + b2n again)

/-- Serve a range claim of another device (R144, R148): up to 16 tiles, parts of a split reduction among them, none after a
stop. -/
def State.serveRange (s : State) (dev : Nat) (strm : StreamId) (ticket : W64) : State :=
  match s.hereMi strm ticket with
  | some m =>
    if m.ready && m.atDevice && m.leaves.any (fun l => decide (l.1 = dev)) then
      let (m2, l, again) := takeRange dev 16 m [] 0
      let s := s.modMi m.home.toNat strm ticket fun _ => m2
      (s.count evTilesReissued (.cluster (m.core.toNat / 16)) (s.miStrm m) again).send (.range dev strm ticket l)
    else s.send (.range dev strm ticket [])
  | none => s.send (.range dev strm ticket [])

/-- Unstarted tiles this device holds of a counter of another one. -/
def State.unstartedOf (s : State) (m : MI) : Nat :=
  m.returned.length + ((s.tilesOf m).filter fun e => !e.2.started).length

/-- Work of a counter of device dev, held here without tiles yet. -/
def MI.ofWork (w : Work) (home : BitVec 16) (strm : StreamId) : MI :=
  let nm := ceilDiv (dM w.desc) w.tm
  let nn := if classR w.desc ∨ dOp w.desc = opMm2 ∨ dOp w.desc = opSample then 1 else ceilDiv (dN w.desc) 64
  let total := nm * nn * dBatch w.desc * w.parts * w.team
  { strm := strm, ticket := w.ticket, home := home, here := false, seed := w.seed, cstream := w.cstream, core := 0, handle := 0,
    leaves := w.leaves, desc := w.desc, recs := w.recs, atDevice := true, cluster := 0, slot := 0, tm := w.tm, tk := w.tk, nm := nm,
    nn := nn, chunks := if w.tk = 0 then 0 else ceilDiv (dK w.desc) w.tk, parts := w.parts, team := w.team, total := total,
    next := total, returned := [], out := [], claimed := 0, retired := 0, waiting := false, scanned := true,
    stopped := false, faulted := false, pub := none, units := [], hist := [], present := [], pins := [], pool := none,
    mergeSlots := [], mergeDone := [], teamRows := [], prio := w.prio }

/-- RANGE_CLAIM: a claim between device-level Lasts (R144). A device claims only while it holds fewer than 4 unstarted
tiles of the counter, and serves its own cores from what it is granted. -/
def execRangeClaim (req : RangeReq) (s : State) : Res :=
  match req with
  | .serve dev strm ticket => .next (s.serveRange dev.toNat strm ticket)
  | .take home strm ticket seed cstream desc recs leaves tm tk parts team prio tiles =>
    if !s.isLive home.toNat || decide (home.toNat = s.own) || decide (16 < tiles.length) || decide (tm = 0) || decide (team = 0) ||
      decide (parts = 0)
    then .next s
    else if s.fab.mstate = .leaving then .next (s.send (.notice home.toNat (.rangeReturn strm ticket tiles)))
    else
      match s.findMi home.toNat strm ticket with
      | some m =>
        if s.unstartedOf m < 4 then
          .next (s.modMi home.toNat strm ticket fun x => { x with returned := x.returned ++ tiles })
        else .next s
      | none =>
        .next { s with mis := s.mis ++
          [{ (MI.ofWork ⟨ticket, seed, cstream, desc, recs, leaves, tm, tk, parts, team, prio⟩ home strm) with returned := tiles }] }

/-! ### Loads -/

/-- Entries of a core's arrays that rows of a team tile hold until they are written (R172). -/
def State.heldEntries (s : State) (c : Nat) : Nat :=
  (s.core c).tiles.foldl (fun n t =>
    match s.tileMi t with
    | some m => if classR m.desc && m.isRead t then max n (m.tileBlocks s t * m.rpa t) else n
    | none => n) 0

/-- The lookups of score block j of a tile are done. -/
def Tile.walked (t : Tile) (j : Nat) : Bool := t.walks.any fun w => decide (w.block = j) && w.made && w.fly.isEmpty

/-- The core holds a load back: a known-answer load comes first, unless the load's pieces already stand in nxt (R87, R95,
R455); its VQ block is not decoded (R254), or the lookups of its block of a pool are not done (R298); or its first flag would overwrite an entry that a team tile holds (R172). -/
def State.loadHeld (s : State) (c : Nat) (m : MI) (t : Tile) : Bool :=
  let k := s.core c
  let laid := k.arr.nxtV && decide (k.arr.nxtOf = some (t.loadId t.loads))
  ((decide (k.rif.kat = .forced) || k.mustKat) && !laid) ||
  ((m.needBlock s t t.loads).isSome && !t.decoded.contains t.loads) ||
  (hasRole m.recs rolePool && !t.walked ((m.loadAt s t t.loads).elim 0 fun x => x.jblk)) ||
  (match m.loadAt s t t.loads with
   | some x => x.fresh && decide (x.blk * m.rpa t + x.lo < s.heldEntries c)
   | none => false)

/-- The density in 1/256 that dummies are to have: fixed, or the mean over the last real vectors (R90). -/
def Riffle.target (r : Riffle) (cfg : W32) : Nat :=
  if bit cfg 1 then bits cfg 2 8 else if r.density.isEmpty then 0 else r.density.sum / r.density.length

/-- Gap ic in which dummies are driven, of ic lo to hi of a gap: those up to idle_limit and the ramp after it (R90, R91,
R100). -/
def State.dummyIc (s : State) (c lo hi : Nat) : Nat :=
  let cfg := (s.cluster (c / 16)).riffleCfg
  let lim := bits cfg 16 16 + 3600
  if bit cfg 0 && decide ((s.core c).rif.target cfg ≠ 0) then min hi lim - min lo lim else 0

/-- Count gap ic from the place the present gap has come to, `dummies` of them driven (R100). They are attributed to the
stream whose load preceded the gap; those after the density has reached zero, or where none preceded, to the one whose
load follows (R99, R472). The generators step with every dummy (R90). -/
def State.countGap (s : State) (c gap dummies : Nat) (next : Option StreamId) : State :=
  let k := (s.core c).arr
  let lim := bits (s.cluster (c / 16)).riffleCfg 16 16 + 3600
  let before := if k.realM = 0 then 0 else min (k.gapSeen + gap) lim - min k.gapSeen lim
  let s := s.count evArrayGapIc (.core c) k.lastStrm before
  let s := s.count evArrayGapIc (.core c) next (gap - before)
  let s := s.count evRiffleDummyIc (.core c) (if before = 0 then next else k.lastStrm) dummies
  let s := s.count evShortPassGapIc (.core c) k.lastStrm (if k.gapSeen = 0 ∧ 0 < k.realM then 32 - k.realM else 0)
  if dummies = 0 then s
  else s.modCore c fun x => { x with rif := { x.rif.charge (if before = 0 then next else k.lastStrm) dummies with
    lfsr := (List.range 4).map fun a => (a, Config.lfsrAfter dummies (tget 0 x.rif.lfsr a)) } }

/-- Generator periods go by; a known-answer load becomes due or forced (R95). -/
def Riffle.pass (r : Riffle) (ic : Nat) : Riffle :=
  let p := r.periods + ic
  { r with
    periods := p
    kat := if r.kat = .running then .running else if 1440000 ≤ p then .forced else if 720000 ≤ p ∧ r.kat = .idle then .due else r.kat }

/-- The front clock of R83 and R86 for a load of M vectors: its lane starts at S', never before the front F of the load ahead,
and its front enters at F' = max(F + M, S' + 32), later where the gap has reached the ramp (R91) or the arrays hold (R79, R88). Held
ic are no gap. FRONT_WAIT_IC counts gap ic before the first piece was delivered. -/
def State.frontClock (s : State) (c len : Nat) (inp : FrontIn) (m : MI) (laid : Bool) : State :=
  let k := (s.core c).arr
  let who := s.miStrm m
  let cfg := (s.cluster (c / 16)).riffleCfg
  let asked := ((k.realF : Int) + inp.late).toNat
  let lane := if laid then k.laneS else max k.frontF asked
  let step := (s.core c).rif.rampStep.toNat
  let ramp := if step = 0 then 0 else k.realF + k.realM + bits cfg 16 16 + 450 * step
  let f0 := max (max (k.frontF + k.frontM) (lane + 32)) ramp
  let f := f0 + inp.hold + inp.walk + inp.welt
  let gap := f0 - (k.frontF + k.frontM)
  let wait := if laid then 0 else min f0 asked - (k.realF + k.realM)
  let s := s.countGap c gap (s.dummyIc c k.gapSeen (k.gapSeen + gap)) who
  let s := s.count evFrontWaitIc (.core c) who wait
  let s := s.count evWeltWaitIc (.core c) who inp.welt
  let s := if hasRole m.recs rolePool then s.count evKvWalkWaitIc (.core c) who inp.walk else s
  let s := if isVq m.desc then
      ((s.count evDeltaStallIc (.core c) who wait).count evDeltaCopyWaitIc (.core c) who inp.copy).count evDeltaGenWaitIc (.core c)
        who inp.gen
    else s
  s.modCore c fun x => { x with
    passSeq := x.passSeq + 1
    rif := { x.rif.pass (f - k.frontF) with rampStep := 0 }
    arr := { x.arr with
      frontF := f, frontM := len, laneS := lane, realF := f, realM := len, gapSeen := 0, lastStrm := who, lastHome := m.home } }

/-- The load that follows load l of tile t on core c: the tile's next, or the first of the next tile that may run. -/
def State.nextLoad (s : State) (c : Nat) (m : MI) (t : Tile) (l : Nat) : Option (Tile × MI × Nat) :=
  if l + 1 < m.loadCount s t then some (t, m, l + 1)
  else
    (((s.core c).tiles.dropWhile fun x => !x.same t).drop 1).findSome? fun u =>
      match s.tileMi u with
      | some n => if n.mayRun u && decide (u.loads < n.loadCount s u) then some (u, n, u.loads) else none
      | none => none

/-- The pieces of the load after the one that streams are laid while it streams (R83): into nxt, once the front has passed.
A lane asked for before that front holds until then (R87). A forced known-answer load comes first (R95), and scores that the
welt has not taken yet cannot be laid, nor a load whose lines of other devices are not here. -/
def State.layAhead (s : State) (c : Nat) (m : MI) (t : Tile) (l : Nat) (ahead : Int) : State :=
  match s.nextLoad c m t l with
  | none => s
  | some (u, n, i) =>
    match n.loadAt s u i with
    | none => s
    | some x =>
      let held := (n.needBlock s u i).isSome && !u.decoded.contains i
      let near := s.allHere n || ((s.farLines (s.loadSpans n u i)).all fun k =>
        (s.farLine (n.use (.load u.idx i)) k).any fun l => l.got.isSome)
      if held || !near || decide ((s.core c).rif.kat = .forced) || (s.core c).mustKat then s
      else
        let p := s.lanePieces c n u x
        s.modCore c fun k => { k with arr := { k.arr with
          nxt := p, nxtV := true, nxtOf := some (u.loadId i), ld := p, ldOf := some (u.loadId i)
          laneS := max k.arr.frontF ((k.arr.frontF : Int) + ahead).toNat } }

/-- The front of a load passes: its pieces, laid into nxt by the lanes, become cur and nxt_v clears (R83, R84). -/
def State.swapIn (s : State) (c : Nat) (m : MI) (t : Tile) (x : Load) : State :=
  let id := t.loadId t.loads
  s.modCore c fun k =>
    let laid := k.arr.nxtV && decide (k.arr.nxtOf = some id)
    let p := if laid then k.arr.nxt else s.lanePieces c m t x
    { k with arr := { k.arr with cur := p, nxt := p, nxtV := false, nxtOf := none, ld := p, ldOf := some id } }

/-- What stands before load x of a tile enters: saved accumulators are back (R119), and the welt has taken the score blocks before
it (R175). -/
def State.readyLoad (s : State) (c : Nat) (m : MI) (t : Tile) (x : Load) : State × Tile :=
  let n := if dOp m.desc = opMm2 then ((m.scoreBlocks s t).findIdx fun j => decide (j = x.jblk)) + b2n x.second else 0
  let (s, t) := s.reload c t
  s.takeBlocks c m t n

/-- The next load x of a tile runs: its front passes, its vectors stream (R78-R88). -/
def State.runFront (s : State) (c : Nat) (m : MI) (t : Tile) (x : Load) (inp : FrontIn) : State :=
  let (s, t) := s.readyLoad c m t x
  let laid := (s.core c).arr.nxtV && decide ((s.core c).arr.nxtOf = some (t.loadId t.loads))
  let owed := decide (t.loads + 1 = m.loadCount s t) && decide ((s.core c).rif.kat = .running)
  let s := s.frontClock c (m.loadLen s t t.loads) inp m laid
  let s := (s.swapIn c m t x).runLoad c m t x
  let s := match inp.ahead with
    | some a => s.layAhead c m t t.loads a
    | none => s
  s.modTile c t fun _ => { t with started := true, loads := t.loads + 1, katOwed := t.katOwed || owed }

/-- LOAD_FRONT: the next load of the tile a core works on enters the arrays (R78-R88). The tile starts with its first load.
A load waits for the rows of earlier tiles to be read out (R88), for a known-answer load that comes first, for its decoded
block and for entries that are held, and for the lines of other devices that it reads (R362). -/
def execLoadFront (core : CoreId) (inp : FrontIn) (s : State) : Res :=
  let c := core.toNat
  match s.workTile c with
  | none => .next s
  | some (t, m) =>
    if !s.up || !m.mayRun t || s.promptStop m.home m.strm then .next s
    else
      match s.fetchScan m c with
      | .wait s => .next s
      | .failed s e w => .next (s.tileFault c m t e w)
      | .ready s =>
        match m.loadAt s t t.loads with
        | none => .next s
        | some x =>
          if s.loadHeld c m t then .next s
          else
            match s.fetchFor m c (.load t.idx t.loads) fun s => s.loadSpans m t t.loads with
            | .wait s => .next s
            | .failed s e w => .next (s.tileFault c m t e w)
            | .ready s =>
              match s.loadFault m t t.loads with
              | some (e, w) => .next (s.tileFault c m t e w)
              | none => .next ((s.runFront c m t x inp).dropFar fun u => u.isOfTile t &&
                  (decide (u.part = .load t.idx t.loads) || decide (u.part = .block t.idx t.loads)))

/-! ### Readout -/

/-- Rows that READOUT may take from a tile now: its loads are done, no verdict is owed, and for a split tile every other
part has merged (R88, R97, R143). -/
def State.readable (s : State) (m : MI) (t : Tile) : Bool :=
  decide (m.loadCount s t ≤ t.loads) && !t.katOwed && m.mayRun t &&
  (decide (m.parts ≤ 1) || t.merged ||
    (m.here && decide ((m.mergeDone.filter fun e => decide (e.1 = m.blockNo (m.at_ t).1)).length + 1 = m.parts)))

/-- The accumulators that row r passes to the welt, with the upset of the readout: the columns' entries, those of O, or those of
the vector lanes, one a column (R58, R88, R213). -/
def State.readAccs (s : State) (c : Nat) (m : MI) (t : Tile) (r : Nat) (upset : Option Upset) : List Acc :=
  let flip (e : Acc × Nat) : Acc := match upset with
    | some u => if e.2 = u.col.toNat then e.1.flip u.bit else e.1
    | none => e.1
  if onArrays m.desc then s.rowAccs c m t r upset
  else if dOp m.desc = opMm2 then (s.rowO c m t r).zipIdx.map flip
  else
    let (j0, w) := m.tileCols s t
    (((List.range w).map fun j => s.laneAcc m (m.at_ t).1.1 (m.rowIx t r) (j0 + j)).filterMap id).zipIdx.map flip

/-- The lanes of a core hold the accumulators of a row of the depth-wise path: lane by column, place by row (R213, R214). -/
def State.holdLanes (s : State) (c : Nat) (m : MI) (t : Tile) (r : Nat) : State :=
  if isConvFam m.desc && !onArrays m.desc then
    let (j0, w) := m.tileCols s t
    let hold (l : Table Acc) (j : Nat) : Table Acc :=
      match s.laneAcc m (m.at_ t).1.1 (m.rowIx t r) (j0 + j) with
      | some x => tput l (j % 64 * 16 + r % 16) x
      | none => l
    s.modCore c fun k => { k with lanes := (List.range w).foldl hold k.lanes }
  else s

/-- What stands before the rows of a tile are read out: saved accumulators are back, and the welt has taken every score block
(R119, R175). -/
def State.readyRow (s : State) (c : Nat) (m : MI) (t : Tile) : State × Tile :=
  let (s, t) := s.reload c t
  if dOp m.desc = opMm2 then s.takeBlocks c m t (m.scoreBlocks s t).length else (s, t)

/-- Read out row r of tile t of core c, once it may be. -/
def State.readRow (s : State) (c : Nat) (m : MI) (t : Tile) (r : Nat) (upset : Option Upset) : State :=
  let (s, t) := s.readyRow c m t
  match s.rowErr m t r with
  | some (e, w) => s.tileFault c m t e w
  | none =>
    let s := s.holdLanes c m t r
    if (s.readAccs c m t r upset).any fun x => !x.ok then s.tileFault c m t eResidue 0
    else
      let bi := (m.at_ t).1.1
      if dOp m.desc = opSample then
        let o := s.sampleOut m bi (m.rowIx t r)
        s.modTile c t fun _ => { t with started := true, outs := t.outs ++ [{ sampleRowOut m bi (m.rowIx t r) o with row := r }] }
      else
        match s.rowRes c m t r with
        | none => s
        | some x => s.modTile c t fun _ => { t with started := true, outs := t.outs ++ [s.rowOut m t r x] }

/-- READOUT: row `row` of array `array` of the tile a core works on passes through the welt, once the lines
of other devices that it reads are here (R58, R88, R362). -/
def execReadout (core : CoreId) (array : BitVec 2) (row : BitVec 6) (upset : Option Upset) (s : State) : Res :=
  let c := core.toNat
  match s.workTile c with
  | none => .next s
  | some (t, m) =>
    let r := array.toNat * m.rpa t + row.toNat
    if !s.up || decide (m.rpa t ≤ row.toNat) || decide (m.tileRows t ≤ r) || !s.readable m t ||
      (t.outs.any fun o => decide (o.row = r))
    then .next s
    else
      match s.fetchFor m c (.row t.idx r) fun s => s.rowSpans m t r with
      | .wait s => .next s
      | .failed s e w => .next (s.tileFault c m t e w)
      | .ready s => .next ((s.readRow c m t r upset).dropFar fun u => u.isOfTile t && decide (u.part = .row t.idx r))

/-! ### Team statistics -/

/-- TEAM_STATS_COMBINE: once every member has reduced the row, the cluster welt combines its blocks in ascending order, holds the
statistics and returns them to the members (R170-R172). A residue that disagrees faults the team tile (R58, R174). -/
def execTeamStatsCombine (strm : StreamId) (ticket : W64) (batch row : Nat) (s : State) : Res :=
  match (s.findMi s.own strm ticket).or (s.mis.find? fun m => decide (m.strm = strm) && decide (m.ticket = ticket)) with
  | none => .next s
  | some m =>
    if !classR m.desc || decide (dBatch m.desc ≤ batch) || decide (dM m.desc ≤ row) || (m.teamRow batch row).isSome then .next s
    else
      let ts := s.membersOf m batch row
      if ts.length < m.team || ts.any (fun e => !s.readable m e.2) then .next s
      else
        let idx := (ts.map fun e => e.2.idx).headD 0
        match s.fetchFor m ((ts.map Prod.fst).headD 0) (.team idx (batch * dM m.desc + row)) fun _ =>
          (match recOf m.recs roleBias with
           | some b => [(rAddr b, rowBytes (rFmt b) (dN m.desc))]
           | none => []) with
        | .wait s => .next s
        | .failed s e w => .next (match ts with | x :: _ => s.tileFault x.1 m x.2 e w | [] => s)
        | .ready s =>
        let accs := ts.map fun e => (e, s.rowAccs e.1 m e.2 (row % m.tm) none)
        match accs.find? fun e => e.2.any fun x => !x.ok with
        | some e => .next (s.tileFault e.1.1 m e.1.2 eResidue 0)
        | none =>
          let xs := (accs.flatMap fun e => e.2).zipIdx.map fun e => s.xOf m (e.1.value m.base) e.2
          let odd := xs.any fun x => !x.isFin
          .next ((s.modMi m.home.toNat m.strm m.ticket fun x =>
            { x with teamRows := x.teamRows ++ [⟨batch, row, rowStat (if odd then [] else xs), odd⟩] }).dropFar fun u =>
              decide (u = m.use (.team idx (batch * dM m.desc + row))))

/-! ### Writing -/

/-- What a list of writes leaves behind. -/
inductive Wrote where
  | done (s : State)
  | held (qual : Nat)
  | failed (code : Code)

/-- The 128-byte payload of a WRL packet and its byte mask for bytes at an offset of their line (R355, R356). -/
def linePay (off : Nat) (bs : List Byte) : List Byte × BitVec 128 :=
  ((List.replicate off 0 ++ bs ++ List.replicate 128 0).take 128, BitVec.ofNat 128 ((2 ^ bs.length - 1) * 2 ^ off))

/-- Write bytes at a global address for a macro-instruction: here along the line path (R269), elsewhere by WRL (R362). -/
def State.writeOut (s : State) (m : MI) (a : Nat) (bs : List Byte) (hint : Hint) (uses : BitVec 16) : Wrote :=
  if a / 2 ^ 48 = s.own then
    .done (s.store (a % 2 ^ 48) bs hint uses (some (BitVec.ofNat 16 (m.strm.toNat * 1024 + m.ticket.toNat % 1024))))
  else
    (linePieces (bs.length / 128 + 2) (a % 2 ^ 48) bs).foldl (fun w p =>
      match w with
      | .done s =>
        let (pay, mask) := linePay (p.1 % 128) p.2
        (match s.request 0x04 (a / 2 ^ 48) (p.1 / 128 * 128) 0 mask pay (.macroWrite m.home m.strm m.ticket) with
         | .sent _ s => .done s
         | .failed e => .failed e
         | .held q => .held q)
      | w => w) (.done s)

/-- Hint and uses of the output record that covers an address (R137, R269). -/
def MI.hintAt (m : MI) (a : Nat) : Hint × BitVec 16 :=
  match m.recs.find? fun r => isOutRole (rRole r) && decide (rAddr r ≤ a) && decide (a < rAddr r + rExtent r) with
  | some r => (rHint r, rUses r)
  | none => (.none, 0)

/-- Do some writes of a macro-instruction. -/
def State.writeAll (s : State) (m : MI) (ws : List (Nat × List Byte)) : Wrote :=
  ws.foldl (fun w p =>
    match w with
    | .done s => let (h, u) := m.hintAt p.1; s.writeOut m p.1 p.2 h u
    | w => w) (.done s)

/-! ### Retirement of a tile -/

/-- Progress units that a tile covers, its member's columns only (R478). -/
def MI.tileUnits (s : State) (m : MI) (t : Tile) : List Nat :=
  let ((bi, im, _), _, _) := m.at_ t
  let (j0, w) := m.tileCols s t
  (List.range (ceilDiv (m.tileRows t) 4)).flatMap fun q => (List.range (ceilDiv w 64)).map fun b =>
    m.unitOf s bi (im * m.tm + 4 * q) (j0 + 64 * b)

/-- Progress of m.sample: a unit of 4 rows is set once its rows are written, kept by row in the table of bins. -/
def MI.sampleUnits (s : State) (m : MI) (bi i : Nat) : MI :=
  let h := tput m.hist (bi * dM m.desc + i) 1
  let q := i / 4 * 4
  let rows := (List.range (min 4 (dM m.desc - q))).map fun k => bi * dM m.desc + q + k
  { m with hist := h, units := if rows.all fun r => decide (tget 0 h r = 1) then m.units ++ [m.unitOf s bi i 0] else m.units }

/-- Key in the table of bins of the number of elements classified, which does not saturate (R70). -/
abbrev histCount : Nat := 65

/-- What the retirement of a written tile does to its macro-instruction. -/
def MI.retireTile (s : State) (m : MI) (t : Tile) : MI :=
  let ((bi, im, _), _, _) := m.at_ t
  let bs := t.outs.flatMap RowOut.hist
  let m1 := if dOp m.desc = opSample then m.sampleUnits s bi (im * m.tm) else
    { m with
      hist := (if bs.isEmpty then fun h => h else fun h => tput h histCount (tget 0 h histCount + bs.length))
        (bs.foldl (fun h b => tput h b (satAdd32 (tget 0 h b) 1)) m.hist)
      units := m.units ++ (m.tileUnits s t).filter fun u => !m.units.contains u }
  let ps := t.outs.flatMap RowOut.nonzero
  let k := m.blockNo (m.at_ t).1
  { m1 with
    retired := m.retired + 1
    present := m.present ++ (firstOnly [] ps).filter fun p => !m.present.contains p
    mergeSlots := if m.parts ≤ 1 then m.mergeSlots else m.mergeSlots.filter fun e => decide (e.1 ≠ k)
    teamRows := m.teamRows.filter fun r => !(decide (r.batch = bi) && decide (r.row / m.tm = im) &&
      decide ((s.mates m t).length = 1)) }

/-- Tell the device of a macro-instruction that a tile is done (R144). -/
def State.tellDone (s : State) (m : MI) (t : Tile) : State :=
  if m.here then s
  else s.send (.notice m.home.toNat (.tileDone m.strm m.ticket (BitVec.ofNat 16 s.own) (m.numberOf t.idx)
    (t.outs.flatMap RowOut.hist) (t.outs.flatMap RowOut.nonzero)))

/-- A tile whose outputs are written retires (R149). -/
def State.retireOne (s : State) (m : MI) (c : Nat) (t : Tile) : State :=
  let m := (s.findMi m.home.toNat m.strm m.ticket).getD m
  let s1 := match m.mergeSlots.find? fun e => decide (m.parts > 1) && decide (e.1 = m.blockNo (m.at_ t).1) with
    | some e => s.clearMerge e.2
    | none => s
  let s1 := s1.modMi m.home.toNat m.strm m.ticket fun _ => m.retireTile s t
  let s1 := s1.count evTilesRetired (.core c) (s.miStrm m) 1
  let s1 := s1.count evWeltStepwise (.core c) (s.miStrm m) (b2n (dStepwise m.desc && decide (dChain m.desc ≠ 0)))
  let s1 := s1.count evSampleRows (.core c) (s.miStrm m) (b2n (decide (dOp m.desc = opSample)))
  let s1 := s1.count evSampleNone (.core c) (s.miStrm m) (t.outs.filter RowOut.noTok).length
  (s1.tellDone m t).dropTile c t

/-- Retire a tile whose rows are all read out, and its team with it: every member's outputs are written and then all retire, so a
team tile never writes part of its rows (R149, R174). A wait for a tag is counted once (R153). -/
def State.retireWritten (s : State) (c : Nat) (m : MI) (t : Tile) : State :=
  let ws := ((s.mates m t).flatMap fun e => e.2.outs).flatMap RowOut.writes
  match s.writeAll m ws with
  | .held q =>
    if t.waited then s
    else
      let s := s.modTile c t fun x => { x with waited := true }
      if q = 8 then s.countDev evFabLineHold else s.countQ evHeldAtBound (.core c) none 5 1
  | .failed e => s.tileFault c m t e (nameW 8 (match ws with | w :: _ => w.1 | [] => 0))
  | .done s1 => (s.mates m t).foldl (fun s e => s.retireOne m e.1 e.2) s1

/-- Indices of the accumulators of a split tile (R143). -/
def MI.mergeCells (s : State) (m : MI) (t : Tile) : List Nat :=
  (List.range (m.tileRows t)).flatMap fun r => (List.range (m.tileCols s t).2).map fun j => m.accAt t r (j / 64) (j % 64)

/-- Retire a part that is not the last of its output tile to finish: its exact accumulators are added into the slot (R56,
R143, R149). -/
def State.retireMerged (s : State) (c : Nat) (m : MI) (t : Tile) (slot : Nat) : State :=
  let cells := m.mergeCells s t
  let accs := (s.core c).acc
  if cells.any fun a => !(tget Acc.zero accs a).ok then s.tileFault c m t eResidue 0
  else
    let mg := cells.foldl (fun mg a =>
      let x := if t.loads = 0 then Acc.zero else tget Acc.zero accs a
      tput mg (slot * 16384 + a) ((tget Acc.zero mg (slot * 16384 + a)).merge x)) s.merge
    let ((b, p, _)) := m.at_ t
    let s := { s with merge := mg }
    let s := s.modMi m.home.toNat m.strm m.ticket fun x =>
      { x with retired := x.retired + 1, mergeDone := x.mergeDone ++ [(m.blockNo b, p)] }
    let s := (s.count evMergeAdds .device (s.miStrm m) 1).count evTilesRetired (.core c) (s.miStrm m) 1
    s.dropTile c t

/-- The tile that a core may retire next: the first one it has started, in grant order. -/
def State.retirable (s : State) (ts : List Tile) : Option (Tile × MI) :=
  ts.findSome? fun t =>
    match s.tileMi t with
    | some m => if t.started || decide (m.loadCount s t ≤ t.loads) then some (t, m) else none
    | none => none

/-- A part of another device's counter is done: its accumulators go to the slot there, which adds them or, if they are the last,
answers with its own (R143). -/
def State.sendPart (s : State) (c : Nat) (m : MI) (t : Tile) : State :=
  let accs := (s.core c).acc
  let cells := m.mergeCells s t
  if cells.any fun a => !(tget Acc.zero accs a).ok then s.tileFault c m t eResidue 0
  else
    (s.modTile c t fun x => { x with asked := true }).send (.notice m.home.toNat (.mergePart m.strm m.ticket
      (BitVec.ofNat 16 s.own) (m.numberOf t.idx)
      (cells.map fun a => (a, (if t.loads = 0 then Acc.zero else tget Acc.zero accs a).wire))))

/-- TILE_RETIRE: a core's oldest tile retires once its rows are read out and written (a team tile once every member's are,
R174), or once its part is merged (R143, R149). Writes that wait for a tag or a held line leave the tile as it is. -/
def execTileRetire (core : CoreId) (s : State) : Res :=
  let c := core.toNat
  match s.retirable (s.core c).tiles with
  | none => .next s
  | some (t, m) =>
    if !s.up then .next s
    else if m.isRead t then
      if (s.mates m t).all fun e => m.isRead e.2 then .next (s.retireWritten c m t) else .next s
    else if decide (1 < m.parts) && decide (m.loadCount s t ≤ t.loads) && !t.katOwed && m.mayRun t && !s.readable m t then
      if !m.here then .next (if t.asked then s else s.sendPart c m t)
      else
        match m.mergeSlots.find? fun e => decide (e.1 = m.blockNo (m.at_ t).1) with
        | some e => .next (s.retireMerged c m t e.2)
        | none => .next s
    else .next s

/-- A part from another device reaches its slot (R143, R148): added unless it is the last to finish, which gets the slot's
accumulators back. -/
def State.takePart (s : State) (strm : StreamId) (ticket : W64) (dev : BitVec 16) (tile : Nat)
    (cells : List (Nat × BitVec 614)) : State :=
  match s.hereMi strm ticket with
  | none => s
  | some m =>
    let idx := m.indexOf tile
    let (b, p, _) := m.tileAt idx
    let k := m.blockNo b
    match m.mergeSlots.find? fun e => decide (e.1 = k) with
    | none => s
    | some (_, slot) =>
      if !m.out.contains (dev.toNat, idx) || m.mergeDone.contains (k, p) then s
      else if (m.mergeDone.filter fun e => decide (e.1 = k)).length + 1 = m.parts then
        s.send (.notice dev.toNat (.mergeAnswer m.home strm ticket tile true
          (cells.map fun e => (e.1, (tget Acc.zero s.merge (slot * 16384 + e.1)).wire))))
      else
        let mg := cells.foldl (fun mg e =>
          tput mg (slot * 16384 + e.1) ((tget Acc.zero mg (slot * 16384 + e.1)).merge (Acc.ofWire e.2))) s.merge
        let s := { s with merge := mg }
        let s := s.modMi m.home.toNat strm ticket fun x =>
          { x with retired := x.retired + 1, mergeDone := x.mergeDone ++ [(k, p)], out := x.out.filter fun o => decide (o ≠ (dev.toNat, idx)) }
        (s.count evMergeAdds .device (s.miStrm m) 1).send (.notice dev.toNat (.mergeAnswer m.home strm ticket tile false []))

/-- The slot's answer (R143): a part that was added retires here; the last one adds the slot into its own accumulators and is
read out. -/
def State.partAnswered (s : State) (home : BitVec 16) (strm : StreamId) (ticket : W64) (tile : Nat) (last : Bool)
    (cells : List (Nat × BitVec 614)) : State :=
  match s.findMi home.toNat strm ticket with
  | none => s
  | some m =>
    match (s.tilesOf m).find? fun e => e.2.asked && !e.2.merged && decide (m.numberOf e.2.idx = tile) with
    | none => s
    | some (c, t) =>
      if last then
        (s.modCore c fun k => { k with acc := cells.foldl (fun l e =>
          tput l e.1 ((if t.loads = 0 then Acc.zero else tget Acc.zero l e.1).merge (Acc.ofWire e.2))) k.acc }).modTile c t fun x =>
            { x with merged := true }
      else (s.dropTile c t).count evTilesRetired (.core c) (s.miStrm m) 1

/-! ### Retirement of a macro-instruction -/

/-- A remote write of this macro-instruction has no answer yet (R365). -/
def State.writesPending (s : State) (m : MI) : Bool :=
  s.fab.reqs.any fun e =>
    match e.2 with
    | some r => (match r.who with
      | .macroWrite h i t => decide (h = m.home) && decide (i = m.strm) && decide (t = m.ticket)
      | _ => false)
    | none => false

/-- The histogram record of R70 to R72 over the record that stands in memory. -/
def MI.histBytes (m : MI) (old : List Byte) : List Byte :=
  let acc := dHistAcc m.desc
  let prev (o n : Nat) : Nat := if acc then leNat ((old.drop o).take n) else 0
  let bin (k : Nat) : Nat := satAdd32 (prev (0x40 + 4 * k) 4) (tget 0 m.hist k)
  let bins := (List.range 64).map bin
  let total := tget 0 m.hist histCount
  let full := bins.any (fun b => decide (b = 0xFFFFFFFF)) || decide (prev 3 1 % 2 = 1)
  leBytes 2 (wrapNat 16 (dHistLo m.desc)) ++ leBytes 1 (dFmtOut m.desc) ++ leBytes 1 (b2n full + 2 * b2n acc) ++
  leBytes 4 0 ++ leBytes 8 (prev 8 8 + total) ++ leBytes 48 0 ++ bins.flatMap (leBytes 4)

/-- Bytes at a global address. -/
def State.gbytes (s : State) (a n : Nat) : List Byte := (List.range n).map fun i => s.gbyte (a + i)

/-- The words of PRES_OUT, each with the bits of its blocks that received a nonzero output (R314). -/
def MI.presOrs (m : MI) : List (Nat × W64) :=
  match recOf m.recs rolePresOut with
  | none => []
  | some r =>
    let nb := ceilDiv (dM m.desc) 256
    let ones := m.present.map fun p =>
      let a := rAddr r + p / nb * rBatch r + p % nb / 8
      (a / 8 * 8, BitVec.ofNat 64 (2 ^ (8 * (a % 8) + p % nb % 8)))
    (firstOnly [] (ones.map Prod.fst)).map fun a => (a, (ones.filter fun o => decide (o.1 = a)).foldl (fun b o => b ||| o.2) 0)

/-- The atomic OR of a word at its line's home (R275, R314), by ATOM elsewhere. -/
def State.orOut (s : State) (m : MI) (a : Nat) (v : W64) : Wrote :=
  let loc := a % 2 ^ 48
  if a / 2 ^ 48 ≠ s.own then
    match s.request 0x05 (a / 2 ^ 48) loc (amoCode .or) 0 (leBytes 8 v.toNat) (.macroWrite m.home m.strm m.ticket) with
    | .sent _ s => .done s
    | .failed e => .failed e
    | .held q => .held q
  else
    match regionOf loc with
    | .stack => .done (s.awlAtomic (m.core.toNat / 16) loc .or 0 v none)
    | _ => .done (s.putBytes loc (leBytes 8 (BitVec.ofNat 64 (s.num loc 8) ||| v).toNat))

/-- The histogram write of a macro-instruction whose tiles have all retired. -/
def State.lastWrites (s : State) (m : MI) : List (Nat × List Byte) :=
  match recOf m.recs roleHist with
  | some r => if dHistEn m.desc then [(rAddr r, m.histBytes (s.gbytes (rAddr r) 320))] else []
  | none => []

/-- Contexts that wait for a ticket go on past their s.mwait (R149), those on other devices by an answer. -/
def State.wakeMwait (s : State) (home : BitVec 16) (strm : StreamId) (t : W64) : State :=
  let ws := s.ctxs.filter fun e =>
    e.2.used && decide (e.2.dev = home) && decide (e.2.strm = strm) && decide (e.2.wait = .mwait t)
  (ws.foldl (fun s e => s.advance (BitVec.ofNat 12 e.1) 4) s).settleAsks strm

/-- A macro-instruction has left: its stream's device wakes what waits for it, or is told (R126, R149). -/
def State.miLeft (s : State) (m : MI) : State :=
  if m.home.toNat = s.own then s.wakeMwait m.home m.strm m.ticket
  else if m.here then s.send (.notice m.home.toNat (.miEnd m.strm m.ticket))
  else s

/-- The end of a macro-instruction's retirement. -/
def State.retireMi (s : State) (m : MI) : State :=
  (((s.count evMiRetired (.core m.core.toNat) (s.miStrm m) 1).removeMi m).miLeft m).retryHeld

/-- The last writes of a macro-instruction are out, kept in the table of bins beyond bin 63. -/
def MI.lastOut (m : MI) : Bool := decide (dOp m.desc ≠ opSample) && decide (tget 0 m.hist 64 = 1)

/-- The lines of a histogram record of another device to which the macro-instruction adds are here (R71, R362). -/
def State.fetchHist (s : State) (m : MI) : Fetch :=
  s.fetchFor m m.core.toNat .hist fun _ =>
    match recOf m.recs roleHist with
    | some r => if dHistEn m.desc && dHistAcc m.desc && !m.lastOut then [(rAddr r, 320)] else []
    | none => []

/-- Retire a macro-instruction that has all its tiles back: histogram and presence are written, then, once every remote
write is acknowledged, it retires (R72, R149, R314, R365). A record of another device to add to is read first (R71, R362). -/
def State.finishMi (s : State) (m : MI) : State :=
  match s.fetchHist m with
  | .wait s => s
  | .failed s e w => (s.miFault m m.core.toNat e w).removeMi m
  | .ready s =>
  let ws := if m.lastOut then [] else s.lastWrites m
  let ors := if m.lastOut then [] else m.presOrs
  let remote := (ws.map Prod.fst ++ ors.map Prod.fst).any fun a => decide (a / 2 ^ 48 ≠ s.own)
  match s.spanPoison ((if m.lastOut || !dHistAcc m.desc then [] else ws.map fun w => (w.1, w.2.length)) ++
      ors.map fun o => (o.1, 8)) with
  | some ln => (s.miFault m m.core.toNat eStackUe (poisonName ln)).removeMi m
  | none =>
    match ors.foldl (fun w o => match w with
        | .done s => s.orOut m o.1 o.2
        | w => w) (s.writeAll m ws) with
    | .held _ => s
    | .failed e => (s.miFault m m.core.toNat e (nameW 2 (roleHist * 2 ^ 48 + 0xFFFF))).removeMi m
    | .done s1 =>
      if remote then s1.modMi m.home.toNat m.strm m.ticket fun x => { x with hist := tput x.hist 64 1 }
      else s1.retireMi m

/-- MI_RETIRE (R72, R149, R365). A faulted macro-instruction leaves, with no histogram, once no tile of it runs; work of
another device's counter leaves with its last tile (R144). -/
def execMiRetire (strm : StreamId) (ticket : W64) (s : State) : Res :=
  match (s.findMi s.own strm ticket).or (s.mis.find? fun m => decide (m.strm = strm) && decide (m.ticket = ticket)) with
  | none => .next s
  | some m =>
    let running := (s.tilesOf m).any fun e => e.2.started
    let owed := !m.out.isEmpty
    if m.faulted then (if running then .next s else .next ((s.removeMi m).miLeft m).retryHeld)
    else if !m.here then
      (if !m.stopped && m.returned.isEmpty && (s.tilesOf m).isEmpty && !s.writesPending m then .next (s.removeMi m) else .next s)
    else if m.waiting || !m.scanned || decide (m.retired < m.total) || owed || s.writesPending m then .next s
    else .next (s.finishMi m)

end Sys2Proof.Machine
end

