-- ==== Sys2Proof/Machine/Kv.lean ====
section
/-! DEFINITION. Key-value pools, walks, epochs and the prefix tree (R285-R305, log 44, DEDUCED). -/

namespace Sys2Proof.Machine

/-! ### Pool operations (R286, R287, R299, R304) -/

/-- Byte range [lo, lo + n) lies in the stack; nothing lies anywhere. -/
def inStackOrNone (a n : Nat) : Bool := decide (n = 0) || inStack a n

/-- The pool image at KV_POOL_SRC. -/
def State.poolImage (s : State) : BitVec 512 := BitVec.ofNat 512 (s.num s.dev.kvSrc.toNat 64)

/-- Prefix tree of a pool: enabled, node table, slots. -/
def treeEn (img : BitVec 512) : Bool := bit img 293
/-- Address of the node table. -/
def treeAddr (img : BitVec 512) : Nat := bits img 240 48
/-- log2 of the slots of the node table. -/
def treeLog2 (img : BitVec 512) : Nat := bits img 288 5
/-- Formats a pool may have. -/
def kvFmt (f : Nat) : Bool := (decide (1 ≤ f) && decide (f ≤ 5)) || decide (f = 0x0B) || decide (f = 0x0C)

/-- The first error of a definition of a pool (R286), after those of reading its image (log 44, DEDUCED). -/
def State.poolErr (s : State) (p : Nat) : Code :=
  let a := s.dev.kvSrc.toNat
  let i := s.poolImage
  if (s.pool p).defined then eBusy
  else if a % 64 ≠ 0 then eAlign
  else if !inMem a 64 then eBounds
  else if (s.poisonIn a 64).isSome then eStackUe
  else if [(13, 3), (56, 8), (112, 16), (152, 24), (224, 16), (294, 26), (400, 112)].any (fun r => decide (bits i r.1 r.2 ≠ 0)) ||
      (treeEn i && bit i 0) || decide (bits i 11 2 = 3) then eOperand
  else if !kvFmt (bits i 1 5) || !kvFmt (bits i 6 5) then eFormat
  else if 4032 < bits i 32 16 || decide (24 < treeLog2 i) then eBounds
  else if bits i 64 48 % 128 ≠ 0 || decide (bits i 176 48 % 4096 ≠ 0) || (treeEn i && decide (treeAddr i % 128 ≠ 0)) then eAlign
  else if !inStackOrNone (bits i 64 48) (32 * bits i 128 24) || (bit i 0 && !inStack (bits i 176 48) 32768) ||
      (treeEn i && !inStack (treeAddr i) (32 * 2 ^ treeLog2 i)) then eBounds
  else 0

/-- KV_POOL_CTL.pool takes the value written. -/
def State.setPool (s : State) (p : Byte) : State := { s with dev := { s.dev with kvPool := p } }

/-- A pool operation, in RUNNING only; refused and counted while another is in progress (R304). -/
def State.kvOp (s : State) (q : RegOp) (p : Byte) (k : State → State) : State :=
  if s.boot.phase ≠ .running then s else s.runOp q (fun s => s.setPool p) k

/-- A pool operation ends: done, err and cause 85 (R412). -/
def State.kvEnd (s : State) (err : Code) : State :=
  ({ s with dev := { s.dev with kvDone := true, kvErr := err } }).raise 85

/-- KV_POOL_DEFINE. -/
def execKvPoolDefine (pool : Byte) (s : State) : Res :=
  .next (s.kvOp (.poolDefine pool) pool fun s =>
    let p := pool.toNat
    if s.poolErr p ≠ 0 then s.kvEnd (s.poolErr p)
    else (s.modPool p fun _ => ⟨true, setBits s.poolImage 384 16 0, 0, 0, 0⟩).kvEnd 0)

/-- KV_POOL_REMOVE. -/
def execKvPoolRemove (pool : Byte) (s : State) : Res :=
  .next (s.kvOp (.poolRemove pool) pool fun s =>
    let p := pool.toNat
    if !(s.pool p).defined then s.kvEnd eHandle
    else if (s.pool p).users ≠ 0 then s.kvEnd eBusy
    else (s.modPool p fun _ => .none).kvEnd 0)

/-- Publish the pending epoch of a pool: its look-aside entries go from every cluster (R299). Walks in flight go on (R300). -/
def State.publishEpoch (s : State) (p : Nat) : State :=
  let s := s.modPool p fun x => { x with epoch := x.pend }
  let drop (l : List LabEntry) : List LabEntry := l.filter fun e => decide (e.pool.toNat ≠ p)
  { s with clusters := s.clusters.map fun (e : Nat × Cluster) =>
      (e.1, { e.2 with walkLab := drop e.2.walkLab, xlatLab := drop e.2.xlatLab }) }

/-- KV_EPOCH_ADVANCE: a host's advance stays in progress until it is published; a context's is published at its stream's
fence (R299), whichever device the stream belongs to. -/
def execKvEpochAdvance (agent : Agent) (pool : Byte) (s : State) : Res :=
  .next (s.kvOp (.poolAdvance agent pool) pool fun s =>
    let p := pool.toNat
    if !(s.pool p).defined then s.kvEnd eHandle
    else
      let s := s.modPool p fun x => { x with pend := x.pend + 1 }
      match agent with
      | .host => { s with ops := s.ops ++ [.poolPublish pool] }
      | .ctx cx =>
        let c := s.ctx cx
        if c.dev.toNat = s.own then
          (s.modStrm c.strm fun x => { x with epochs := if x.epochs.contains pool then x.epochs else x.epochs ++ [pool] }).kvEnd 0
        else
          (s.modFarStrm c.dev c.strm fun x => { x with epochs := if x.epochs.contains pool then x.epochs else x.epochs ++ [pool] }).kvEnd 0)

/-- KV_EPOCH_PUBLISH: a host's advance of this pool is published and done sets. The publication at a fence is the fence's
(SEQ_FENCE_COMPLETE). -/
def execKvEpochPublish (pool : Byte) (s : State) : Res :=
  .next (if s.running .pool = some (.poolPublish pool) then
      ({ s with ops := s.ops.erase (.poolPublish pool) }.publishEpoch pool.toNat).kvEnd 0
    else s)

/-- A fence of fn 2 or 3 of stream i publishes the advances the stream has made (R299). -/
def State.publishFor (s : State) (i : StreamId) : State :=
  let s := (s.strm i).epochs.foldl (fun s p => s.publishEpoch p.toNat) s
  s.modStrm i fun x => { x with epochs := [] }

/-! ### Walks (R297, R298, R300) -/

/-- An entry of a look-aside buffer answers a lookup: same pool, sequence, index and epoch (R297). -/
def LabEntry.same (x e : LabEntry) : Bool :=
  decide (x.pool = e.pool) && decide (x.seq = e.seq) && decide (x.idx = e.idx) && decide (x.epoch = e.epoch)

/-- Put an entry into a fully associative buffer of n entries, most recent first. -/
def labPut (n : Nat) (l : List LabEntry) (e : LabEntry) : List LabEntry := (e :: l.filter fun x => !x.same e).take n

/-- The buffer of a pool's mode in a cluster changes. -/
def State.modLab (s : State) (cl : Nat) (xlat : Bool) (f : List LabEntry → List LabEntry) : State :=
  s.modCluster cl fun x => if xlat then { x with xlatLab := f x.xlatLab } else { x with walkLab := f x.walkLab }

/-- Put an entry into the walker's 64 or the translation unit's 256. -/
def State.labInstall (s : State) (cl : Nat) (xlat : Bool) (e : LabEntry) : State :=
  s.modLab cl xlat fun l => labPut (if xlat then 256 else 64) l e

/-- Look an entry up: a hit counts and becomes most recent, a miss counts. -/
def State.labLook (s : State) (cl : Nat) (xlat : Bool) (who : Option StreamId) (e : LabEntry) : Option LabEntry × State :=
  let l := if xlat then (s.cluster cl).xlatLab else (s.cluster cl).walkLab
  match l.find? fun x => x.same e with
  | some x => (some x, (s.count (if xlat then evKvXlatHit else evKvLabHit) (.cluster cl) who 1).labInstall cl xlat x)
  | none => (none, s.count (if xlat then evKvXlatMiss else evKvLabMiss) (.cluster cl) who 1)

/-- Walks in flight in a cluster (R298). -/
def State.walksIn (s : State) (cl : Nat) : Nat :=
  ((s.cores.filter fun e => decide (e.1 / 16 = cl)).map fun e =>
    (e.2.tiles.map fun t => (t.walks.map fun w => w.fly.length).sum).sum).sum

/-- Lookups in progress: the machine, the tile's cursor, the block's walk, and the fault met. -/
structure Walking where
  s : State
  cur : Option PageCursor
  w : KvWalk
  bad : Refused

/-- The entry a walker looks up for position `want`: index, first position, and whether a private page stands before it. -/
def nextPage (cur : Option PageCursor) (want : Nat) : Nat × Nat × Bool :=
  match cur with
  | none => (0, 0, false)
  | some k => if k.start + k.len ≤ want then (k.idx + 1, k.start + k.len, k.before || k.self) else (k.idx, k.start, k.before)

/-- The check of a page table entry (R291): a valid page, and no shared one after a private one. -/
def pageOk (before : Bool) (e : LabEntry) : Option Page :=
  match pageOf e.val.toNat with
  | some g => if g.kind = 1 ∧ before then none else some g
  | none => none

/-- The cursor stands at a found page, and the block is covered to its end. -/
def Walking.found (x : Walking) (before : Bool) (e : LabEntry) (g : Page) : Walking :=
  { x with
    cur := some ⟨e.idx, e.start, g.len, before, decide (g.kind = 2)⟩
    w := { x.w with want := max x.w.want (e.start + g.len), ents := e :: x.w.ents } }

/-- Reads of a walk end: an entry whose epoch is still the published one is installed, another is not and counts (R300). The
block uses both. -/
def Walking.settle (x : Walking) (cl : Nat) (m : MI) : Walking :=
  let p := x.s.pool (poolIdx m.recs)
  let xlat := pMode p
  x.w.fly.foldl (fun x e =>
    let s := if e.epoch = p.epoch then x.s.labInstall cl xlat e else x.s.count evKvEpochDrop (.cluster cl) (x.s.miStrm m) 1
    let x := { x with s := s, w := { x.w with fly := [] } }
    if xlat then { x with w := { x.w with ents := e :: x.w.ents } }
    else
      match pageOf e.val.toNat with
      | some g => x.found (nextPage x.cur x.w.want).2.2 e g
      | none => x) x

/-- Read n bytes of a table through the awl for a walk; none for a poisoned line. -/
def State.tableRead (s : State) (cl a : Nat) : Option Nat × State :=
  let s := s.awlRead cl (a / 128) none
  (if s.poisoned (a / 128) then none else some (s.num a 8), s)

/-- The walker's lookups of a block up to position hi: one per page from the cursor on (R297). A miss reads its entry through the
awl and stays in flight. -/
def Walking.pages (cl : Nat) (m : MI) (sq hi : Nat) : Nat → Walking → Walking
  | 0, x => x
  | n + 1, x =>
    if hi ≤ x.w.want then { x with w := { x.w with made := true } }
    else if 16 ≤ x.s.walksIn cl then x
    else
      let p := x.s.pool (poolIdx m.recs)
      let sr := x.s.seqRec p sq
      let (i, start, before) := nextPage x.cur x.w.want
      let fault := some (eKvPage, nameW 7 (sq * 2 ^ 32 + i))
      if bits sr 0 32 ≤ i then { x with bad := fault }
      else
        let a := bits sr 64 48 + 8 * i
        match x.s.labLook cl false (x.s.miStrm m) ⟨BitVec.ofNat 8 (poolIdx m.recs), sq, i, p.epoch, 0, start⟩ with
        | (some e, s) =>
          match pageOk before e with
          | some g => ({ x with s := s }.found before e g).pages cl m sq hi n
          | none => { x with s := s, bad := fault }
        | (none, s) =>
          match s.tableRead cl a with
          | (none, s) => { x with s := s, bad := some (eStackUe, poisonName (a / 128)) }
          | (some v, s) =>
            let e : LabEntry := ⟨BitVec.ofNat 8 (poolIdx m.recs), sq, i, p.epoch, BitVec.ofNat 64 v, start⟩
            match pageOk before e with
            | some _ => { x with s := s, w := { x.w with fly := [e] } }
            | none => { x with s := s, bad := fault }

/-- The translation unit's lookups of a block: one per granule (R297). A miss reads both levels through the awl and stays in
flight; at most 16 walks of a cluster are (R298). -/
def Walking.granules (cl : Nat) (m : MI) (sq : Nat) : List (Nat × Nat) → Walking → Walking
  | [], x => { x with w := { x.w with todo := [], made := true } }
  | (g, pos) :: rest, x =>
    let p := x.s.pool (poolIdx m.recs)
    let fault := some (eKvUnmapped, nameW 7 (sq * 2 ^ 32 + pos))
    let x := { x with w := { x.w with todo := (g, pos) :: rest } }
    if 16 ≤ x.s.walksIn cl + x.w.fly.length then x
    else
      match x.s.labLook cl true (x.s.miStrm m) ⟨BitVec.ofNat 8 (poolIdx m.recs), 0, g, p.epoch, 0, 0⟩ with
      | (some e, s) => { x with s := s, w := { x.w with ents := e :: x.w.ents } }.granules cl m sq rest
      | (none, s) =>
        let a1 := pRoot p + 8 * (g / 512 % 4096)
        match s.tableRead cl a1 with
        | (none, s) => { x with s := s, bad := some (eStackUe, poisonName (a1 / 128)) }
        | (some e1, s) =>
          if e1 % 2 = 0 ∨ e1 / 2 % 2 ^ 11 ≠ 0 ∨ e1 / 2 ^ 48 ≠ 0 then { x with s := s, bad := fault }
          else
            let a2 := e1 / 2 ^ 12 * 4096 + 8 * (g % 512)
            if !inStack a2 8 then { x with s := s, bad := some (eBounds, nameW 8 (s.own * 2 ^ 48 + a2)) }
            else
              match s.tableRead cl a2 with
              | (none, s) => { x with s := s, bad := some (eStackUe, poisonName (a2 / 128)) }
              | (some e2, s) =>
                if e2 % 2 = 0 ∨ e2 / 2 % 2 ^ 15 ≠ 0 then { x with s := s, bad := fault }
                else
                  let e : LabEntry := ⟨BitVec.ofNat 8 (poolIdx m.recs), 0, g, p.epoch, BitVec.ofNat 64 (e2 / 2 ^ 16 * 2 ^ 16), 0⟩
                  { x with s := s, w := { x.w with fly := x.w.fly ++ [e] } }.granules cl m sq rest

/-- The granules that a block's keys and values overlap, in position order, with the first position each serves. -/
def blockGranules (p : Pool) (sr : BitVec 256) (h : Nat) (poss : List Nat) : List (Nat × Nat) :=
  let span (a n pos : Nat) : List (Nat × Nat) :=
    if n = 0 then [] else (List.range ((a + n - 1) / 65536 + 1 - a / 65536)).map fun k => (a / 65536 + k, pos)
  (poss.flatMap fun pos => span (kvVa p sr h pos false) (pKeyRow p) pos ++ span (kvVa p sr h pos true) (pValRow p) pos).foldl
    (fun l g => if l.any fun x => decide (x.1 = g.1) then l else l ++ [g]) []

/-- Loads of a tile before score block k of those it streams. -/
def MI.loadsBefore (s : State) (m : MI) (t : Tile) (k : Nat) : Nat :=
  (((m.scoreBlocks s t).take k).map fun j => let l := m.mm2Loads s (m.at_ t).1.1 j; l.1 + l.2).sum

/-- A block's lookups may be made: it is the tile's first, or the first load of the block before it has started
(R298). -/
def State.mayWalk (s : State) (m : MI) (t : Tile) (block : Nat) : Bool :=
  let bs := m.scoreBlocks s t
  let k := bs.findIdx fun j => decide (j = block)
  bs.contains block &&
    (decide (k = 0) || decide (m.loadsBefore s t (k - 1) < t.loads))

/-- The lookups of a block of a tile go on: the reads in flight end, and further lookups are made. -/
def State.walkOn (s : State) (c : Nat) (m : MI) (t : Tile) (block : Nat) : Walking :=
  let bi := (m.at_ t).1.1
  let p := s.pool (poolIdx m.recs)
  let (sq, _, _) := s.seqEntry m.recs bi
  let n := s.blockLen m bi block
  let todo := if pMode p then
      blockGranules p (s.seqRec p sq) (poolHead m.recs) ((List.range n).map fun k => 64 * block + k)
    else []
  let w := (t.walks.find? fun w => decide (w.block = block)).getD ⟨block, 64 * block, todo, [], [], false⟩
  let cl := c / 16
  let s := s.modTile c t fun u => { u with walks := u.walks.filter fun w => decide (w.block ≠ block) }
  let x := (Walking.mk s t.cursor w none).settle cl m
  if pMode p then x.granules cl m sq x.w.todo else x.pages cl m sq (64 * block + n) (66 + 4 * block)

/-- KV_WALK: the lookups of one score block of a tile that a core holds. Reads stay in flight until the next such command for the
block (log 44, DESIGN CHOICE). A walk that fails faults the macro-instruction (R291, R292). -/
def execKvWalk (core : CoreId) (strm : StreamId) (ticket : W64) (idx block : Nat) (s : State) : Res :=
  let c := core.toNat
  match (s.core c).tiles.find? fun t => decide (t.strm = strm) && decide (t.ticket = ticket) && decide (t.idx = idx) with
  | none => .next s
  | some t =>
    match s.tileMi t with
    | none => .next s
    | some m =>
      if !s.up || !hasRole m.recs rolePool || !m.mayRun t || t.walked block then .next s
      else
        match s.fetchScan m c with
        | .wait s => .next s
        | .failed s e w => .next (s.tileFault c m t e w)
        | .ready s =>
        if !s.mayWalk m t block then .next s else
        let x := s.walkOn c m t block
        match x.bad with
        | some (e, w) => .next (x.s.tileFault c m t e w)
        | none => .next (x.s.modTile c t fun u =>
            { u with cursor := x.cur, walks := x.w :: u.walks })

/-! ### The prefix tree (R301-R303) -/

/-- Hash of 256 tokens under a parent hash (R301). -/
def pageHash (parent : W64) (tok : Nat → W32) : W64 :=
  forN 64 (fun g x =>
    let c : BitVec 128 := BitVec.ofNat 128
      ((tok (4 * g)).toNat + (tok (4 * g + 1)).toNat * 2 ^ 32 + (tok (4 * g + 2)).toNat * 2 ^ 64 +
        (tok (4 * g + 3)).toNat * 2 ^ 96)
    let q := rngWords x c
    BitVec.ofNat 64 (q.x1.toNat * 2 ^ 32 + q.x0.toNat)) parent

/-- A slot of the node table (R302). -/
structure Node where
  state : Nat
  depth : Nat
  refs : Nat
  children : Nat
  parent : Nat
  hash : Nat
  pte : Nat
  deriving DecidableEq, Repr

/-- Address of slot k of a pool's node table. -/
def slotAddr (p : Pool) (k : Nat) : Nat := treeAddr p.img + 32 * k

/-- Slot k of a pool's node table. -/
def State.node (s : State) (p : Pool) (k : Nat) : Node :=
  let a := slotAddr p k
  ⟨s.num a 2 % 4, s.num (a + 2) 2, s.num (a + 4) 4, s.num (a + 8) 4, s.num (a + 12) 4, s.num (a + 16) 8, s.num (a + 24) 8⟩

/-- Write slot k, through the awl of its home (R303). -/
def State.setNode (s : State) (p : Pool) (k : Nat) (n : Node) : State :=
  let a := slotAddr p k
  let bs := leBytes 2 n.state ++ leBytes 2 n.depth ++ leBytes 4 n.refs ++ leBytes 4 n.children ++ leBytes 4 n.parent ++
    leBytes 8 n.hash ++ leBytes 8 n.pte
  s.awlStore (s.home (a / 128)) a bs (s.atHome (a / 128))

/-- A pool's slot k is live. -/
def State.liveNode (s : State) (p : Pool) (k : Nat) : Bool :=
  decide (k < 2 ^ treeLog2 p.img) && decide ((s.node p k).state = 1)

/-- No parent: a first-level page. -/
abbrev noParent : Nat := 0xFFFFFFFF

/-- What a probe finds: a match, or the first removed or empty slot, or neither (R303). -/
structure Probe where
  found : Option Nat
  free : Option Nat
  deriving DecidableEq, Repr

/-- Probe slots from k on. -/
def State.probe (s : State) (p : Pool) (hash parent : Nat) : Nat → Nat → Option Nat → Probe
  | 0, _, free => ⟨none, free⟩
  | n + 1, k, free =>
    let k := k % 2 ^ treeLog2 p.img
    let x := s.node p k
    if x.state = 1 ∧ x.hash = hash ∧ x.parent = parent then ⟨some k, free⟩
    else if x.state = 0 then ⟨none, free.or (some k)⟩
    else s.probe p hash parent n (k + 1) (if x.state = 2 then free.or (some k) else free)

/-- The probe sequence of a hash. -/
def State.probeFor (s : State) (p : Pool) (hash parent : Nat) : Probe :=
  let n := 2 ^ treeLog2 p.img
  s.probe p hash parent (min 64 n) (hash % n) none

/-- A valid shared page table entry (R290, R291). -/
def sharedPte (e : W64) : Bool := decide (bits e 0 2 = 1) && decide (bits e 2 3 = 4) && !bit e 5 && !bit e 63

/-- What an operation of the prefix unit gives: error, found, result slot, arg1, and the state. -/
structure TreeOut where
  err : Code
  found : Bool
  slot : Nat
  arg1 : W64
  s : State

/-- KV_TREE_CTL.pool and slot take the values written. -/
def State.setTree (s : State) (i : StreamId) (pool : Byte) (slot : W32) : State :=
  s.modSreg i fun r => { r with treePool := pool, treeSlot := slot }

/-- The prefix unit carries out an operation for stream i (R303): done, found, err and result are set, and KV_TREE_OPS
counts. -/
def State.treeDo (s : State) (i : StreamId) (pool : Byte) (k : State → StreamRegs → Pool → TreeOut) : State :=
  let r := s.sreg i
  let p := s.pool pool.toNat
  let o := if !p.defined then ⟨eHandle, false, 0, r.treeArg1, s⟩
    else if !treeEn p.img then ⟨eOperand, false, 0, r.treeArg1, s⟩
    else k s r p
  let s := if o.err = 0 then o.s else s
  (s.modSreg i fun r => { r with
    treeArg1 := if o.err = 0 then o.arg1 else r.treeArg1
    treeStatus := BitVec.ofNat 64 (2 + 4 * b2n o.found + o.err.toNat * 2 ^ 16 + o.slot * 2 ^ 32) }).count evKvTreeOps .device (some i) 1

/-- An operation of the prefix unit for stream i, in RUNNING only and in arrival order (R303, R484). -/
def State.treeOp (s : State) (op : BitVec 3) (i : StreamId) (pool : Byte) (slot : W32)
    (k : State → StreamRegs → Pool → TreeOut) : State :=
  if s.boot.phase ≠ .running then s
  else s.runOp (.treeOp op i pool slot) (fun s => s.setTree i pool slot) fun s => s.treeDo i pool k

/-- A refusal of the prefix unit. -/
def treeNo (s : State) (r : StreamRegs) (e : Code) : TreeOut := ⟨e, false, 0, r.treeArg1, s⟩

/-- The parent that an operation names is usable. -/
def State.parentOk (s : State) (p : Pool) (k : Nat) : Bool := decide (k = noParent) || s.liveNode p k

/-- The error of a token block for HASH (log 44, DEDUCED): misaligned, outside memory, poisoned. -/
def State.tokenErr (s : State) (a : Nat) : Code :=
  if a % 128 ≠ 0 then eAlign else if !inMem a 1024 then eBounds else if (s.poisonIn a 1024).isSome then eStackUe else 0

/-- KV_TREE_HASH. -/
def execKvTreeHash (strm : StreamId) (pool : Byte) (slot : W32) (s : State) : Res :=
  .next (s.treeOp 1 strm pool slot fun s r p =>
    let a := r.treeArg0.toNat
    if !s.parentOk p slot.toNat then treeNo s r eHandle
    else if s.tokenErr a ≠ 0 then treeNo s r (s.tokenErr a)
    else
      let parent : W64 := if slot.toNat = noParent then BitVec.ofNat 64 (bits p.img 320 64)
        else BitVec.ofNat 64 (s.node p slot.toNat).hash
      ⟨0, false, 0, pageHash parent fun k => BitVec.ofNat 32 (s.num (a + 4 * k) 4), s⟩)

/-- Take a reference of a live node; the count stops at its largest value (log 44, DEDUCED). -/
def State.holdNode (s : State) (p : Pool) (k : Nat) : State :=
  let n := s.node p k
  s.setNode p k { n with refs := min (n.refs + 1) 0xFFFFFFFF }

/-- KV_TREE_LOOKUP. -/
def execKvTreeLookup (strm : StreamId) (pool : Byte) (slot : W32) (s : State) : Res :=
  .next (s.treeOp 2 strm pool slot fun s r p =>
    if !s.parentOk p slot.toNat then treeNo s r eHandle
    else
      match (s.probeFor p r.treeArg0.toNat slot.toNat).found with
      | some k => ⟨0, true, k, r.treeArg1, s.holdNode p k⟩
      | none => ⟨0, false, 0, r.treeArg1, s⟩)

/-- KV_TREE_INSERT. -/
def execKvTreeInsert (strm : StreamId) (pool : Byte) (slot : W32) (s : State) : Res :=
  .next (s.treeOp 3 strm pool slot fun s r p =>
    if !s.parentOk p slot.toNat then treeNo s r eHandle
    else if !sharedPte r.treeArg1 then treeNo s r eKvPage
    else
      let pr := s.probeFor p r.treeArg0.toNat slot.toNat
      match pr.found, pr.free with
      | some k, _ => ⟨0, true, k, r.treeArg1, s.holdNode p k⟩
      | none, none => treeNo s r eKvTreeFull
      | none, some k =>
        let first := decide (slot.toNat = noParent)
        let depth := if first then 1 else (s.node p slot.toNat).depth + 1
        let s1 := s.setNode p k ⟨1, depth, 1, 0, slot.toNat, r.treeArg0.toNat, r.treeArg1.toNat⟩
        let s1 := if first then s1
          else
            let n := s1.node p slot.toNat
            s1.setNode p slot.toNat { n with children := n.children + 1 }
        ⟨0, false, k, r.treeArg1, s1⟩)

/-- KV_TREE_RELEASE. -/
def execKvTreeRelease (strm : StreamId) (pool : Byte) (slot : W32) (s : State) : Res :=
  .next (s.treeOp 4 strm pool slot fun s r p =>
    if !s.liveNode p slot.toNat then treeNo s r eHandle
    else
      let n := s.node p slot.toNat
      if n.refs = 0 then treeNo s r eBounds
      else ⟨0, false, 0, r.treeArg1, s.setNode p slot.toNat { n with refs := n.refs - 1 }⟩)

/-- KV_TREE_EVICT. -/
def execKvTreeEvict (strm : StreamId) (pool : Byte) (slot : W32) (s : State) : Res :=
  .next (s.treeOp 5 strm pool slot fun s r p =>
    if !s.liveNode p slot.toNat then treeNo s r eHandle
    else
      let n := s.node p slot.toNat
      if n.refs ≠ 0 ∨ n.children ≠ 0 then treeNo s r eBusy
      else
        let s1 := s.setNode p slot.toNat { n with state := 2 }
        let s1 := if s1.liveNode p n.parent then
            let q := s1.node p n.parent
            s1.setNode p n.parent { q with children := q.children - 1 }
          else s1
        ⟨0, false, 0, BitVec.ofNat 64 n.pte, s1⟩)

/-- KV_TREE_OP_REFUSED: op 6 or 7. -/
def execKvTreeOpRefused (strm : StreamId) (pool : Byte) (slot : W32) (op : BitVec 3) (s : State) : Res :=
  .next (if op.toNat < 6 ∨ s.boot.phase ≠ .running then s
    else s.badOp (.tree strm) fun s =>
      ((s.setTree strm pool slot).modSreg strm fun r => { r with
        treeStatus := BitVec.ofNat 64 (2 + eHandle.toNat * 2 ^ 16) }).count evKvTreeOps .device (some strm) 1)

end Sys2Proof.Machine
end

