-- ==== Sys2Proof/Machine/Groups.lean ====
section
/-! DEFINITION. Definition and removal of groups through UNIT_GDEF (R23-R25, R28, R29). -/

namespace Sys2Proof.Machine

/-- An operation ends: done, err and cause 85 (R28, R412). -/
def State.gdefEnd (s : State) (e : Code) : State :=
  ({ s with dev := { s.dev with gdefDone := true, gdefErr := e } }).raise 85

/-- UNIT_GDEF_CTL.index takes the value written. -/
def State.setGdef (s : State) (index : BitVec 16) : State := { s with dev := { s.dev with gdefIndex := index } }

/-- The group at UNIT_GDEF_SRC is defined or refused (R24). -/
def State.gdefDefine (s : State) (index : BitVec 16) : State :=
  let e := s.gdefErr index.toNat true s.dev.gdefSrc.toNat
  if e = 0 then (s.gdefine index.toNat s.dev.gdefSrc.toNat).gdefEnd 0 else s.gdefEnd e

/-- A group is removed or the removal refused (R25). -/
def State.gdefRemove (s : State) (index : BitVec 16) : State :=
  let e := s.gundefErr index.toNat
  if e = 0 then (s.gundefine index.toNat).gdefEnd 0 else s.gdefEnd e

/-- The configuration system completes the operation of UNIT_GDEF it has before it begins another (R23). -/
def State.gdefFlush (s : State) : State :=
  match s.running .gdef with
  | some (.gdefDefine i) => { s with ops := s.ops.erase (.gdefDefine i) }.gdefDefine i
  | some (.gdefRemove i) => { s with ops := s.ops.erase (.gdefRemove i) }.gdefRemove i
  | _ => s

/-- UNIT_GDEF_DEFINE, in RUNNING only (R484). -/
def execUnitGdefDefine (index : BitVec 16) (s : State) : Res :=
  .next (if s.boot.phase ≠ .running then s
    else s.runOp (.gdefDefine index) (fun s => s.setGdef index) fun s => s.gdefDefine index)

/-- UNIT_GDEF_REMOVE (R25). -/
def execUnitGdefRemove (index : BitVec 16) (s : State) : Res :=
  .next (if s.boot.phase ≠ .running then s
    else s.runOp (.gdefRemove index) (fun s => s.setGdef index) fun s => s.gdefRemove index)

/-- UNIT_GDEF_OP_REFUSED: op 0b11 (R483). -/
def execUnitGdefOpRefused (index : BitVec 16) (s : State) : Res :=
  .next (if s.boot.phase ≠ .running then s else s.badOp .gdef fun s => (s.setGdef index).gdefEnd eHandle)

end Sys2Proof.Machine
end

