-- ==== Sys2Proof/Machine/Images.lean ====
section
/-! DEFINITION. Context images: their parts, lengths, building, checking and loading (R120, R121, R477-R479). The offsets
inside a part that R477 does not give are this model's (log 42, DESIGN CHOICE). -/

namespace Sys2Proof.Machine

/-! ### Lengths (R477) -/

/-- Image header. -/
abbrev imgHdr : Nat := 128
/-- Stream section. -/
abbrev imgStream : Nat := 256
/-- Offset of the shape list in the stream section, and how many words fit. -/
abbrev shapeAt : Nat := 0x48
/-- Shape words in the stream section. -/
abbrev shapeIn : Nat := (imgStream - shapeAt) / 2

/-- Bytes of a macro-instruction entry with n records and a bitmap of b bytes. -/
def imgEntry (n b : Nat) : Nat := 64 + 32 + 32 + 64 * n + 320 + roundUp b 64

/-- Bitmap bytes of a macro-instruction. -/
def MI.bitmapLen (s : State) (m : MI) : Nat := ceilDiv (m.unitCount s) 8

/-- Outstanding macro-instructions of stream i. -/
def State.ownMis (s : State) (i : StreamId) : List MI := s.mis.filter (s.ownMi i)

/-- The length the image of stream i has, or would have now (R115). -/
def State.requiredLen (s : State) (i : StreamId) : Nat :=
  let x := s.strm i
  let n := x.leaves.length
  imgHdr + imgStream + (n + 1) * imgCtx + ((s.ownMis i).map fun m => imgEntry m.recs.length (m.bitmapLen s)).sum +
  (x.farEntries.map List.length).sum +
  (if x.dirty then n * imgLeaf else 0)

/-! ### Contexts -/

/-- Context slots of stream i of this device that are on this device. -/
def State.ownCtxs (s : State) (i : StreamId) : List (CtxId × Ctx) :=
  (s.ctxs.filter fun e => e.2.used && decide (e.2.dev.toNat = s.own) && decide (e.2.strm = i)).map
    fun e => (BitVec.ofNat 12 e.1, e.2)

/-- The lead context of stream i. -/
def State.leadCtx (s : State) (i : StreamId) : Option (CtxId × Ctx) := (s.ownCtxs i).find? fun e => e.2.lead
/-- The block context of rank r of stream i, if on this device. -/
def State.blockCtx (s : State) (i : StreamId) (r : Nat) : Option (CtxId × Ctx) :=
  (s.ownCtxs i).find? fun e => !e.2.lead && decide (e.2.rank = r)

/-! ### Leaf sections -/

/-- A dispatched block, with the unit it was dispatched to. -/
def Block.bytes (b : Block) (unit : W32) : List Byte :=
  leBytes 8 b.ticket.toNat ++ leBytes 8 unit.toNat ++ leBytes 8 b.addr.toNat ++
  (List.range 4).flatMap (fun k => leBytes 8 (b.args.getD k 0).toNat) ++ leBytes 8 b.rank

/-- A block and its unit from 64 bytes. -/
def Block.ofBytes (b : List Byte) : Block × W32 :=
  let num (k : Nat) : W64 := BitVec.ofNat 64 (leNat ((b.drop (8 * k)).take 8))
  (⟨num 0, num 2, [num 3, num 4, num 5, num 6], (num 7).toNat⟩, (num 1).setWidth 32)

/-- The unit a block of stream i was dispatched to; only its device knows it. -/
def State.blockUnit (s : State) (i : StreamId) (t : W64) : W32 :=
  match (s.strm i).disps.find? fun d => decide (d.ticket = t) with
  | some d => d.handle
  | none => 0

/-- The blocks a context still holds, as the head of a leaf section's tail. -/
def State.blocksBytes (s : State) (i : StreamId) (bs : List Block) : List Byte :=
  leBytes 8 bs.length ++ bs.flatMap fun b => b.bytes (s.blockUnit i b.ticket)

/-- Bytes padded with zeros to n. -/
def padTo (n : Nat) (b : List Byte) : List Byte := b ++ List.replicate (n - b.length) 0

/-- The leaf section of core c for stream i of device d: the accumulators of its core, the blocks its context holds, its
registers, and the progress of the tiles it stopped (R119, R477). -/
def State.leafBytes (s : State) (d : BitVec 16) (i : StreamId) (c : Nat) (x : Ctx) : List Byte :=
  let ts := s.savedTiles d.toNat i c
  let acc := if ts.isEmpty then [] else (s.core c).acc
  (List.range 16384).flatMap (fun k => (tget Acc.zero acc k).bytes) ++
  padTo 65536 (padTo tailTiles (padTo tailCtx (s.blocksBytes i x.blocks) ++ x.bytes) ++ tilesBytes ts)

/-- The blocks that the tail of a leaf section records. -/
def tailBlocks (b : List Byte) : List (Block × W32) :=
  (List.range (min (leNat (b.take 8)) 255)).map fun k => Block.ofBytes (b.drop (8 + 64 * k))

/-- The blocks a leaf section records. -/
def leafBlocks (b : List Byte) : List (Block × W32) := tailBlocks (b.drop imgAcc)

/-! ### The shape list -/

/-- Ordinal of each leaf's cluster in rank order, and its position within it. -/
def shapeList (leaves : List (Nat × Nat)) : List Nat :=
  let cls := leaves.foldl (fun (l : List (Nat × Nat)) x =>
    if l.contains (x.1, x.2 / 16) then l else l ++ [(x.1, x.2 / 16)]) []
  leaves.map fun x => (cls.findIdx fun c => decide (c = (x.1, x.2 / 16))) * 256 + x.2 % 16

/-- Offset in the image of word k of the shape list, leaf sections from `leaf` on. -/
def shapePos (leaf k : Nat) : Nat :=
  if k < shapeIn then imgHdr + shapeAt + 2 * k
  else leaf + (k - shapeIn) * imgLeaf + imgAcc + tailShape

/-! ### Macro-instruction entries -/

/-- Progress bitmap of a macro-instruction. -/
def MI.bitmap (s : State) (m : MI) : List Byte :=
  let n := m.bitmapLen s
  let v := (firstOnly [] m.units).foldl (fun v u => v + 2 ^ u) 0
  leBytes n v ++ List.replicate (roundUp n 64 - n) 0

/-- The entry of an outstanding macro-instruction: ticket, records, bitmap bytes, the rank of its issuing core and its unit
in the head. -/
def MI.entry (s : State) (m : MI) (rank : Nat) : List Byte :=
  leBytes 8 m.ticket.toNat ++ leBytes 4 m.recs.length ++ leBytes 4 (m.bitmapLen s) ++
  leBytes 4 rank ++ leBytes 4 m.handle.toNat ++ List.replicate 40 0 ++
  leBytes 32 m.desc.toNat ++ List.replicate 32 0 ++ m.recs.flatMap (fun r => leBytes 64 r.toNat) ++
  ({ m with desc := setBits m.desc 28 1 0 }.histBytes []) ++ m.bitmap s

/-- The macro-instruction an entry describes, unpublished, of stream i. -/
def State.ofEntry (s : State) (i : StreamId) (x : Stream) (e : List Byte) : MI :=
  let num (o n : Nat) : Nat := leNat ((e.drop o).take n)
  let n := num 8 4
  let rank := num 16 4
  let at0 := 128 + 64 * n
  let core : CoreId := match x.leaves[rank]? with
    | some l => if l.1 = s.own then BitVec.ofNat 9 l.2 else x.lead
    | none => x.lead
  let bm := (e.drop (at0 + 320)).take (num 12 4)
  { strm := i, ticket := BitVec.ofNat 64 (num 0 8), home := BitVec.ofNat 16 s.own, here := true, seed := x.seed, cstream := x.cstream,
    core := core, handle := BitVec.ofNat 32 (num 20 4), leaves := [], desc := BitVec.ofNat 256 (num 64 32),
    recs := (List.range n).map fun k => BitVec.ofNat 512 (num (128 + 64 * k) 64),
    atDevice := false, cluster := 0, slot := 0, tm := 0, tk := 0, nm := 0, nn := 0, chunks := 0, parts := 0, team := 0,
    total := 0, next := 0, returned := [], out := [], claimed := 0, retired := 0, waiting := true, scanned := false,
    stopped := true, faulted := false, pub := none,
    units := (List.range (8 * bm.length)).filter fun u => bit (bm.getD (u / 8) 0) (u % 8),
    hist := tput ((List.range 64).filterMap fun b => let v := num (at0 + 0x40 + 4 * b) 4; if v = 0 then none else some (b, v))
      histCount (num (at0 + 8) 8),
    present := [], pins := [], pool := none, mergeSlots := [], mergeDone := [], teamRows := [], prio := x.prio }

/-! ### A whole image -/

/-- Bytes with n of them at an offset replaced. -/
def patch (b : List Byte) (o : Nat) (p : List Byte) : List Byte := b.take o ++ p ++ b.drop (o + p.length)

/-- The record of rank r: of this device's context, or as a context of another device had its registers when its last block
ended; zero before (R104). -/
def State.rankRecord (s : State) (i : StreamId) (r : Nat) : List Byte :=
  match s.blockCtx i r with
  | some e => e.2.bytes
  | none => tget Ctx.free.bytes (s.strm i).farRecs r

/-- Ticket of an entry. -/
def entryTicket (e : List Byte) : Nat := leNat (e.take 8)

/-- Insert an entry into a list in ticket order. -/
def insertEntry (e : List Byte) : List (List Byte) → List (List Byte)
  | [] => [e]
  | x :: xs => if entryTicket e < entryTicket x then e :: x :: xs else x :: insertEntry e xs

/-- The entries of a paused stream in ticket order, those that other devices publish among them (R477). -/
def State.entriesOf (s : State) (i : StreamId) : List (List Byte) :=
  let x := s.strm i
  let es := (s.ownMis i).map (fun m => m.entry s (rankOf x.leaves (s.own, m.core.toNat))) ++ x.farEntries
  es.foldl (fun l e => insertEntry e l) []

/-- The stream section of stream i, with as much of the shape list as fits if the image is dirty. -/
def State.streamSection (s : State) (i : StreamId) : List Byte :=
  let x := s.strm i
  let g := s.sreg i
  let words := [x.codeAddr.toNat, x.codeLen.toNat, x.entry.toNat, x.nextMi.toNat, x.nextDisp.toNat,
    g.schedProg.toNat, g.schedParam.toNat, g.schedShape.toNat, g.schedStep.toNat]
  let shape := if x.dirty then ((shapeList x.leaves).take shapeIn).flatMap (leBytes 2) else []
  (words.flatMap (leBytes 8)) ++ shape ++ List.replicate (imgStream - shapeAt - shape.length) 0

/-- The digest of an image (R477). -/
def imgDigest (b : List Byte) : List Byte := sha384 (b.take 0x40 ++ b.drop 0x70)

/-- The image of a paused stream (R120, R477); a dirty one copies its leaf sections from the spill area. -/
def State.imageOf (s : State) (i : StreamId) : List Byte :=
  let x := s.strm i
  let n := x.leaves.length
  let es := s.entriesOf i
  let total := s.requiredLen i
  let hdr := leBytes 4 0x43585449 ++ leBytes 2 1 ++ leBytes 1 (if x.dirty then 2 else 1) ++ leBytes 1 es.length ++
    leBytes 8 total ++ leBytes 2 64 ++ leBytes 2 0 ++ leBytes 4 n ++ leBytes 8 x.seed.toNat ++
    leBytes 1 x.cstream.toNat ++ leBytes 3 0 ++ leBytes 4 (rankOf x.leaves (s.own, x.lead.toNat)) ++
    List.replicate 88 0
  let lead := match s.leadCtx i with | some e => e.2.bytes | none => List.replicate imgCtx 0
  let body := hdr ++ s.streamSection i ++ lead ++ (List.range n).flatMap (s.rankRecord i) ++ es.flatten
  let body := if x.dirty then
      let leaf := body.length
      let body := body ++ s.bytes x.spillAddr.toNat (n * imgLeaf)
      ((shapeList x.leaves).zipIdx.drop shapeIn).foldl (fun b e => patch b (shapePos leaf e.2) (leBytes 2 e.1)) body
    else body
  patch body 0x40 (imgDigest body)

/-- Number of n bytes at an offset of an image. -/
def imgNum (b : List Byte) (o n : Nat) : Nat := leNat ((b.drop o).take n)

/-- Offsets of the macro-instruction entries of an image from an offset on, and the end of the last. -/
def entriesFrom (b : List Byte) : Nat → Nat → List Nat × Nat
  | 0, o => ([], o)
  | k + 1, o =>
    let (l, e) := entriesFrom b k (o + imgEntry (imgNum b (o + 8) 4) (imgNum b (o + 12) 4))
    (o :: l, e)

/-- Offsets of the entries of an image and of its leaf sections. -/
def imgEntries (b : List Byte) : List Nat × Nat :=
  entriesFrom b (imgNum b 7 1) (imgHdr + imgStream + (imgNum b 0x14 4 + 1) * imgCtx)

/-- The total length that kind, leaf_count and mi_count give (step 2 of R121). -/
def imgTotal (b : List Byte) : Nat := (imgEntries b).2 + (if imgNum b 6 1 = 2 then imgNum b 0x14 4 * imgLeaf else 0)

/-- Whether an entry's head agrees with its descriptor and, where no pool decides the columns, with its bitmap (R479; log 42,
DESIGN CHOICE). -/
def State.entryOk (s : State) (i : StreamId) (b : List Byte) (o : Nat) : Bool :=
  let e := b.drop o
  let n := imgNum e 8 4
  let m := s.ofEntry i (s.strm i) e
  decide (n ≤ 15) && decide (dCount m.desc = n) && (hasRole m.recs rolePool || decide (imgNum e 12 4 = m.bitmapLen s))

/-- Steps 2 and 3 of R121 and the spill length of R479, on the bytes total_len covers; names as R476. -/
def State.imageErr (s : State) (i : StreamId) (b : List Byte) : Code × W64 :=
  let x := s.strm i
  let (es, leaf) := imgEntries b
  if b.length < imgHdr + imgStream then (eImage, 0)
  else if imgNum b 0 4 ≠ 0x43585449 ∨ imgNum b 4 2 ≠ 1 ∨ (imgNum b 6 1 ≠ 1 ∧ imgNum b 6 1 ≠ 2) ∨ 16 < imgNum b 7 1 ∨
      imgTotal b ≠ b.length then (eImage, 0)
  else if imgDigest b ≠ (b.drop 0x40).take 48 then (eImage, 0)
  else if !es.all (s.entryOk i b) then (eImage, 0)
  else if imgNum b 6 1 = 1 then (0, 0)
  else if imgNum b 0x10 2 ≠ 64 then (eLanes, 0)
  else if (List.range (imgNum b 0x14 4)).map (fun k => imgNum b (shapePos leaf k) 2) ≠ shapeList x.leaves then (eShape, 0)
  else if x.spillLen.toNat < x.leaves.length * imgLeaf then (eBounds, nameW 1 256)
  else (0, 0)

/-- Bytes of rank r's record in an image, if it holds one. -/
def imgRecord (b : List Byte) (r : Nat) : Option (List Byte) :=
  if r < imgNum b 0x14 4 then some ((b.drop (imgHdr + imgStream + (r + 1) * imgCtx)).take imgCtx) else none

/-- What a context gets from an image: its record, and the blocks it had not ended. -/
def Ctx.restored (c : Ctx) (rec : List Byte) (held : List Block) : Ctx :=
  { (c.ofBytes rec) with
    blocks := held, pausing := false, stopping := false, granted := none
    wait := if held.isEmpty && !c.lead then .idle else .stopped }

/-- Blocks not ended by a list of ranks, joined into the dispatches they belong to. -/
def dispsOf (bs : List ((Nat × Nat) × List (Block × W32))) : List Disp :=
  bs.foldl (fun ds e => e.2.foldl (fun (ds : List Disp) bu =>
    if ds.any fun d => decide (d.ticket = bu.1.ticket) then
      ds.map fun (d : Disp) => if d.ticket = bu.1.ticket then { d with leaves := d.leaves ++ [e.1] } else d
    else ds ++ [⟨bu.1.ticket, bu.2, [e.1]⟩]) ds) []

/-- Load a checked image into stream i (R121, R479), on every device that holds its leaf cores. -/
def State.loadImage (s : State) (i : StreamId) (b : List Byte) : State :=
  let dirty := decide (imgNum b 6 1 = 2)
  let (es, leaf) := imgEntries b
  let sec (k : Nat) : Nat := imgNum b (imgHdr + 8 * k) 8
  let s := (s.ownMis i).foldl (fun s m => s.removeMi m) s
  let x := s.strm i
  let tail (r : Nat) : List Byte := if dirty then (b.drop (leaf + r * imgLeaf + imgAcc)).take tailCtx else []
  let rec_ (r : Nat) : List Byte := (imgRecord b r).getD Ctx.free.bytes
  let x := { x with
    state := .paused, drainPaused := false, prompt := false, dirty := dirty, seed := BitVec.ofNat 64 (imgNum b 0x18 8),
    cstream := BitVec.ofNat 6 (imgNum b 0x20 1), codeAddr := BitVec.ofNat 48 (sec 0), codeLen := BitVec.ofNat 64 (sec 1),
    entry := BitVec.ofNat 64 (sec 2), nextMi := BitVec.ofNat 64 (sec 3), nextDisp := BitVec.ofNat 64 (sec 4)
    disps := dispsOf (x.leaves.zipIdx.map fun e => (e.1, tailBlocks (tail e.2)))
    farMis := [], asks := [], farPend := [], farEntries := []
    farRecs := (x.leaves.zipIdx.filter fun e => decide (e.1.1 ≠ s.own)).map fun e => (e.2, rec_ e.2) }
  let base : W64 := x.codeAddr.setWidth 64
  let s := s.setStrm i x
  let s := s.modSreg i fun g => { g with
    schedProg := BitVec.ofNat 64 (sec 5), schedParam := BitVec.ofNat 64 (sec 6), schedShape := BitVec.ofNat 64 (sec 7),
    schedStep := BitVec.ofNat 48 (sec 8) }
  let s := (s.ownCtxs i).foldl (fun s e =>
    let c := { e.2 with seed := x.seed, cstream := x.cstream, codeBase := base, codeLen := x.codeLen }
    s.setCtx e.1 (if c.lead then c.restored ((b.drop (imgHdr + imgStream)).take imgCtx) []
      else c.restored (rec_ c.rank) ((tailBlocks (tail c.rank)).map Prod.fst))) s
  let s := (s.farDevs x.leaves).foldl (fun s d =>
    s.send (.notice d (.restore (BitVec.ofNat 16 s.own) i x.seed x.cstream base x.codeLen
      ((x.leaves.zipIdx.filter fun e => decide (e.1.1 = d)).map fun e => (BitVec.ofNat 9 e.1.2, rec_ e.2, tail e.2))))) s
  let s := { s with mis := s.mis ++ es.map fun o => s.ofEntry i x (b.drop o) }
  if dirty then s.storePlain x.spillAddr.toNat (b.drop leaf) else s

end Sys2Proof.Machine
end

