-- ==== Sys2Proof/Machine/Isa.lean ====
section
/-! DEFINITION. Sequencer and vector encodings (R123-R128) and the checks LOAD makes on a program (R117). -/

namespace Sys2Proof.Machine

/-! ### Fields of a sequencer word (R123) -/

/-- op. -/
def wOp (w : W32) : Nat := bits w 26 6
/-- d. -/
def wD (w : W32) : Reg := BitVec.ofNat 5 (bits w 17 5)
/-- a. -/
def wA (w : W32) : Reg := BitVec.ofNat 5 (bits w 12 5)
/-- b. -/
def wB (w : W32) : Reg := BitVec.ofNat 5 (bits w 7 5)
/-- fn. -/
def wFn (w : W32) : Nat := bits w 0 7
/-- imm12. -/
def wImm (w : W32) : BitVec 12 := BitVec.ofNat 12 (bits w 0 12)
/-- off. -/
def wOff (w : W32) : BitVec 22 := BitVec.ofNat 22 (bits w 0 22)
/-- Predication fields. -/
def wPred (w : W32) : Pred := ⟨bit w 25, BitVec.ofNat 3 (bits w 22 3)⟩

/-- fn of s.alu (R125). -/
def aluOf : Nat → Option AluFn
  | 0 => some .add | 1 => some .sub | 2 => some .and | 3 => some .or | 4 => some .xor | 5 => some .sll | 6 => some .srl
  | 7 => some .sra | 8 => some .mul | 9 => some .mulh | 10 => some .mulhu | 11 => some .min | 12 => some .max
  | 13 => some .minu | 14 => some .maxu | 15 => some .divu | 16 => some .remu | _ => none

/-- Condition codes (R125). -/
def condOf : Nat → Option Cond
  | 0 => some .eq | 1 => some .ne | 2 => some .lt | 3 => some .ge | 4 => some .ltu | 5 => some .geu | _ => none

/-- fn of s.pop (R125). -/
def popOf : Nat → Option PopFn
  | 0 => some .and | 1 => some .or | 2 => some .xor | 3 => some .andNot | 4 => some .not | _ => none

/-- fn of s.amo (R125). -/
def amoFnOf : Nat → Option AmoFn
  | 0 => some .add | 1 => some .swap | 2 => some .cas | 3 => some .max | 4 => some .min | 5 => some .or | 6 => some .and
  | _ => none

/-- fn of s.fence (R131). -/
def fenceOf : Nat → Option FenceFn
  | 0 => some .localScope | 1 => some .unit | 2 => some .device | 3 => some .system | _ => none

/-- fn of s.info (R125). -/
def infoOf : Nat → Option InfoFn
  | 0 => some .cycle | 1 => some .device | 2 => some .stream | 3 => some .core | 4 => some .rank | 5 => some .leaves
  | _ => none

/-- Shift selection of s.shi (R125). -/
def shiftOf : Nat → Option ShiftKind
  | 0 => some .left | 1 => some .logical | 2 => some .arithmetic | _ => none

/-- i if the reserved fields are zero. -/
def ifRsv (ok : Bool) (i : Option Instr) : Option Instr := if ok then i else none

/-- The instruction of a 32-bit sequencer word; none for an undefined encoding or a reserved field that is not zero
(R123-R125). -/
def decodeSeq (cx : CtxId) (w : W32) : Option Instr :=
  let p := wPred w
  let d := wD w
  let a := wA w
  let b := wB w
  let fn := wFn w
  let imm := wImm w
  let pd : BitVec 3 := BitVec.ofNat 3 (bits w 17 3)
  match wOp w with
  | 0x00 => (aluOf fn).map fun f => .sAlu cx p f d a b
  | 0x01 => some (.sAddi cx p d a imm)
  | 0x02 => some (.sAndi cx p d a imm)
  | 0x03 => some (.sOri cx p d a imm)
  | 0x04 => some (.sXori cx p d a imm)
  | 0x05 => ifRsv (decide (bits w 8 4 = 0)) ((shiftOf (bits w 6 2)).map fun k => .sShi cx p k d a (BitVec.ofNat 6 (bits w 0 6)))
  | 0x06 => ifRsv (!bit w 22 && !bit w 16)
      (some (.sMov16 cx (BitVec.ofNat 2 (bits w 24 2)) (bit w 23) d (BitVec.ofNat 16 (bits w 0 16))))
  | 0x08 => ifRsv (decide (bits w 20 2 = 0)) ((condOf fn).map fun k => .sCmp cx p k pd a b)
  | 0x09 => ifRsv (decide (bits w 20 2 = 0))
      ((condOf (bits w 9 3)).map fun k => .sCmpi cx p k pd a (BitVec.ofNat 9 (bits w 0 9)))
  | 0x0A => (popOf fn).map fun f => .sPop cx p f pd (BitVec.ofNat 3 (bits w 12 3)) (BitVec.ofNat 3 (bits w 7 3))
  | 0x10 => some (.sLd cx p d a imm)
  | 0x11 => some (.sLdw cx p d a imm)
  | 0x12 => some (.sSt cx p d a imm)
  | 0x13 => some (.sStw cx p d a imm)
  | 0x14 => (amoFnOf fn).map fun f => .sAmo cx p f d a b
  | 0x18 => some (.sBr cx p (wOff w))
  | 0x19 => some (.sCall cx p (wOff w))
  | 0x1A => ifRsv (decide (d = 0) && decide (b = 0) && decide (fn = 0)) (some (.sJr cx p a))
  | 0x20 => ifRsv (decide (fn = 0)) (some (.sMi cx p d a b))
  | 0x21 => ifRsv (decide (d = 0) && decide (b = 0) && decide (fn = 0)) (some (.sMwait cx p a))
  | 0x22 => ifRsv (decide (fn = 0)) (some (.sDisp cx p d a b))
  | 0x23 => ifRsv (decide (d = 0) && decide (b = 0)) ((fenceOf fn).map fun f => .sFence cx p f a)
  | 0x24 => ifRsv (decide (fn = 0)) (some (.sGdef cx p d a b))
  | 0x25 => ifRsv (decide (b = 0) && decide (fn = 0)) (some (.sGundef cx p d a))
  | 0x28 => ifRsv (decide (a = 0) && decide (b = 0)) ((infoOf fn).map fun f => .sInfo cx p f d)
  | 0x3E => ifRsv (decide (d = 0) && decide (a = 0) && decide (b = 0) && decide (fn = 0)) (some (.sEnd cx p))
  | _ => none

/-- The vop of a vector instruction's low word (R127). -/
def vopOf (lo : W32) : Nat := bits lo 16 6

/-- The fields of a vector instruction (R127). -/
def vFields (lo hi : W32) : VOp :=
  ⟨BitVec.ofNat 5 (bits lo 11 5), BitVec.ofNat 5 (bits lo 6 5), BitVec.ofNat 5 (bits lo 1 5), BitVec.ofNat 5 (bits hi 27 5),
   bit lo 0, BitVec.ofNat 5 (bits hi 15 5), BitVec.ofNat 11 (bits hi 0 11), BitVec.ofNat 4 (bits hi 11 4),
   BitVec.ofNat 2 (bits hi 20 2), BitVec.ofNat 5 (bits hi 22 5)⟩

/-- The vector instruction of two words; none for an undefined vop (R127, R128). -/
def decodeVec (cx : CtxId) (lo hi : W32) : Option Instr :=
  let p := wPred lo
  let v := vFields lo hi
  match vopOf lo with
  | 0x00 => some (.vAdd cx p v)
  | 0x01 => some (.vSub cx p v)
  | 0x02 => some (.vMul cx p v)
  | 0x03 => some (.vFma cx p v)
  | 0x04 => some (.vMin cx p v)
  | 0x05 => some (.vMax cx p v)
  | 0x06 => some (.vUn cx p v)
  | 0x07 => some (.vCmp cx p v)
  | 0x08 => some (.vSel cx p v)
  | 0x09 => some (.vLog cx p v)
  | 0x0A => some (.vSh cx p v)
  | 0x0B => some (.vCvt cx p v)
  | 0x0C => some (.vSfu cx p v)
  | 0x0D => some (.vRed cx p v)
  | 0x0E => some (.vBcast cx p v)
  | 0x0F => some (.vExt cx p v)
  | 0x10 => some (.vLd cx p v)
  | 0x11 => some (.vSt cx p v)
  | 0x12 => some (.vGather cx p v)
  | 0x13 => some (.vScatter cx p v)
  | 0x14 => some (.vIota cx p v)
  | 0x15 => some (.vRng cx p v)
  | 0x16 => some (.vWelford cx p v)
  | 0x17 => some (.vPerm cx p v)
  | _ => none

/-- The instruction at a program counter, from its two words. -/
def decodeAt (cx : CtxId) (lo hi : W32) : Option Instr :=
  if wOp lo = 0x3F then decodeVec cx lo hi else decodeSeq cx lo

/-! ### The encoder (R123-R128), the inverse of the decoder above -/

/-- A sequencer word from op, predication, d, a and its low 12 bits. -/
def seqWord (op : Nat) (p : Pred) (d a lo : Nat) : W32 :=
  BitVec.ofNat 32 (op * 2 ^ 26 + (if p.pn then 1 else 0) * 2 ^ 25 + p.pi.toNat * 2 ^ 22 + d * 2 ^ 17 + a * 2 ^ 12 + lo)

/-- A branch word from op, predication and off. -/
def branchWord (op : Nat) (p : Pred) (off : Nat) : W32 :=
  BitVec.ofNat 32 (op * 2 ^ 26 + (if p.pn then 1 else 0) * 2 ^ 25 + p.pi.toNat * 2 ^ 22 + off)

/-- Code of an s.alu function (R125). -/
def aluCode : AluFn → Nat
  | .add => 0 | .sub => 1 | .and => 2 | .or => 3 | .xor => 4 | .sll => 5 | .srl => 6 | .sra => 7 | .mul => 8 | .mulh => 9
  | .mulhu => 10 | .min => 11 | .max => 12 | .minu => 13 | .maxu => 14 | .divu => 15 | .remu => 16

/-- Code of a condition (R125). -/
def condCode : Cond → Nat
  | .eq => 0 | .ne => 1 | .lt => 2 | .ge => 3 | .ltu => 4 | .geu => 5

/-- Code of an s.pop function (R125). -/
def popCode : PopFn → Nat
  | .and => 0 | .or => 1 | .xor => 2 | .andNot => 3 | .not => 4

/-- Code of an s.amo function (R125). -/
def amoFnCode : AmoFn → Nat
  | .add => 0 | .swap => 1 | .cas => 2 | .max => 3 | .min => 4 | .or => 5 | .and => 6

/-- Code of a fence scope (R131). -/
def fenceCode : FenceFn → Nat
  | .localScope => 0 | .unit => 1 | .device => 2 | .system => 3

/-- Code of an s.info function (R125). -/
def infoCode : InfoFn → Nat
  | .cycle => 0 | .device => 1 | .stream => 2 | .core => 3 | .rank => 4 | .leaves => 5

/-- Code of a shift selection (R125). -/
def shiftCode : ShiftKind → Nat
  | .left => 0 | .logical => 1 | .arithmetic => 2

/-- The word of a sequencer instruction; none for any other command. -/
def encodeSeq : Instr → Option W32
  | .sAlu _ p f d a b => some (seqWord 0x00 p d.toNat a.toNat (b.toNat * 128 + aluCode f))
  | .sAddi _ p d a imm => some (seqWord 0x01 p d.toNat a.toNat imm.toNat)
  | .sAndi _ p d a imm => some (seqWord 0x02 p d.toNat a.toNat imm.toNat)
  | .sOri _ p d a imm => some (seqWord 0x03 p d.toNat a.toNat imm.toNat)
  | .sXori _ p d a imm => some (seqWord 0x04 p d.toNat a.toNat imm.toNat)
  | .sShi _ p k d a n => some (seqWord 0x05 p d.toNat a.toNat (shiftCode k * 64 + n.toNat))
  | .sMov16 _ hw keep d imm =>
    some (BitVec.ofNat 32 (0x06 * 2 ^ 26 + hw.toNat * 2 ^ 24 + (if keep then 1 else 0) * 2 ^ 23 + d.toNat * 2 ^ 17 + imm.toNat))
  | .sCmp _ p k d a b => some (seqWord 0x08 p d.toNat a.toNat (b.toNat * 128 + condCode k))
  | .sCmpi _ p k d a imm => some (seqWord 0x09 p d.toNat a.toNat (condCode k * 512 + imm.toNat))
  | .sPop _ p f d a b => some (seqWord 0x0A p d.toNat a.toNat (b.toNat * 128 + popCode f))
  | .sLd _ p d a imm => some (seqWord 0x10 p d.toNat a.toNat imm.toNat)
  | .sLdw _ p d a imm => some (seqWord 0x11 p d.toNat a.toNat imm.toNat)
  | .sSt _ p d a imm => some (seqWord 0x12 p d.toNat a.toNat imm.toNat)
  | .sStw _ p d a imm => some (seqWord 0x13 p d.toNat a.toNat imm.toNat)
  | .sAmo _ p f d a b => some (seqWord 0x14 p d.toNat a.toNat (b.toNat * 128 + amoFnCode f))
  | .sBr _ p off => some (branchWord 0x18 p off.toNat)
  | .sCall _ p off => some (branchWord 0x19 p off.toNat)
  | .sJr _ p a => some (seqWord 0x1A p 0 a.toNat 0)
  | .sMi _ p d a b => some (seqWord 0x20 p d.toNat a.toNat (b.toNat * 128))
  | .sMwait _ p a => some (seqWord 0x21 p 0 a.toNat 0)
  | .sDisp _ p d a b => some (seqWord 0x22 p d.toNat a.toNat (b.toNat * 128))
  | .sFence _ p f a => some (seqWord 0x23 p 0 a.toNat (fenceCode f))
  | .sGdef _ p d a b => some (seqWord 0x24 p d.toNat a.toNat (b.toNat * 128))
  | .sGundef _ p d a => some (seqWord 0x25 p d.toNat a.toNat 0)
  | .sInfo _ p f d => some (seqWord 0x28 p d.toNat 0 (infoCode f))
  | .sEnd _ p => some (seqWord 0x3E p 0 0 0)
  | _ => none

/-- The low word of a vector instruction. -/
def vecLow (vop : Nat) (p : Pred) (v : VOp) : W32 :=
  BitVec.ofNat 32 (0x3F * 2 ^ 26 + (if p.pn then 1 else 0) * 2 ^ 25 + p.pi.toNat * 2 ^ 22 + vop * 2 ^ 16 +
    v.vd.toNat * 2 ^ 11 + v.va.toNat * 2 ^ 6 + v.vb.toNat * 2 + (if v.me then 1 else 0))

/-- The high word of a vector instruction. -/
def vecHigh (v : VOp) : W32 :=
  BitVec.ofNat 32 (v.vc.toNat * 2 ^ 27 + v.fmt.toNat * 2 ^ 22 + v.rnd.toNat * 2 ^ 20 + v.vm.toNat * 2 ^ 15 +
    v.fn.toNat * 2 ^ 11 + v.imm.toNat)

/-- The vop, predication and fields of a vector instruction; none for any other command. -/
def vecParts : Instr → Option (Nat × Pred × VOp)
  | .vAdd _ p v => some (0x00, p, v)
  | .vSub _ p v => some (0x01, p, v)
  | .vMul _ p v => some (0x02, p, v)
  | .vFma _ p v => some (0x03, p, v)
  | .vMin _ p v => some (0x04, p, v)
  | .vMax _ p v => some (0x05, p, v)
  | .vUn _ p v => some (0x06, p, v)
  | .vCmp _ p v => some (0x07, p, v)
  | .vSel _ p v => some (0x08, p, v)
  | .vLog _ p v => some (0x09, p, v)
  | .vSh _ p v => some (0x0A, p, v)
  | .vCvt _ p v => some (0x0B, p, v)
  | .vSfu _ p v => some (0x0C, p, v)
  | .vRed _ p v => some (0x0D, p, v)
  | .vBcast _ p v => some (0x0E, p, v)
  | .vExt _ p v => some (0x0F, p, v)
  | .vLd _ p v => some (0x10, p, v)
  | .vSt _ p v => some (0x11, p, v)
  | .vGather _ p v => some (0x12, p, v)
  | .vScatter _ p v => some (0x13, p, v)
  | .vIota _ p v => some (0x14, p, v)
  | .vRng _ p v => some (0x15, p, v)
  | .vWelford _ p v => some (0x16, p, v)
  | .vPerm _ p v => some (0x17, p, v)
  | _ => none

/-- The two words of a vector instruction; none for any other command. -/
def encodeVec (i : Instr) : Option (W32 × W32) :=
  (vecParts i).map fun e => (vecLow e.1 e.2.1 e.2.2, vecHigh e.2.2)

/-! ### LOAD's checks 4 to 6 (R117) -/

/-- The 32-bit words of bytes. -/
def wordsOf : List Byte → List W32
  | a :: b :: c :: d :: t => BitVec.ofNat 32 (leNat [a, b, c, d]) :: wordsOf t
  | _ => []

/-- Check 4: byte offset of the first undefined encoding; `vec` holds the low word of a vector instruction in progress. -/
def encErrAt : Option W32 → Nat → List W32 → Option Nat
  | none, _, [] => none
  | some _, off, [] => some (off - 4)
  | none, off, w :: t =>
    if wOp w = 0x3F then encErrAt (some w) (off + 4) t
    else if (decodeSeq 0 w).isNone then some off else encErrAt none (off + 4) t
  | some lo, off, w :: t =>
    if vEncErr (vopOf lo) (vFields lo w) ≠ 0 then some (off - 4) else encErrAt none (off + 4) t

/-- Check 5: byte offset of the first format or rounding field not allowed in its role. -/
def fmtErrAt : Option W32 → Nat → List W32 → Option Nat
  | _, _, [] => none
  | none, off, w :: t => if wOp w = 0x3F then fmtErrAt (some w) (off + 4) t else fmtErrAt none (off + 4) t
  | some lo, off, w :: t =>
    if vFmtErr (vopOf lo) (vFields lo w) ≠ 0 then some (off - 4) else fmtErrAt none (off + 4) t

/-- Byte offsets of the instruction starts. -/
def startsOf : Bool → Nat → List W32 → List Nat
  | _, _, [] => []
  | true, off, _ :: t => startsOf false (off + 4) t
  | false, off, w :: t => off :: startsOf (decide (wOp w = 0x3F)) (off + 4) t

/-- Check 6: byte offset of the first direct branch whose target is no instruction start. -/
def branchErrAt (words : List W32) : Option Nat :=
  let st := startsOf false 0 words
  st.find? fun off =>
    let w := words.getD (off / 4) 0
    decide (wOp w = 0x18 ∨ wOp w = 0x19) &&
    (let t : Int := (off : Int) + 4 * (wOff w).toInt
     !(decide (0 ≤ t) && st.contains t.toNat))

/-- Checks 4 to 6 of R117 on a program: its first error and the byte offset it names. -/
def programErr (words : List W32) : Code × Nat :=
  match encErrAt none 0 words with
  | some o => (eEncoding, o)
  | none =>
    match fmtErrAt none 0 words with
    | some o => (eFormat, o)
    | none =>
      match branchErrAt words with
      | some o => (eEncoding, o)
      | none => (0, 0)

end Sys2Proof.Machine
end

