-- ==== Sys2Proof/Machine/Jobs.lean ====
section
/-! DEFINITION. Jobs: reports to the system headwater, the choice of a job headwater, lags and the pacing floor (R378, R393-R395,
log 46, DEDUCED). -/

namespace Sys2Proof.Machine

/-- Job j as this device knows it. -/
def State.job (s : State) (j : Nat) : JobInfo := tget .none s.fab.jobs j
/-- Change job j. -/
def State.modJob (s : State) (j : Nat) (f : JobInfo → JobInfo) : State :=
  { s with fab := { s.fab with jobs := tput s.fab.jobs j (f (s.job j)) } }

/-- This device belongs to a system of the fabric. -/
def State.member (s : State) : Bool := decide (s.fab.mstate = .live) || decide (s.fab.mstate = .leaving)

/-- The system headwater; a device that has not joined keeps its jobs itself (R368). -/
def State.sysHw (s : State) : Nat := if s.member then s.fab.hw.toNat else s.own

/-- Union of some lists, first occurrences in order. -/
def unionAll (ls : List (List Nat)) : List Nat :=
  ls.foldl (fun l x => x.foldl (fun l d => if l.contains d then l else l ++ [d]) l) []

/-- Lowest of some device numbers, own where there is none. -/
def State.lowest (s : State) (ds : List Nat) : Nat := (ds.min?).getD s.own

/-! ### Pacing (R395) -/

/-- The largest fraction of the lagging members; 0 under FREE. -/
def JobInfo.wanted (x : JobInfo) : BitVec 6 :=
  if x.matchAll then x.lags.foldl (fun m e => if m.toNat < e.2.toNat then e.2 else m) 0 else 0

/-- A pacing floor comes into force here, counted as a pace notice applied (R397). -/
def State.applyFloor (s : State) (j : Nat) (f : BitVec 6) : State :=
  (s.modJob j fun x => { x with floor := f }).countDev evPaceApplied

/-- The job headwater keeps the floor: a change goes to every member. -/
def State.paceJob (s : State) (j : Nat) : State :=
  let x := s.job j
  if x.hw.toNat ≠ s.own ∨ x.wanted = x.floor then s
  else
    let f := x.wanted
    let s := s.modJob j fun x => { x with floor := f }
    x.members.foldl (fun s d =>
      if d = s.own then s.countDev evPaceApplied else s.send (.pace d (BitVec.ofNat 16 j) f)) s

/-- A lag, update or clear notice of a member arrives at the job headwater (R394, R395). -/
def State.takeLag (s : State) (j dev : Nat) (k : BitVec 6) (clear : Bool) : State :=
  let s := s.modJob j fun x =>
    let l := x.lags.filter fun e => decide (e.1 ≠ dev)
    { x with lags := if clear then l else l ++ [(dev, k)] }
  s.paceJob j

/-! ### Job headwaters (R378) -/

/-- The system headwater names the headwater of job j: this device learns it, its policy and its members. -/
def State.setHeadwater (s : State) (j : Nat) (hw : BitVec 16) (matchAll : Bool) (members : List Nat) : State :=
  let s := s.modJob j fun x => { x with
    hw := hw, matchAll := matchAll, members := members, whole := decide (4096 < members.length),
    told := if x.hw = hw then x.told else none,
    lags := if hw.toNat = s.own then x.lags.filter fun e => members.contains e.1 else [],
    floor := if members.isEmpty then 0 else x.floor }
  s.paceJob j

/-- Devices that hold streams or leaf cores of a job, by the reports about it. -/
def JobInfo.devices (x : JobInfo) : List Nat := unionAll (x.reports.map fun r => r.1 :: r.2.2.2)

/-- The pin that every report names. -/
def JobInfo.pin (x : JobInfo) : Option Nat :=
  match x.reports.map fun r => r.2.1 with
  | some p :: t => if t.all fun q => decide (q = some p) then some p.toNat else Option.none
  | _ => Option.none

/-- The system headwater gives job j its headwater and tells every member, former ones too. -/
def State.electJob (s : State) (j : Nat) : State :=
  let x := s.job j
  let ms := x.devices.filter s.isLive
  let hw : BitVec 16 := BitVec.ofNat 16 (match x.pin with
    | some p => if s.isLive p then p else s.lowest ms
    | none => s.lowest ms)
  let m := !x.reports.isEmpty && x.reports.all fun r => r.2.2.1
  (unionAll [x.members, ms]).foldl (fun s d =>
    if d = s.own then s.setHeadwater j hw m ms else s.send (.notice d (.jobHeadwater (BitVec.ofNat 16 j) hw m ms)))
    (s.modJob j fun x => { x with members := ms })

/-- A report of a device about its streams of a job arrives at the system headwater. -/
def State.takeReport (s : State) (j dev : Nat) (pin : Option (BitVec 16)) (matchAll : Bool) (devs : List Nat)
    (present : Bool) : State :=
  let s := s.modJob j fun x =>
    let l := x.reports.filter fun r => decide (r.1 ≠ dev)
    { x with reports := if present then l ++ [(dev, pin, matchAll, devs)] else l }
  s.electJob j

/-- Job number of stream i. -/
def State.jobOf (s : State) (i : StreamId) : Nat := bits (s.sreg i).job 0 16

/-- Streams of this device in job j. -/
def State.jobStreams (s : State) (j : Nat) : List StreamId :=
  ((List.range 64).map (BitVec.ofNat 6)).filter fun i => decide (s.jobOf i = j) && decide ((s.strm i).state ≠ .empty)

/-- Report this device's streams of job j to the system headwater; job 0 is none. -/
def State.reportJob (s : State) (j : Nat) : State :=
  if j = 0 then s
  else
    let is := s.jobStreams j
    let pins := is.map fun i => if bit (s.sreg i).job 32 then some (BitVec.ofNat 16 (bits (s.sreg i).job 16 16)) else none
    let pin : Option (BitVec 16) := match pins with
      | p :: t => if t.all fun q => decide (q = p) then p else none
      | [] => none
    let m := is.all fun i => (s.sreg i).paceMatch
    let devs := unionAll (is.map fun i => s.farDevs (s.strm i).leaves)
    let present := !is.isEmpty
    if s.sysHw = s.own then s.takeReport j s.own pin m devs present
    else s.send (.notice s.sysHw (.jobReport (BitVec.ofNat 16 j) (BitVec.ofNat 16 s.own) pin m devs present))

/-- Report every job of this device, to a system headwater that is new. -/
def State.reportJobs (s : State) : State :=
  (unionAll [((List.range 64).map fun i => s.jobOf (BitVec.ofNat 6 i))]).foldl
    (fun s j => if (s.jobStreams j).isEmpty then s else s.reportJob j) s

/-- A member is gone: its reports and lags count no more (R378, R394). -/
def State.jobLoss (s : State) (d : Nat) : State :=
  let s := { s with fab := { s.fab with jobs := s.fab.jobs.map fun (e : Nat × JobInfo) =>
    (e.1, { e.2 with
      reports := (e.2.reports.filter fun (r : Nat × Option (BitVec 16) × Bool × List Nat) => decide (r.1 ≠ d)).map fun (r : Nat × Option (BitVec 16) × Bool × List Nat) =>
        (r.1, r.2.1, r.2.2.1, r.2.2.2.filter fun x => decide (x ≠ d)),
      lags := e.2.lags.filter fun (l : Nat × BitVec 6) => decide (l.1 ≠ d) }) } }
  let js := s.fab.jobs.map Prod.fst
  let s := if s.sysHw = s.own then js.foldl (fun s j => s.electJob j) s else s
  js.foldl (fun s j => s.paceJob j) s

end Sys2Proof.Machine
end

