-- ==== Sys2Proof/Machine/Dma.lean ====
section
/-! DEFINITION. DMA channels: descriptors, completion and halt (R408-R411, log 48, DEDUCED). -/

namespace Sys2Proof.Machine

/-- host_addr of a descriptor. -/
def dHostAddr (d : BitVec 256) : W64 := BitVec.ofNat 64 (bits d 0 64)
/-- dev_addr. -/
def dDevAddr (d : BitVec 256) : Nat := bits d 64 64
/-- len. -/
def dLen (d : BitVec 256) : Nat := bits d 128 32
/-- dir is device to host. -/
def dToHost (d : BitVec 256) : Bool := bit d 160
/-- A reserved bit of a descriptor is set. -/
def dReserved (d : BitVec 256) : Bool := decide (bits d 163 29 ≠ 0) || decide (bits d 224 32 ≠ 0)

/-- Write the write-back: next index, status, tag (R409). -/
def State.dmaWriteBack (s : State) (ch : Nat) (status : Code) (d : BitVec 256) : State :=
  let c := s.chan ch
  s.hostWrite c.wb (leBytes 8 (c.head.toNat + status.toNat * 2 ^ 16 + bits d 192 32 * 2 ^ 32))

/-! ### Read requests to the host (R411) -/

/-- Read requests a descriptor makes to the host: pieces that do not cross a multiple of the maximum read request size. -/
def State.readPieces (s : State) (d : BitVec 256) : Nat :=
  let m := 2 ^ s.hif.readLog2
  if dToHost d then 0 else ceilDiv ((dHostAddr d).toNat % m + dLen d) m

/-- Read requests of all channels that the host has not answered. -/
def State.hostAsked (s : State) : Nat := ((List.range 8).map fun d => (s.chan d).asked).sum

/-- The next channel, from the one whose turn it is, that owes requests. -/
def State.nextAsker (s : State) : Option Nat :=
  ((List.range 8).map fun k => (s.hif.turn + k) % 8).find? fun d => decide (0 < (s.chan d).owed)

/-- Channels send requests in round robin, 4 KiB a turn, while fewer than 512 are outstanding; n bounds the turns. -/
def State.askHost : Nat → State → State
  | 0, s => s
  | n + 1, s =>
    match s.nextAsker with
    | none => s
    | some d =>
      let k := min (min (s.chan d).owed (max 1 (4096 / 2 ^ s.hif.readLog2))) (512 - s.hostAsked)
      if k = 0 then s
      else ({ s with hif := { s.hif with turn := (d + 1) % 8 } }.modChan d fun c =>
        { c with asked := c.asked + k, owed := c.owed - k }).askHost n

/-- A descriptor that a channel takes asks the host for its data; a channel that comes to the bound waits, counted (R411, log 48,
DEDUCED: one wait a descriptor). -/
def State.askFor (s : State) (ch : Nat) (d : BitVec 256) : State :=
  let s1 := (s.modChan ch fun c => { c with owed := c.owed + s.readPieces d }).askHost 512
  if (s.chan ch).owed = 0 ∧ 0 < (s1.chan ch).owed then s1.countQ evHeldAtBound .device none 7 1 else s1

/-- The host has answered a descriptor, the oldest of its channel: what it asked is free for others. -/
def State.answerHost (s : State) (ch : Nat) (d : BitVec 256) : State :=
  let n := s.readPieces d
  (s.modChan ch fun c =>
    if c.work.isEmpty then { c with asked := 0, owed := 0 }
    else { c with asked := c.asked - min n c.asked, owed := c.owed - (n - min n c.asked) }).askHost 512

/-! ### Completion and halt (R409, R410) -/

/-- The oldest descriptor of a channel completes. -/
def State.dmaComplete (s : State) (ch : Nat) : State :=
  match (s.chan ch).work with
  | [] => s
  | d :: ds =>
    let s := s.modChan ch fun c => { c with head := c.head + 1, work := ds, sent := false, got := [] }
    let s := (s.count evHifDmaBytes .device none (dLen d)).dmaWriteBack ch 0 d
    (if bit d 161 then s.raise (74 + ch) else s).answerHost ch d

/-- A remote request is one of a channel. -/
def Requester.isDma (ch : Nat) : Requester → Bool
  | .dma c => decide (c = ch)
  | .dmaRead c _ _ _ => decide (c = ch)
  | _ => false

/-- A channel halts at descriptor d, which stays at its head (R410); answers to its lines and requests count no more. -/
def State.dmaHalt (s : State) (ch : Nat) (d : BitVec 256) (code : Code) : State :=
  let s := s.modChan ch fun c => { c with
    halted := true, err := code, work := [], started := c.head, sent := false, got := [], asked := 0, owed := 0 }
  let mine (r : Req) : Req := if r.who.isDma ch then { r with who := .posted } else r
  let s := { s with fab := { s.fab with
    reqs := s.fab.reqs.map fun (e : Nat × Option Req) => (e.1, e.2.map mine),
    waiting := s.fab.waiting.filter fun r => !r.who.isDma ch } }
  ((s.dmaWriteBack ch code d).raise (74 + ch)).askHost 512

/-- Lines of a channel await their answers. -/
def State.dmaPending (s : State) (ch : Nat) : Bool :=
  (s.fab.reqs.any fun e => e.2.any fun r => r.who.isDma ch) || s.fab.waiting.any fun r => r.who.isDma ch

/-- A remote line of a channel is written or read: with the last one the bytes read go to the host and the descriptor completes
(R409). -/
def State.dmaAcked (s : State) (ch : Nat) : State :=
  if (s.chan ch).sent && !s.dmaPending ch then
    match (s.chan ch).work with
    | [] => s
    | d :: _ =>
      (if dToHost d then s.hostWrite (dHostAddr d) ((List.range (dLen d)).map fun i => tget 0 (s.chan ch).got i) else s).dmaComplete ch
  else s

/-- Bytes of another device arrive for a channel. -/
def State.dmaGot (s : State) (ch off : Nat) (bs : List Byte) : State :=
  (s.modChan ch fun c => { c with got := bs.zipIdx.foldl (fun t e => tput t (off + e.2) e.1) c.got }).dmaAcked ch

/-- A remote line of a channel failed. -/
def State.dmaFailed (s : State) (ch : Nat) (code : Code) : State :=
  match (s.chan ch).work with
  | d :: _ => s.dmaHalt ch d code
  | [] => s

end Sys2Proof.Machine
end

