-- ==== Sys2Proof/Machine/Reset.lean ====
section
/-! DEFINITION. What a function-level reset does to memory and registers, and its end, which waits for remote requests (R448, R449,
log 49, DEDUCED). -/

namespace Sys2Proof.Machine

/-- Step 5: the channels have their outstanding requests answered and stop; how much of the transfers under way is then in memory
the manual does not say. -/
def State.stopDma (s : State) : State :=
  (List.range 8).foldl (fun s ch =>
    ((s.chan ch).work.filter fun d => !dToHost d && decide (dDevAddr d / 2 ^ 48 = s.own)).foldl (fun s d =>
      s.unspecify (dDevAddr d % 2 ^ 48) (dDevAddr d % 2 ^ 48 + dLen d)) s) s

/-- Magic of an image header. -/
def imageMagic : Nat := 0x53565144

/-- An update under way when a reset comes leaves its slot failing R435: its magic is spoilt (R446; what else the slot holds cannot be
read, log 49, DEDUCED). -/
def State.breakUpdate (s : State) : State :=
  s.ops.foldl (fun s o =>
    match o with
    | .rcvFetch _ slot => { s with boot := { s.boot with
        flash := tput s.boot.flash (if slot then 0x1000000 else 0) (~~~(BitVec.ofNat 8 imageMagic)) } }
    | _ => s) s

/-- Step 7: the caches are written back and invalidated, the local stores zero. -/
def State.flrMemory (s : State) : State :=
  { s with
    mem := s.mem.filter fun e => decide (e.1 < storeBase)
    unspec := s.unspec.map fun (e : Nat × Nat × Nat) => (e.1, min e.2.1 storeBase, e.2.2) }

/-- Step 8: registers at their reset values, but for what R448 keeps. -/
def State.flrRegisters (s : State) : State :=
  { s with
    ops := [], streams := [], sregs := [], merge := [], devRound := [], groups := [], pools := []
    cores := s.cores.map fun (e : Nat × Core) => (e.1, { e.2 with
      katFail := 0, katSeq := 0, passSeq := 0, copyBuf := [], claimWait := false, halt := false, dbgCtx := 0
      rif := { e.2.rif with snapKat := 0, snapPass := 0, snapAt := s.time } })
    clusters := s.clusters.map fun (e : Nat × Cluster) => (e.1, { Cluster.reset with
      coreSpare := e.2.coreSpare, healthy := e.2.healthy, starting := e.2.starting, rctFail := e.2.rctFail,
      aptFail := e.2.aptFail, pool := e.2.pool, failCount := e.2.failCount, health := e.2.health })
    vaults := s.vaults.map fun (e : Nat × Vault) => (e.1, { e.2 with suspect := 0, ceTier := 0 })
    engines := s.engines.map fun (e : Nat × Engine) => (e.1, { Engine.reset with withheld := e.2.withheld })
    dev := { DevRegs.reset with ilv := s.dev.ilv }
    weir := { s.weir with
      kmax := 0, reason := 0, trip := false, exc := 2000000, excStuck := false, meter := 0, elog := Weir.reset.elog,
      elogHead := 0,
      sensors := s.weir.sensors.map fun (e : Nat × Sensor) => (e.1, { e.2 with temp := 0, above := false }) }
    hif := { Hif.reset with linkUp := s.hif.linkUp, eid := s.hif.eid, eidSmb := s.hif.eidSmb, sessions := s.hif.sessions }
    boot := { s.boot with lastReset := 3, rcvAddr := 0, rcvLen := 0, rcvSlot := false, rcvDone := false, rcvErr := 0, flrAt := none }
    sec := { s.sec with dbgEn := false, floorDone := false }
    flt := { s.flt with ring := 4 }
    evt := ⟨[], [], false, [], s.evt.snapAt⟩ }

/-- Steps 5, 7 and 8 of R449; step 6 is part of step 8. A reset that completes more than 100 ms after its begin is counted. -/
def State.flrEnd (s : State) (began : W64) : State :=
  let t := s.stopDma.breakUpdate.flrMemory.flrRegisters
  if 100000000 < s.time.toNat - began.toNat then t.countDev evHifBadAccess else t

/-- Step 4: a function-level reset that waits goes on once every outbound remote request is complete. -/
def State.flrCheck (s : State) : State :=
  match s.boot.flrAt with
  | some t => if (s.fab.reqs.all fun e => e.2.isNone) && s.fab.waiting.isEmpty then s.flrEnd t else s
  | none => s

end Sys2Proof.Machine
end

