-- ==== Sys2Proof/Machine/Members.lean ====
section
/-! DEFINITION. Remote requests that fail, and membership of the global space: joins, leaves, losses and what their notices do
(R353, R364-R377, log 46, DEDUCED). -/

namespace Sys2Proof.Machine

/-! ### Requests that end without their answer (R366) -/

/-- The global address of a request, as a naming word. -/
def Req.name (r : Req) : W64 := nameW 8 (r.pkt.dst.toNat * 2 ^ 48 + r.pkt.addr.toNat)

/-- A request of the host is a read. -/
def Req.isRead (r : Req) : Bool := decide (r.pkt.typ = 0x01) || decide (r.pkt.typ = 0x02)

/-- A fault of work of stream strm of device dev on core c, found without a context (R14, R109). -/
def State.faultAt (s : State) (dev : BitVec 16) (strm : StreamId) (c : Nat) (code : Code) (name : W64) : State :=
  if dev.toNat = s.own then s.faultOn strm c code name
  else
    let s := s.faultFar dev strm c code name
    { s with
      ctxs := s.ctxs.map fun (e : Nat × Ctx) => (e.1, stopCtx dev strm e.2)
      mis := s.mis.map fun (m : MI) => if decide (m.strm = strm) && decide (m.home = dev) then { m with stopped := true, faulted := true } else m }

/-- An access of the host that does not succeed (R402): a read is answered, a write dropped; each is counted. -/
def State.hostFail (s : State) (read : Bool) (code : Code) : State :=
  let s := s.countDev evHifBadAccess
  if read then s.reply (if code = eBounds then .unsupported else .completerAbort) else s

/-- Lines of a SAVE to another device await their answers. -/
def State.savePending (s : State) (i : StreamId) : Bool :=
  (s.fab.reqs.any fun e => e.2.any fun r => decide (r.who = Requester.save i)) ||
  s.fab.waiting.any fun r => decide (r.who = Requester.save i)

/-- A SAVE to another device completes: its image is written, or a line of it failed (R114). -/
def State.saveEnd (s : State) (i : StreamId) (code : Code) (name : W64) : State :=
  match (s.sreg i).ringSave with
  | none => s
  | some (tag, index, value) =>
    let s := s.modSreg i fun r => { r with ringSave := none }
    let mine (r : Req) : Req := if r.who = Requester.save i then { r with who := .posted } else r
    let s := { s with fab := { s.fab with
      reqs := s.fab.reqs.map fun (e : Nat × Option Req) => (e.1, e.2.map mine)
      waiting := s.fab.waiting.filter fun r => decide (r.who ≠ Requester.save i) } }
    if code = 0 then (s.count evImageBytes .device (some i) value.toNat).complete i .paused 6 0 tag index value
    else (s.refuse i code name).complete i .paused 6 code tag index value

/-- A line of a SAVE is written: the last one completes it. -/
def State.saveAcked (s : State) (i : StreamId) : State := if s.savePending i then s else s.saveEnd i 0 0

/-- The requester completes with an error (R366). -/
def State.failReq (s : State) (r : Req) (code : Code) : State :=
  match r.who with
  | .ctxLoad cx _ _ => if (s.ctx cx).wait = .remote r.pkt.tag then s.faultCtx cx code r.name else s
  | .ctxAtomic cx _ => if (s.ctx cx).wait = .remote r.pkt.tag then s.faultCtx cx code r.name else s
  | .ctxStore dev strm cx => s.faultAt dev strm (ctxCore cx) code r.name
  | .macroWrite home strm ticket =>
    (match s.findMi home.toNat strm ticket with
     | some m => if m.faulted then s else s.miFault m m.core.toNat code r.name
     | none => s)
  | .bar2 _ _ => if r.dropped then s else s.hostFail r.isRead code
  | .dma ch => s.dmaFailed ch code
  | .dmaRead ch _ _ _ => s.dmaFailed ch code
  | .farRead u _ => s.farFailed u code r.name
  | .save i => s.saveEnd i code r.name
  | .posted => s

/-- Two requests go to one line. -/
def Req.sameLine (a b : Req) : Bool :=
  decide (a.pkt.dst = b.pkt.dst) && decide (a.pkt.addr.toNat / 128 = b.pkt.addr.toNat / 128)

/-- Send a request of the host port that waits; it stays waiting while a tag or its line is not free. -/
def State.trySend (s : State) (r : Req) : Option State :=
  match s.request r.pkt.typ r.pkt.dst.toNat r.pkt.addr.toNat r.pkt.code r.pkt.mask r.pkt.pay r.who with
  | .sent _ s => some s
  | .failed e => some (s.failReq r e)
  | .held _ => none

/-- Send the waiting requests that can go, in order; one to a line follows every earlier one to it (R361). -/
def State.drainList (s : State) (kept : List Req) : List Req → State × List Req
  | [] => (s, kept)
  | r :: t =>
    if kept.any r.sameLine then s.drainList (kept ++ [r]) t
    else
      match s.trySend r with
      | some s => s.drainList kept t
      | none => s.drainList (kept ++ [r]) t

/-- A tag or a line is free again: waiting requests go. -/
def State.drainWaiting (s : State) : State :=
  if s.fab.waiting.isEmpty then s
  else
    let (s, l) := { s with fab := { s.fab with waiting := [] } }.drainList [] s.fab.waiting
    { s with fab := { s.fab with waiting := s.fab.waiting ++ l } }

/-- A request of the host port: sent, failed, or waiting, counted where it begins to wait (R153, R361). -/
def State.post (s : State) (r : Req) : State :=
  let hold (s : State) : State := { s with fab := { s.fab with waiting := s.fab.waiting ++ [r] } }
  if s.fab.waiting.any r.sameLine then (hold s).countDev evFabLineHold
  else
    match s.request r.pkt.typ r.pkt.dst.toNat r.pkt.addr.toNat r.pkt.code r.pkt.mask r.pkt.pay r.who with
    | .sent _ s => s
    | .failed e => s.failReq r e
    | .held q => if q = 8 then (hold s).countDev evFabLineHold else (hold s).countQ evHeldAtBound .device none 5 1

/-! ### The live set and the headwater (R368, R369) -/

/-- Device numbers whose bit is set in FAB_LIVE. -/
def State.liveSet (s : State) : List Nat := (s.fab.live.filter fun e => e.2).map Prod.fst

/-- The headwater that R369 names. -/
def State.elect (s : State) : Nat :=
  let pin := bits s.fab.cfg 16 16
  if bit s.fab.cfg 32 && s.liveSet.contains pin then pin else s.lowest s.liveSet

/-- Set or clear a device's bit in the live set. -/
def State.setLive (s : State) (d : Nat) (b : Bool) : State :=
  { s with fab := { s.fab with live := tput s.fab.live d b } }

/-- done is set in FAB_STATUS, with the error of a refusal. -/
def State.fabDone (s : State) (e : Code) : State :=
  { s with fab := { s.fab with done := true, err := e } }.raise 84

/-! ### Removals (R374, R376) -/

/-- Work of a stream of this device that was on device d and cannot end any more: a macro-instruction it published, or a block.
The stream faults with E_FAB_LOST (log 46, DEDUCED). -/
def State.stranded (s : State) (d : Nat) : State :=
  (List.range 64).foldl (fun s i =>
    let i : StreamId := BitVec.ofNat 6 i
    let x := s.strm i
    let hit := x.farMis.any (fun m => decide (m.dev.toNat = d)) || x.disps.any fun b => b.leaves.any fun l => decide (l.1 = d)
    let s := s.modStrm i fun x => { x with
      farMis := x.farMis.filter fun m => decide (m.dev.toNat ≠ d)
      asks := x.asks.filter fun a => decide (a.1.toNat ≠ d)
      farPend := x.farPend.filter fun n => decide (n ≠ d)
      disps := (x.disps.map fun (b : Disp) => { b with leaves := b.leaves.filter fun l => decide (l.1 ≠ d) }).filter
        fun b => !b.leaves.isEmpty }
    if hit && (decide (x.state = .running) || decide (x.state = .draining)) then
      s.latchFault ⟨eFabLost, 5, 0, some i, 0, 0⟩
    else s) s

/-- Effects of a removal on a member: group references, context slots, work and jobs of the departed device. -/
def State.removalEffects (s : State) (d : Nat) : State :=
  let s := { s with
    groups := s.groups.map fun (e : Nat × Group) =>
      (e.1, { e.2 with refs := e.2.refs - BitVec.ofNat 32 (tget 0 e.2.far d), far := tput e.2.far d 0 })
    fars := s.fars.filter fun x => decide (x.dev.toNat ≠ d)
    ctxs := s.ctxs.filter fun e => !(e.2.used && decide (e.2.dev.toNat = d)) }
  let s := (s.mis.filter fun m => decide (m.home.toNat = d)).foldl (fun s m => s.removeMi m) s
  (s.stranded d).jobLoss d

/-- A macro-instruction whose tiles a lost device held (R376). -/
def State.reissueFrom (s : State) (d : Nat) (m : MI) : State :=
  let back := (m.out.filter fun e => decide (e.1 = d)).map Prod.snd
  if back.isEmpty then s
  else
    let s := s.modMi m.home.toNat m.strm m.ticket fun x => { x with out := x.out.filter fun e => decide (e.1 ≠ d) }
    if 1 < m.parts then s.miFault m m.core.toNat eFabLost 0
    else s.modMi m.home.toNat m.strm m.ticket fun x =>
      { x with returned := x.returned ++ back }

/-- Effects of a loss: requests to the lost device end, its tiles are reissued. -/
def State.lossEffects (s : State) (d : Nat) : State :=
  let s := s.fab.reqs.foldl (fun s e =>
    match e.2 with
    | some r => if r.pkt.dst.toNat = d then (s.dropTag e.1).failReq r eFabUnreach else s
    | none => s) s
  (s.mis.filter fun m => m.here).foldl (fun s m => s.reissueFrom d m) s

/-! ### Changes (R370) -/

/-- The device of a change. -/
def changeDev : Change → Nat
  | .join d => d.toNat
  | .leave d => d.toNat
  | .loss d => d.toNat

/-- This device is out of the system (R368, R373). -/
def State.becomeOut (s : State) (e : Code) : State :=
  let own := s.own
  let s := (s.mis.filter fun m => decide (m.home.toNat ≠ own)).foldl (fun s m => s.removeMi m) s
  let s := { s with
    fars := []
    ctxs := s.ctxs.filter fun e => decide (e.2.dev.toNat = own)
    fab := { s.fab with
      mstate := .out, isHw := false, hw := 0, live := [], changes := [], ackWait := [], suspects := [], helloHw := none,
      sent := false } }
  s.fabDone e

/-- A departed headwater is replaced under R369. -/
def State.newHeadwater (s : State) (d : Nat) : State :=
  if s.fab.hw.toNat = d then
    let h := s.elect
    { s with fab := { s.fab with hw := BitVec.ofNat 16 h, isHw := decide (h = s.own) } }.reportJobs
  else s

/-- Apply a membership change of another device, or become out by one's own. -/
def State.applyChange (s : State) (c : Change) : State :=
  if changeDev c = s.own then
    (match c with
     | .join _ => s
     | _ => s.becomeOut 0)
  else
    match c with
    | .join d => s.setLive d.toNat true
    | .leave d => ((s.setLive d.toNat false).newHeadwater d.toNat).removalEffects d.toNat
    | .loss d => (((s.setLive d.toNat false).lossEffects d.toNat).newHeadwater d.toNat).removalEffects d.toNat

/-- A change that every member has acknowledged is complete: a joiner is confirmed, a leaving headwater is out. -/
def State.confirm (s : State) (c : Change) : State :=
  match c with
  | .join d => s.send (.notice d.toNat (.epochConfirm s.liveSet s.fab.epoch s.fab.hw))
  | .leave d => if d.toNat = s.own then s.becomeOut 0 else s
  | .loss _ => s

/-- The headwater publishes the next change, one at a time (R370). -/
def State.publishNext (s : State) : Nat → State
  | 0 => s
  | n + 1 =>
    if !s.fab.isHw || !s.fab.ackWait.isEmpty then s
    else
      match s.fab.changes with
      | [] => s
      | c :: cs =>
        let leaves := match c with
          | .leave _ => true
          | _ => false
        let ms := s.liveSet.filter fun d => decide (d ≠ s.own) && (decide (d ≠ changeDev c) || leaves)
        let s := { s with fab := { s.fab with epoch := s.fab.epoch + 1 } }
        let s := if changeDev c = s.own then s else s.applyChange c
        let s := ms.foldl (fun s d => s.send (.member d s.fab.epoch c)) s
        if ms.isEmpty then ({ s with fab := { s.fab with changes := cs } }.confirm c).publishNext n
        else { s with fab := { s.fab with ackWait := ms } }

/-- Publish what is waiting. -/
def State.publishChanges (s : State) : State := s.publishNext (s.fab.changes.length + 1)

/-- A member's acknowledgement is in, or it is lost (R370). -/
def State.acked (s : State) (d : Nat) : State :=
  if s.fab.ackWait.contains d then
    let s := { s with fab := { s.fab with ackWait := s.fab.ackWait.filter fun x => decide (x ≠ d) } }
    if s.fab.ackWait.isEmpty then
      match s.fab.changes with
      | [] => s
      | c :: cs => ({ s with fab := { s.fab with changes := cs } }.confirm c).publishChanges
    else s
  else s

/-- Queue a change at the headwater. -/
def State.enqueue (s : State) (c : Change) : State :=
  { s with fab := { s.fab with changes := s.fab.changes ++ [c] } }.publishChanges

/-! ### Joining (R371, R372) -/

/-- Whether a port may carry flits: enabled, its cable mated (R424), the device up. -/
def State.mayTrain (s : State) (p : Nat) : Bool := s.up && (s.port p).enable && bit s.pins.prsnt p

/-- hw_pin and hw_pin_en of this device (FAB_CFG, R369). -/
def State.ownPin (s : State) : BitVec 17 := BitVec.ofNat 17 (bits s.fab.cfg 16 17)

/-- What this device tells in a HELLO. -/
def State.helloInfo (s : State) (reply : Bool) : HelloInfo :=
  ⟨BitVec.ofNat 16 s.own, s.fab.mstate, s.fab.hw, s.fab.epoch, s.ownPin, reply⟩

/-- A port's neighbour belongs to another system: marked foreign, E_FAB_SPLIT reported once (R372). -/
def State.markForeign (s : State) (p : Nat) : State :=
  let told := (s.port p).splitTold
  let s := s.modPort p fun x => { x with foreign := true, splitTold := true }
  if told then s else s.latchFault ⟨eFabSplit, 3, BitVec.ofNat 16 p, none, nameW 11 p, 0⟩

/-- The sole member of its system at epoch 1 (R371 step 4). -/
def State.soleMember (s : State) : State :=
  let o := s.own
  { s with fab := { s.fab with
      mstate := .live, isHw := true, hw := BitVec.ofNat 16 o, epoch := 1, live := [(o, true)] } }.fabDone 0

/-- Whether every enabled port has trained or stayed down, and every neighbour has replied. -/
def State.helloComplete (s : State) : Bool :=
  (List.range 32).all fun p =>
    let x := s.port p
    decide (x.link ≠ .training) && (!x.up || x.nbrValid)

/-- Step 4 of a join, once every HELLO is answered: the sole member, or JOIN to the headwater that the neighbours name. -/
def State.joinCheck (s : State) : State :=
  if decide (s.fab.mstate = .joining) && !s.fab.sent && s.helloComplete then
    match s.fab.helloHw with
    | none => s.soleMember
    | some h =>
      let s := (List.range 32).foldl (fun s p =>
        match (s.port p).nbrHw with
        | some x => if (s.port p).up && decide (x ≠ h) then s.markForeign p else s
        | none => s) s
      { s with fab := { s.fab with sent := true } }.send (.join h.toNat)
  else s

/-- FAB_JOIN: mstate becomes joining, enabled ports train, and HELLO goes out on the ports that are up; ignored unless mstate
is out (FAB_CTL). -/
def execFabJoin (s : State) : Res :=
  if s.up && decide (s.fab.mstate = .out) then
    let s := { s with fab := { s.fab with mstate := .joining, err := 0, helloHw := none, sent := false } }
    let s := (List.range 32).foldl (fun s p =>
      if !s.mayTrain p then s
      else if (s.port p).up then
        (s.modPort p fun x => { x with nbrValid := false, nbrHw := none, foreign := false, splitTold := false }).send
          (.hello p (s.helloInfo false))
      else s.modPort p fun x => { x with link := .training }) s
    .next s.joinCheck
  else .next s

/-- HELLO on a port: answered if it is not itself a reply; a live neighbour under another headwater makes the port foreign;
a joiner notes the lowest headwater named (R371, R372). -/
def execHello (port : PortId) (info : HelloInfo) (s : State) : Res :=
  let p := port.toNat
  if !(s.port p).up || !s.up then .next s
  else
    let theirs := if info.nbrLive then some info.hw else none
    let s := if info.reply then s.modPort p fun x => { x with nbr := info.nbr, nbrValid := true, nbrHw := theirs } else s
    let s := if info.reply then s else s.send (.hello p (s.helloInfo true))
    let s := if s.member && info.nbrLive then
        (if info.hw ≠ s.fab.hw then s.markForeign p else s.modPort p fun x => { x with foreign := false })
      else s
    let s := if decide (s.fab.mstate = .joining) && info.nbrLive && info.reply then
        let h := match s.fab.helloHw with
          | some h => if h.toNat < info.hw.toNat then h else info.hw
          | none => info.hw
        { s with fab := { s.fab with helloHw := some h } }
      else s
    .next s.joinCheck

/-- JOIN at the headwater: a live number is refused with E_FAB_DUP, another pin with E_FAB_SPLIT, else the join is published
(R371 steps 5 and 6). -/
def execJoin (dev : BitVec 16) (pin : BitVec 17) (s : State) : Res :=
  if !(s.member && s.fab.isHw) then .next s
  else if s.isLive dev.toNat || s.fab.changes.contains (.join dev) then .next (s.send (.notice dev.toNat (.joinRefused eFabDup)))
  else if pin ≠ s.ownPin then .next (s.send (.notice dev.toNat (.joinRefused eFabSplit)))
  else .next (s.enqueue (.join dev))

/-- The headwater confirms a join: mstate becomes live with its live set, epoch and headwater (R371 step 7). -/
def State.joined (s : State) (live : List Nat) (epoch : W32) (hw : BitVec 16) : State :=
  { s with fab := { s.fab with
      mstate := .live, live := live.foldl (fun t d => tput t d true) [], epoch := epoch, hw := hw,
      isHw := decide (hw.toNat = s.own), helloHw := none, sent := false } }.fabDone 0

/-! ### Leaving (R373) -/

/-- Work of a stream of another device stops here (R27, R148): a counter of this device keeps its tiles, those of a counter of
another device go back to it. -/
def State.giveBack (s : State) (m : MI) : State :=
  let s := s.returnTiles m
  match s.findMi m.home.toNat m.strm m.ticket with
  | none => s
  | some m =>
    if m.here then s.modMi m.home.toNat m.strm m.ticket fun x => { x with stopped := true }
    else
    let s := if m.returned.isEmpty then s
      else s.send (.notice m.home.toNat (.rangeReturn m.strm m.ticket (m.returned.map m.numberOf)))
    if (s.tilesOf m).isEmpty && !s.writesPending m then s.removeMi m
    else s.modMi m.home.toNat m.strm m.ticket fun x => { x with returned := [], stopped := true }

/-- A leaving device sends LEAVE once its outbound requests and tiles of other counters are done; a headwater publishes its
own removal. -/
def State.leaveCheck (s : State) : State :=
  if decide (s.fab.mstate = .leaving) && !s.fab.sent && (s.fab.reqs.all fun e => e.2.isNone) && s.fab.waiting.isEmpty &&
      s.mis.all (fun m => m.here) then
    let s := { s with fab := { s.fab with sent := true } }
    if s.fab.isHw then s.enqueue (.leave (BitVec.ofNat 16 s.own)) else s.send (.leave s.fab.hw.toNat)
  else s

/-- After a response: what waited goes, and a leave or a function-level reset may be complete. -/
def State.settle (s : State) : State := s.drainWaiting.leaveCheck.flrCheck

/-- FAB_LEAVE: ignored unless mstate is live; refused with E_BUSY while a stream is not EMPTY; else the device gives back its
tiles of remote counters and leaves once its requests are done. -/
def execFabLeave (s : State) : Res :=
  if !s.up || decide (s.fab.mstate ≠ .live) then .next s
  else if (List.range 64).any fun i => decide ((s.strm (BitVec.ofNat 6 i)).state ≠ .empty) then .next (s.fabDone eBusy)
  else
    let s := { s with fab := { s.fab with mstate := .leaving, sent := false, err := 0 } }
    let s := (s.mis.filter fun m => decide (m.home.toNat ≠ s.own)).foldl (fun s m => s.giveBack m) s
    .next s.leaveCheck

/-- LEAVE at the headwater: the removal is published (R373 step 4). -/
def execLeave (dev : BitVec 16) (s : State) : Res :=
  if s.member && s.fab.isHw && s.isLive dev.toNat && decide (dev.toNat ≠ s.own) && !s.fab.changes.contains (.leave dev) then
    .next (s.enqueue (.leave dev))
  else .next s

/-! ### Membership notices (R370) -/

/-- MEMBERSHIP_NOTICE: applied if its epoch is one above the epoch held, and acknowledged (R370). -/
def execMembershipNotice (epoch : W32) (change : Change) (s : State) : Res :=
  if s.member && decide (epoch = s.fab.epoch + 1) then
    let before := s.fab.hw.toNat
    let s1 := { s with fab := { s.fab with epoch := epoch } }.applyChange change
    let lost := match change with
      | .loss d => decide (d.toNat = before)
      | _ => false
    .next (s1.send (.memberAck (if lost then s1.fab.hw.toNat else before))).settle
  else .next s

/-- MEMBERSHIP_ACK (R370). -/
def execMembershipAck (dev : BitVec 16) (s : State) : Res :=
  .next (if s.fab.isHw then s.acked dev.toNat else s)

/-! ### Loss (R375) -/

/-- Whether this device receives a SUSPECT about d: the headwater, or, where d is the headwater, the lowest other live device. -/
def State.judges (s : State) (d : Nat) : Bool :=
  if s.fab.hw.toNat = d then decide (s.lowest (s.liveSet.filter fun x => decide (x ≠ d)) = s.own) else s.fab.isHw

/-- SUSPECT reaches the device that judges: PING over every port of the suspect's route entry. -/
def State.takeSuspect (s : State) (d : Nat) : State :=
  if s.member && s.judges d && tget false s.fab.live d && decide (d ≠ s.own) && !s.fab.suspects.contains d then
    { s with fab := { s.fab with suspects := s.fab.suspects ++ [d] } }.send
      (.ping d (s.eligible (bits (tget 0 s.fab.routes d) 0 32)))
  else s

/-- A neighbour's port went down, or a request to a device timed out: SUSPECT goes to the device that judges. -/
def State.raiseSuspect (s : State) (d : Nat) : State :=
  if !s.member || !tget false s.fab.live d || decide (d = s.own) then s
  else if s.judges d then s.takeSuspect d
  else
    s.send (.suspect (if s.fab.hw.toNat = d then s.lowest (s.liveSet.filter fun x => decide (x ≠ d)) else s.fab.hw.toNat) d)

/-- SUSPECT. -/
def execSuspect (dev : BitVec 16) (s : State) : Res := .next (s.takeSuspect dev.toNat)

/-- PING: a live device answers it; an answer ends the procedure. -/
def execPing (src : BitVec 16) (answer : Bool) (s : State) : Res :=
  if answer then .next { s with fab := { s.fab with suspects := s.fab.suspects.filter fun d => decide (d ≠ src.toNat) } }
  else .next (if s.member && s.up then s.send (.pong src.toNat) else s)

/-- PING_TIMEOUT: the suspect is declared lost, E_FAB_LOST is reported, the receiver becomes headwater if the suspect was,
and the loss is published (R375 steps 4 and 5). -/
def execPingTimeout (dev : BitVec 16) (s : State) : Res :=
  let d := dev.toNat
  if !s.fab.suspects.contains d then .next s
  else
    let s := { s with fab := { s.fab with suspects := s.fab.suspects.filter fun x => decide (x ≠ d) } }
    if !s.member || !tget false s.fab.live d then .next s
    else
      let s := s.latchFault ⟨eFabLost, 5, 0, none, 0, 0⟩
      let s := if s.fab.hw.toNat = d then
          { s with fab := { s.fab with hw := BitVec.ofNat 16 s.own, isHw := true } }.reportJobs
        else s
      .next ((s.acked d).enqueue (.loss dev)).settle

/-! ### Requests that time out (R364, R402) -/

/-- REMOTE_REQUEST_TIMEOUT: the request completes with E_FAB_TIMEOUT and frees its tag. With FAB_CFG.timeout 0 only a host read
is given up, and its request keeps its tag (R402). -/
def execRemoteRequestTimeout (tag : BitVec 13) (s : State) : Res :=
  match tget none s.fab.reqs tag.toNat with
  | none => .next s
  | some r =>
    if bits s.fab.cfg 33 12 = 0 then
      (match r.who with
       | .bar2 _ _ =>
         if r.isRead && !r.dropped then
           .next ((s.hostFail true eFabTimeout).modReq tag.toNat fun r => { r with dropped := true })
         else .next s
       | _ => .next s)
    else
      let s := (s.dropTag tag.toNat).countDev evFabTimeout
      .next ((((s.failReq r eFabTimeout).raiseSuspect r.pkt.dst.toNat).settle))

end Sys2Proof.Machine
end

