-- ==== Sys2Proof/Machine/Streams.lean ====
section
/-! DEFINITION. The host's ring commands BIND to FENCE, FENCE_COMPLETE, DRAIN_END and the two ring doorbells (R101-R122,
R132, R403-R407, R491, log 42, DESIGN CHOICE). -/

namespace Sys2Proof.Machine

/-! ### Taking a command (R110-R115, R403-R406) -/

/-- The bits of an entry that a command uses, as (lowest bit, width); none for an undefined code (R110, R404). -/
def cmdUsed (code : Nat) : Option (List (Nat × Nat)) :=
  match code with
  | 1 => some [(64, 32), (96, 13), (128, 64), (192, 48), (256, 64)]
  | 2 => some [(64, 48), (128, 64), (192, 64)]
  | 3 => some [(64, 256)]
  | 4 => some [(64, 1)]
  | 5 => some []
  | 6 => some [(64, 128)]
  | 7 => some [(64, 128)]
  | 8 => some []
  | 9 => some []
  | _ => none

/-- Lowest reserved bit of an entry that is set. -/
def reservedBit (used : List (Nat × Nat)) (e : BitVec 512) : Option Nat :=
  (List.range 512).find? fun b => bit e b && !(([(0, 8), (32, 32)] ++ used).any fun u => decide (u.1 ≤ b) && decide (b < u.1 + u.2))

/-- Whether a command is legal in a state (R112). -/
def cmdLegal (code : Nat) (x : SState) : Bool :=
  match code with
  | 1 => decide (x = .empty)
  | 2 => decide (x = .bound) || decide (x = .loaded) || decide (x = .faulted)
  | 3 => decide (x = .loaded)
  | 4 => decide (x = .running)
  | 5 => decide (x = .paused)
  | 6 => decide (x = .paused)
  | 7 => decide (x = .bound) || decide (x = .loaded) || decide (x = .paused) || decide (x = .faulted)
  | _ => true

/-- The result of a command: the state, its status with the naming word, the value of its completion entry, and what the
device does after the entry is written; `later`: the entry waits for the answers of lines sent to another device. -/
structure Done where
  s : State
  err : Code
  name : W64
  value : W64
  after : State → State
  later : Bool := false

/-- A command that succeeds. -/
def Done.ok (s : State) : Done := ⟨s, 0, 0, 0, id, false⟩
/-- A refusal, without effect. -/
def Done.no (s : State) (e : Code) (name : W64) : Done := ⟨s, e, name, 0, id, false⟩

/-- The ingress takes no command of stream i: ring off or empty, device not up or in D3hot, a FENCE or a SAVE before it not done
(R111, R399, R403, R437). -/
def State.ringIdle (s : State) (i : StreamId) : Bool :=
  let r := s.sreg i
  !bit r.cmdRing 4 || decide (r.cmdHead = r.cmdTail) || !s.up || s.hif.d3hot || r.ringFence.isSome || r.ringSave.isSome

/-- The ingress waits for the completion ring (R406, R399). -/
def State.cplBlocked (s : State) (i : StreamId) : Bool :=
  let r := s.sreg i
  bit r.cplRing 4 && (r.cplFull || !r.held.isEmpty)

/-- Begin to wait for the completion ring, counted once (R406, R416). -/
def State.cplWait (s : State) (i : StreamId) : State :=
  if (s.sreg i).cplWaiting then s
  else
    let s := s.modSreg i fun r => { r with cplWaiting := true }
    (s.countQ evHeldAtBound .device (some i) 6 1).countDev evHifCplWait

/-- The value in the completion entry of a refused command: the length its image needs, for SAVE (R115). -/
def State.refusedValue (s : State) (i : StreamId) (code : Nat) : W64 := if code = 6 then BitVec.ofNat 64 (s.requiredLen i) else 0

/-- Take the entry at the head of ring i as the command `code`: its effect k, judged after its bits (R113) and its state
(R112). Another defined command at the head leaves everything as it is. A SAVE to another device completes later (R114). -/
def State.takeCmd (s : State) (i : StreamId) (e : BitVec 512) (code : Nat) (k : State → Done) : State :=
  if s.ringIdle i then s
  else if s.cplBlocked i then s.cplWait i
  else
    let c := bits e 0 8
    let tag : W32 := BitVec.ofNat 32 (bits e 32 32)
    let index := (s.sreg i).cmdHead
    let found := (s.strm i).state
    let s1 := s.modSreg i fun r => { r with cmdHead := r.cmdHead + 1, cplWaiting := false }
    match cmdUsed c with
    | none => (s1.refuse i eCommand (nameW 1 0)).complete i found c eCommand tag index 0
    | some used =>
      if c ≠ code then s
      else
        match reservedBit used e with
        | some b => (s1.refuse i eCommand (nameW 1 b)).complete i found c eCommand tag index (s.refusedValue i c)
        | none =>
          if !cmdLegal c found then
            let s2 := (s1.modStrm i fun x => { x with estate := satInc x.estate }).count evCmdRefusedState .device (some i) 1
            (s2.refuse i eState 0).complete i found c eState tag index (s.refusedValue i c)
          else
            let d := k s1
            let s2 := if d.err = 0 then d.s else d.s.refuse i d.err d.name
            if d.later then (s2.modSreg i fun r => { r with ringSave := some (tag, index, d.value) }).saveAcked i
            else d.after (s2.complete i found c d.err tag index d.value)

/-! ### BIND (R101, R103, R116, R227, R491) -/

/-- Free context slots of core c. -/
def State.freeSlots (s : State) (c : Nat) : List CtxId :=
  ((List.range 8).map (ctxOf c)).filter fun x => !(s.ctx x).used

/-- The first leaf core, in rank order, with fewer free slots than BIND needs: of this device, or `far` of another (step 5). -/
def State.noSlot (s : State) (ls : List (Nat × Nat)) (lead : Nat) (far : Option W32) : Option W32 :=
  (ls.find? fun l =>
    if l.1 = s.own then decide ((s.freeSlots l.2).length < (if l.2 = lead then 2 else 1))
    else decide (far = some (coreHandle l.1 l.2))).map fun l => coreHandle l.1 l.2

/-- The cluster whose pool a drawn seed comes from (R227). -/
def State.seedCluster (s : State) (lead : Nat) : Option Nat :=
  if (s.cluster (lead / 16)).healthy && !(s.cluster (lead / 16)).pool.isEmpty then some (lead / 16)
  else (List.range 32).find? fun c => !(s.cluster c).pool.isEmpty

/-- The first refusal of BIND (R491). -/
def State.bindErr (s : State) (e : BitVec 512) (far : Option W32) : Refused :=
  let h : W32 := BitVec.ofNat 32 (bits e 64 32)
  let lead := bits e 96 10
  let ls := s.leavesOf h
  let addr := bits e 192 48
  let len := bits e 256 64
  firstOf [
    refuseIf (decide (s.handleErr h ≠ 0)) (s.handleErr h) (nameW 5 h.toNat),
    refuseIf (!ls.contains (s.own, lead)) eHandle (nameW 1 96),
    refuseIf (decide (len ≠ 0) && decide (addr % 128 ≠ 0)) eAlign (nameW 1 192),
    refuseIf (decide (len ≠ 0) && !inStack addr len) eBounds (nameW 1 192),
    refuseIf (s.anyFenced ls) eCoreFenced 0,
    (s.noSlot ls lead far).map fun x => (eBusy, nameW 5 x.toNat),
    refuseIf (bit e 108 && (s.seedCluster lead).isNone) eNoise 0]

/-- Change the bound_streams of the group a handle names, in the configuration system's order (R23); a core handle has none
(R30, R116). -/
def State.bindGroup (s : State) (h : W32) (f : BitVec 7 → BitVec 7) : State :=
  if hKind h = 1 then s.gdefFlush.modGroup (hIndex h) fun g => { g with bound := f g.bound } else s

/-- Take the seed of a BIND: given, or drawn. -/
def State.drawSeed (s : State) (e : BitVec 512) : W64 × State :=
  match if bit e 108 then s.seedCluster (bits e 96 10) else none with
  | none => (BitVec.ofNat 64 (bits e 128 64), s)
  | some c =>
    ((s.cluster c).pool.headD 0,
     (s.modCluster c fun x => { x with pool := x.pool.drop 1 }).count evNoiseSeedsDrawn (.cluster c) none 1)

/-- Reserve a free slot of core c. -/
def State.reserve (s : State) (c : Nat) (x : Ctx) : State :=
  match s.freeSlots c with
  | k :: _ => s.setCtx k x
  | [] => s

/-- Reserve the contexts of stream i: a block context on every leaf core, and the lead context (R101). -/
def State.reserveAll (s : State) (i : StreamId) : State :=
  let x := s.strm i
  let n := x.leaves.length
  let mk (lead : Bool) (rank : Nat) (w : Wait) : Ctx :=
    { Ctx.free with
      used := true, dev := BitVec.ofNat 16 s.own, strm := i, lead := lead, seed := x.seed, cstream := x.cstream,
      leafCount := n, rank := rank, wait := w, job := BitVec.ofNat 16 (s.jobOf i) }
  let s := x.leaves.zipIdx.foldl (fun s e => if e.1.1 = s.own then s.reserve e.1.2 (mk false e.2 .idle) else s) s
  let s := s.reserve x.lead.toNat (mk true (rankOf x.leaves (s.own, x.lead.toNat)) .stopped)
  (s.farDevs x.leaves).foldl (fun s d =>
    s.send (.notice d (.reserve (BitVec.ofNat 16 s.own) i
      ((x.leaves.zipIdx.filter fun e => decide (e.1.1 = d)).map fun e => (BitVec.ofNat 9 e.1.2, e.2)) x.seed x.cstream n
      (BitVec.ofNat 16 (s.jobOf i)) x.prio))) s

/-- The effect of BIND. -/
def State.doBind (s : State) (i : StreamId) (e : BitVec 512) (far : Option W32) : Done :=
  let h : W32 := BitVec.ofNat 32 (bits e 64 32)
  let s := s.gdefFlush
  let ls := s.leavesOf h
  match s.bindErr e far with
  | some (c, w) => .no (s.askedFar ls) c w
  | none =>
    let (seed, s) := ((s.askedFar ls).countDead h).drawSeed e
    let s := s.bindGroup h (· + 1)
    let s := s.modStrm i fun x => { x with
      state := .bound, handle := h, lead := BitVec.ofNat 9 (bits e 96 10), leaves := ls, prio := BitVec.ofNat 2 (bits e 106 2),
      seed := seed, cstream := i, spillAddr := BitVec.ofNat 48 (bits e 192 48), spillLen := BitVec.ofNat 64 (bits e 256 64),
      codeAddr := 0, codeLen := 0, entry := 0, nextMi := 0, nextDisp := 0, disps := [], epochs := [], dirty := false,
      drainPaused := false, prompt := false, energy := 0, told := x.told - x.energy, farMis := [], asks := [], farRecs := [], farPend := [], farEntries := [] }
    { Done.ok ((s.reserveAll i).reportJob (s.jobOf i)) with value := if bit e 108 then seed else 0 }

/-- BIND. -/
def execBind (strm : StreamId) (entry : BitVec 512) (far : Option W32) (s : State) : Res :=
  .next (s.takeCmd strm entry 1 fun s => s.doBind strm entry far)

/-! ### LOAD (R117) -/

/-- The first refusal of LOAD. -/
def State.loadErr (s : State) (e : BitVec 512) : Refused :=
  let a := bits e 64 48
  let n := bits e 128 64
  let entry := bits e 192 64
  orCheck (firstOf [
    refuseIf (!inStack a n) eBounds (nameW 1 128),
    refuseIf (decide (a % 128 ≠ 0)) eAlign (nameW 1 64),
    refuseIf (decide (n % 4 ≠ 0)) eAlign (nameW 1 128),
    refuseIf (if n = 0 then decide (entry ≠ 0) else decide (entry % 4 ≠ 0) || decide (n ≤ entry)) eBounds (nameW 1 192),
    (s.poisonIn a n).map fun ln => (eStackUe, nameW 8 (s.own * 2 ^ 48 + 128 * ln))]) fun _ =>
    let bad := programErr (wordsOf (s.bytes a n))
    refuseIf (decide (bad.1 ≠ 0)) bad.1 (nameW 3 bad.2)

/-- What a context of a stream holds after LOAD: the program, and no block of an earlier one. -/
def Ctx.reprogram (c : Ctx) (base len : W64) : Ctx :=
  { c.halted with codeBase := base, codeLen := len, blocks := [], wait := if c.lead then .stopped else .idle }

/-- The effect of LOAD, on every device that holds leaf cores of the stream. In the states that take it no block runs but one that
a fault has stopped. -/
def State.doLoad (s : State) (i : StreamId) (e : BitVec 512) : Done :=
  match s.loadErr e with
  | some (c, w) => .no s c w
  | none =>
    let base : W64 := BitVec.ofNat 64 (bits e 64 48)
    let len : W64 := BitVec.ofNat 64 (bits e 128 64)
    let s := s.modStrm i fun x => { x with
      state := .loaded, codeAddr := BitVec.ofNat 48 (bits e 64 48), codeLen := len, entry := BitVec.ofNat 64 (bits e 192 64)
      disps := [], asks := [] }
    let s := s.tellFar i (.program (BitVec.ofNat 16 s.own) i base len)
    .ok ((s.ownCtxs i).foldl (fun s x => s.setCtx x.1 (x.2.reprogram base len)) s)

/-- LOAD. -/
def execLoad (strm : StreamId) (entry : BitVec 512) (s : State) : Res :=
  .next (s.takeCmd strm entry 2 fun s => s.doLoad strm entry)

/-! ### START, PAUSE, RESUME -/

/-- START (R104): the lead context at the entry point, its other registers zero. -/
def State.doStart (s : State) (i : StreamId) (e : BitVec 512) : Done :=
  match s.leadCtx i with
  | none => .ok s
  | some (cx, c) =>
    let arg (k : Nat) : W64 := BitVec.ofNat 64 (bits e (64 + 64 * k) 64)
    let x := s.strm i
    let c := { c with sreg := [], pred := [], vreg := [], wait := .stopped }
    let c := (((c.setS 1 (arg 0)).setS 2 (arg 1)).setS 3 (arg 2)).setS 4 (arg 3)
    let s := s.setCtx cx c
    { Done.ok (s.modStrm i fun x => { x with state := .running, dirty := false }) with
      after := fun s => s.goto cx (x.codeAddr.setWidth 64 + x.entry) }

/-- START. -/
def execStart (strm : StreamId) (entry : BitVec 512) (s : State) : Res :=
  .next (s.takeCmd strm entry 3 fun s => s.doStart strm entry)

/-- A context that a prompt pause stops: one that waits for a remote response, or for the answer about a block, stops when that
has come (R119). -/
def Ctx.pause (c : Ctx) : Ctx :=
  match c.wait with
  | .idle => c
  | .remote _ => { c with stopping := true }
  | .asked .block => { c with stopping := true }
  | _ => c.halted

/-- A lead context that PAUSE stops in mode 0 at the next macro-instruction boundary: it runs on to its next s.mi, to s.end, or to
an instruction that has to wait, and stops before it (R119; log 42, DEDUCED). -/
def Ctx.pauseLead (c : Ctx) : Ctx :=
  match c.wait with
  | .ready => { c with pausing := true }
  | .remote _ => { c with pausing := true }
  | _ => c.halted

/-- PAUSE (R119): mode 0 stops the lead context and the claims; mode 1 stops every context and every tile at its next load
boundary. Devices that hold leaf cores do so too and answer. -/
def State.doPause (s : State) (i : StreamId) (e : BitVec 512) : Done :=
  let x := s.strm i
  let prompt := bit e 64
  if prompt && decide (x.spillLen.toNat < x.leaves.length * imgLeaf) then .no s eBounds (nameW 1 256)
  else
    let s := s.setStrm i { x with
      state := .draining, drainPaused := true, prompt := prompt, farPend := s.farDevs x.leaves, farEntries := []
      asks := if prompt then [] else x.asks }
    let s := (s.ownCtxs i).foldl (fun s c =>
      if prompt then s.setCtx c.1 c.2.pause else if c.2.lead then s.setCtx c.1 c.2.pauseLead else s) s
    let s := { s with mis := s.mis.map fun m => if s.ownMi i m then { m with stopped := true } else m }
    .ok (s.tellFar i (.pause (BitVec.ofNat 16 s.own) i prompt))

/-- PAUSE. -/
def execPause (strm : StreamId) (entry : BitVec 512) (s : State) : Res :=
  .next (s.takeCmd strm entry 4 fun s => s.doPause strm entry)

/-- A macro-instruction as this device describes it to one that holds tiles of it. -/
def MI.work (m : MI) : Work :=
  ⟨m.ticket, m.seed, m.cstream, m.desc, m.recs, m.leaves, m.tm, m.tk, m.parts, m.team, m.prio⟩

/-- The leaf section of rank r in the spill area. -/
def State.spilled (s : State) (i : StreamId) (r : Nat) : List Byte :=
  s.bytes ((s.strm i).spillAddr.toNat + r * imgLeaf) imgLeaf

/-- A tile that device d is to go on with, where its macro-instruction still has the shape its progress was made under. -/
def State.giveTile (s : State) (i : StreamId) (d : Nat) (x : TileSave) : State :=
  match s.findMi s.own i x.ticket with
  | none => s
  | some m =>
    let t := m.indexOf x.number
    if m.unpublished || decide (m.shapeKey ≠ x.shape) || m.faulted || decide (m.numberOf t ≠ x.number) then s
    else s.modMi s.own i x.ticket fun y =>
      { y with
        returned := y.returned.filter fun k => decide (k ≠ t)
        taken := if y.next ≤ t then t :: y.taken else y.taken
        out := if y.out.contains (d, t) then y.out else y.out ++ [(d, t)] }

/-- Tiles whose progress the spill area holds go on, on this device and on others (R119, R479). -/
def State.unspill (s : State) (i : StreamId) (dirty : Bool) : State :=
  let x := s.strm i
  let ls := x.leaves.zipIdx
  let s := if dirty then (ls.filter fun e => decide (e.1.1 = s.own)).foldl (fun s e => s.takeLeaf s.own i e.1.2 (s.spilled i e.2)) s
    else s
  (s.farDevs x.leaves).foldl (fun s d =>
    let secs := if dirty then (ls.filter fun e => decide (e.1.1 = d)).map fun e => (e.1.2, s.spilled i e.2) else []
    let s := (secs.flatMap fun e => tilesOfTail (e.2.drop imgAcc)).foldl (fun s t => s.giveTile i d t) s
    let work := ((s.ownMis i).filter fun m => !m.unpublished && m.leaves.any fun l => decide (l.1 = d)).map MI.work
    s.send (.notice d (.resume (BitVec.ofNat 16 s.own) i (secs.map fun e => (BitVec.ofNat 9 e.1, e.2))
      (if secs.isEmpty then [] else work)))) s

/-- Macro-instructions, tiles and contexts of stream i go on (R112, R479); a context that stands at the end of the program
ends. -/
def State.goOn (s : State) (i : StreamId) (dirty : Bool) : State :=
  let s := ((s.ownMis i).foldl (fun s m => s.resumeMi m) s).unspill i dirty
  if (s.strm i).state = .running then
    (s.ownCtxs i).foldl (fun s e => if e.2.wait = .stopped then s.wake e.1 else s) s
  else s

/-- RESUME. -/
def execResume (strm : StreamId) (entry : BitVec 512) (s : State) : Res :=
  .next (s.takeCmd strm entry 5 fun s =>
    { Done.ok (s.modStrm strm fun x => { x with state := .running, dirty := false, farEntries := [] }) with
      after := fun t => t.goOn strm (s.strm strm).dirty })

/-! ### SAVE and RESTORE (R120, R121) -/

/-- Lines of bytes to another device, as WRL packets whose answers the requester waits for (R114, R361, R363). -/
def State.sendLines (s : State) (who : Requester) (dst a : Nat) (bs : List Byte) : State :=
  (linePieces (bs.length / 128 + 2) a bs).foldl (fun s p =>
    let (pay, mask) := linePay (p.1 % 128) p.2
    s.post ⟨{ s.mkPkt 0x04 dst 0 (p.1 / 128 * 128) 0 pay with mask := mask }, who, false⟩) s

/-- Where an image may not lie: outside this device's memory, or on a device that is not live or has no route. -/
def State.imagePlaceErr (s : State) (a n : Nat) : Refused :=
  if a / 2 ^ 48 = s.own then refuseIf (!inMem (a % 2 ^ 48) n) eBounds (nameW 1 128)
  else if !s.isLive (a / 2 ^ 48) then some (eFabUnreach, nameW 1 64)
  else if (s.routePort (s.mkPkt 0x04 (a / 2 ^ 48) 0 (a % 2 ^ 48) 0 [])).isNone then some (eFabRoute, nameW 1 64)
  else none

/-- The effect of SAVE. -/
def State.doSave (s : State) (i : StreamId) (e : BitVec 512) : Done :=
  let a := bits e 64 64
  let n := bits e 128 64
  let need := s.requiredLen i
  let value : W64 := BitVec.ofNat 64 need
  if n = 0 then { Done.ok s with value := value }
  else if n < need then { Done.no s eBounds (nameW 1 128) with value := value }
  else
    match s.imagePlaceErr a need with
    | some (c, w) => { Done.no s c w with value := value }
    | none =>
      let img := s.imageOf i
      if a / 2 ^ 48 = s.own then
        { Done.ok ((s.storePlain (a % 2 ^ 48) img).count evImageBytes .device (some i) need) with value := value }
      else { Done.ok (s.sendLines (.save i) (a / 2 ^ 48) (a % 2 ^ 48) img) with value := value, later := true }

/-- SAVE. -/
def execSave (strm : StreamId) (entry : BitVec 512) (s : State) : Res :=
  .next (s.takeCmd strm entry 6 fun s => s.doSave strm entry)

/-- The effect of RESTORE; `remote` holds the bytes of an image that lies on another device. -/
def State.doRestore (s : State) (i : StreamId) (e : BitVec 512) (remote : List Byte) : Done :=
  let a := bits e 64 64
  let n := bits e 128 64
  let here := decide (a / 2 ^ 48 = s.own)
  let read (k : Nat) : List Byte := if here then s.bytes (a % 2 ^ 48) k else remote.take k
  if n = 0 then .ok s
  else
    match s.imagePlaceErr a (max n imgHdr) with
    | some (c, w) => .no s c w
    | none =>
      let total := imgNum (read imgHdr) 8 8
      if n < imgHdr || n < total then .no s eBounds (nameW 1 128)
      else
        match if here then s.poisonIn (a % 2 ^ 48) (max imgHdr total) else none with
        | some ln => .no s eStackUe (nameW 8 (s.own * 2 ^ 48 + 128 * ln))
        | none =>
          let b := read total
          let err := s.imageErr i b
          if err.1 ≠ 0 then .no s err.1 err.2
          else .ok ((s.loadImage i b).count evImageBytes .device (some i) total)

/-- RESTORE. -/
def execRestore (strm : StreamId) (entry : BitVec 512) (remote : List Byte) (s : State) : Res :=
  .next (s.takeCmd strm entry 7 fun s => s.doRestore strm entry remote)

/-! ### KILL (R122) -/

/-- Address ranges of this device that an abandoned macro-instruction may have left unwritten: the elements, scales and
statistics of units it has not written, its histogram and its presence bitmap. -/
def State.abandoned (s : State) (m : MI) : List (Nat × Nat) :=
  if m.unpublished || m.leaves.isEmpty then []
  else
    let fo := dFmtOut m.desc
    let cols := m.cols s
    let rows := (List.range (dBatch m.desc)).flatMap fun bi => (List.range (dM m.desc)).flatMap fun i =>
      (List.range (ceilDiv cols 64)).flatMap fun j =>
        if m.units.contains (m.unitOf s bi i (64 * j)) then []
        else
          let w := min 64 (cols - 64 * j)
          let scale := if isMx fo then [(rowAddr (recD m.recs roleScaleOut) bi i + 2 * j, ceilDiv w 32)] else []
          let stats := if hasRole m.recs roleStats then [(rowAddr (recD m.recs roleStats) bi i, 8)] else []
          (outAddr m bi i + 64 * j * fmtBits fo / 8, rowBytes fo w) :: scale ++ stats
    let whole := (m.recs.filter fun r => decide (rRole r = roleHist) || decide (rRole r = rolePresOut)).map
      fun r => (rAddr r, rExtent r)
    ((rows ++ whole).filter fun e => decide (e.1 / 2 ^ 48 = s.own) && decide (0 < e.2)).map
      fun e => (e.1 % 2 ^ 48, e.1 % 2 ^ 48 + e.2)

/-- Nobody waits any more for the remote writes of stream i. -/
def State.orphan (s : State) (i : StreamId) : State :=
  let mine (w : Requester) : Bool :=
    match w with
    | .ctxStore d j _ => decide (d.toNat = s.own) && decide (j = i)
    | .macroWrite h j _ => decide (h.toNat = s.own) && decide (j = i)
    | _ => false
  { s with fab := { s.fab with reqs := s.fab.reqs.map fun (e : Nat × Option Req) =>
    (e.1, e.2.map fun (r : Req) => if mine r.who then { r with who := .posted } else r) } }

/-- KILL leaves a stream EMPTY: contexts free, work abandoned, schedule at reset (R112, R122, R312). -/
def State.killStream (s : State) (i : StreamId) : State :=
  let x := s.strm i
  let dev := s.own
  let s := s.tellFar i (.release (BitVec.ofNat 16 dev) i)
  let s := (s.ownMis i).foldl (fun s m => ((s.abandoned m).foldl (fun s r => s.unspecify r.1 r.2) s).removeMi m) s
  let s := { s with ctxs := s.ctxs.filter fun e =>
    !(e.2.used && decide (e.2.dev.toNat = dev) && decide (e.2.strm = i)) }
  let s := s.bindGroup x.handle (· - 1)
  let s := s.modSreg i fun r => { r with
    schedProg := 0x10, schedParam := 0, schedShape := 0x3F80000000000000, schedStep := 0, schedErr := 0 }
  let s := s.setStrm i { Stream.empty with lastErr := x.lastErr, estate := x.estate, errArg := x.errArg, energy := x.energy, told := x.told, thrNs := x.thrNs, thrBy := x.thrBy }
  (s.orphan i).reportJob (s.jobOf i)

/-- KILL; in EMPTY it has no effect. -/
def execKill (strm : StreamId) (entry : BitVec 512) (s : State) : Res :=
  .next (s.takeCmd strm entry 8 fun s =>
    if (s.strm strm).state = .empty then .ok s else .ok (s.killStream strm))

/-! ### FENCE and the end of a drain (R108, R132) -/

/-- FENCE: in DRAINING it holds the ring until the drain ends; in any other state it completes. -/
def execFence (strm : StreamId) (entry : BitVec 512) (s : State) : Res :=
  let held := !s.ringIdle strm && !s.cplBlocked strm && decide (bits entry 0 8 = 9) && (reservedBit [] entry).isNone &&
    decide ((s.strm strm).state = .draining)
  .next (if held then
    s.modSreg strm fun r => { r with
      cmdHead := r.cmdHead + 1, cplWaiting := false,
      ringFence := some (BitVec.ofNat 32 (bits entry 32 32), r.cmdHead, .draining) }
  else s.takeCmd strm entry 9 Done.ok)

/-- FENCE_COMPLETE: the fence of a drain that has ended completes. -/
def execFenceComplete (strm : StreamId) (s : State) : Res :=
  match (s.sreg strm).ringFence with
  | none => .next s
  | some (tag, index, found) =>
    if (s.strm strm).state = .draining then .next s
    else .next ((s.modSreg strm fun r => { r with ringFence := none }).complete strm found 9 0 tag index 0)

/-- What a pause waits for here, of a stream of device `home`: no tile of its macro-instructions runs but such as a prompt pause
stops, none is elsewhere, and no remote response is awaited (R108, R119). -/
def State.quiet (s : State) (home : BitVec 16) (i : StreamId) (prompt : Bool) : Bool :=
  (s.mis.filter fun m => decide (m.home = home) && decide (m.strm = i)).all (fun m =>
    m.out.isEmpty && !s.writesPending m && (if prompt then (s.tilesOf m).length = (s.stoppedTiles m).length else (s.tilesOf m).isEmpty)) &&
  s.ctxs.all fun e => !(e.2.used && decide (e.2.dev = home) && decide (e.2.strm = i) &&
    (match e.2.wait with
     | .remote _ => true
     | .asked .block => true
     | w => e.2.lead && decide (w ≠ .stopped)))

/-- What a drain waits for has come (R108, R119). -/
def State.drained (s : State) (i : StreamId) : Bool :=
  let x := s.strm i
  if x.drainPaused then (x.prompt || x.disps.isEmpty) && x.farPend.isEmpty && s.quiet (BitVec.ofNat 16 s.own) i x.prompt
  else decide (s.outstanding i = 0) && x.disps.isEmpty

/-- The leaf sections of stream i of device `home` that this device writes, by core (R119). -/
def State.sections (s : State) (home : BitVec 16) (i : StreamId) : List (Nat × Nat × List Byte) :=
  (s.ctxs.filter fun e => e.2.used && !e.2.lead && decide (e.2.dev = home) && decide (e.2.strm = i)).map fun e =>
    (e.1 / 8, e.2.rank, s.leafBytes home i (e.1 / 8) e.2)

/-- The tiles of other devices' counters whose progress the sections of this device record. -/
def State.keptTiles (s : State) (home : BitVec 16) (i : StreamId) : List (W64 × Nat) :=
  (s.sections home i).flatMap fun e => ((s.savedTiles home.toNat i e.1).map fun t => (t.ticket, t.number)).filter fun t =>
    s.mis.any fun m => !m.here && decide (m.home = home) && decide (m.strm = i) && decide (m.ticket = t.1)

/-- The spill of a prompt pause: this device's leaf sections (R119). The tiles leave their cores. -/
def State.spill (s : State) (i : StreamId) : State :=
  let x := s.strm i
  let s1 := (s.sections (BitVec.ofNat 16 s.own) i).foldl (fun t e =>
    t.storePlain (x.spillAddr.toNat + e.2.1 * imgLeaf) e.2.2) s
  let s1 := (s.ownMis i).foldl (fun s m => (s.returnTiles m).releaseParts m) s1
  s1.count evSpillBytes .device (some i) (x.leaves.length * imgLeaf)

/-- The end of the pause of another device's stream here: its device gets the sections and entries, and the tiles of its
counters that have not started (R27, R119). -/
def State.farPaused (s : State) (x : FarStream) : State :=
  let prompt := decide (x.pausing = some true)
  let secs := if prompt then (s.sections x.dev x.strm).map fun e => e.2 else []
  let kept := if prompt then s.keptTiles x.dev x.strm else []
  let rank (m : MI) : Nat := ((s.farCtx x.dev x.strm m.core.toNat).map fun k => (s.ctx k).rank).getD 0
  let ms := s.mis.filter fun m => decide (m.home = x.dev) && decide (m.strm = x.strm)
  let entries := (ms.filter fun m => m.here).map fun m => m.entry s (rank m)
  let s := if prompt then ms.foldl (fun s m => (s.giveBack m).releaseParts m) s
    else (ms.filter fun m => !m.here).foldl (fun s m => s.giveBack m) s
  (s.modFarStrm x.dev x.strm fun y => { y with pausing := none }).send
    (.notice x.dev.toNat (.paused x.strm (BitVec.ofNat 16 s.own) secs entries kept))

/-- The pauses of other devices' streams of this number that have come to their end here. -/
def State.farDrains (s : State) (i : StreamId) : State :=
  (s.fars.filter fun x => decide (x.strm = i) && x.pausing.any fun p => s.quiet x.dev i p).foldl (fun s x => s.farPaused x) s

/-- DRAIN_END: a drain ends in LOADED or PAUSED, with an event entry (R108); this device's part in the pause of another
device's stream ends too (log 42, DESIGN CHOICE). -/
def execDrainEnd (strm : StreamId) (s : State) : Res :=
  let s := s.farDrains strm
  let x := s.strm strm
  if x.state ≠ .draining || !s.drained strm then .next s
  else
    let s := if x.drainPaused && x.prompt then s.spill strm else s
    let s := if x.drainPaused then
        { s with mis := s.mis.map fun m => if s.ownMi strm m then { m with stopped := true } else m }
      else s
    let after : SState := if x.drainPaused then .paused else .loaded
    let s := s.setStrm strm { x with
      state := after, dirty := x.drainPaused && x.prompt, drainPaused := false, prompt := false }
    .next (s.postEntry strm (cplEntry true .draining after 0 0 0 0 0 s.time))

/-! ### Doorbells (R403, R406, R407) -/

/-- COMMAND_TAIL_DOORBELL: the tail of an enabled ring that the new tail does not overfill (R403, R407). -/
def execCommandTailDoorbell (strm : StreamId) (v : W32) (s : State) : Res :=
  .next (s.hostOnly fun s =>
    let r := s.sreg strm
    let tail : BitVec 16 := BitVec.ofNat 16 (bits v 0 16)
    if !bit r.cmdRing 4 || decide (bits v 16 16 ≠ 0) || decide (2 ^ bits r.cmdRing 0 4 < (tail - r.cmdHead).toNat) then
      s.countDev evHifDbBad
    else s.setSreg strm { r with cmdTail := tail })

/-- COMPLETION_HEAD_DOORBELL: the head may move up to the write index (log 29, DEDUCED); held entries then find space. -/
def execCompletionHeadDoorbell (strm : StreamId) (v : W32) (s : State) : Res :=
  .next (s.hostOnly fun s =>
    let r := s.sreg strm
    let head : BitVec 16 := BitVec.ofNat 16 (bits v 0 16)
    if !bit r.cplRing 4 || decide (bits v 16 16 ≠ 0) || decide (r.unconsumed < (head - r.cplHead).toNat) then
      s.countDev evHifDbBad
    else (s.setSreg strm { r with cplHead := head }).flushHeld strm r.held.length)

end Sys2Proof.Machine
end

