-- ==== Sys2Proof/Machine/Packets.lean ====
section
/-! DEFINITION. Packets: inbound requests, responses, forwarding, and management notices (R353-R376, log 46, DEDUCED). -/

namespace Sys2Proof.Machine

/-! ### Inbound requests (R357, R366, R367) -/

/-- FAB_INWIN of window k at reset: window 0 covers the local space. -/
def inwinReset (k : Nat) : W64 := if k = 0 then 0x7FFFFFF8000000 else 0
/-- FAB_INWIN of window k. -/
def State.inwin (s : State) (k : Nat) : W64 := tget (inwinReset k) s.fab.inwin k

/-- The n bytes from a lie whole in an enabled inbound window. -/
def State.inWindow (s : State) (a n : Nat) : Bool :=
  (List.range 8).any fun k =>
    let w := s.inwin k
    bit w 54 && decide (bits w 0 27 * 0x200000 ≤ a) && decide (a + n ≤ (bits w 27 27 + 1) * 0x200000)

/-- The error index of an inbound request (R366); 0 serves it. `line`: RDL or WRL, which reach local stores too. -/
def State.inboundErr (s : State) (a n : Nat) (line : Bool) : Nat :=
  if !s.member then 1
  else if !s.inWindow a n then 4
  else if inStack a n || (line && inStore a n) then 0
  else 3

/-- Discard a packet, counted. -/
def State.badPkt (s : State) : State := s.countDev evFabBadPkt

/-- Answer a request with an error index. -/
def State.answerErr (s : State) (pkt : Packet) (idx : Nat) : State :=
  s.sendRsp (s.mkPkt 0x12 pkt.src.toNat pkt.tag 0 (BitVec.ofNat 8 idx) [])

/-- Answer with DATA; code bit 0 marks a poisoned line. -/
def State.answerData (s : State) (pkt : Packet) (poisoned : Bool) (bs : List Byte) : State :=
  s.sendRsp (s.mkPkt 0x10 pkt.src.toNat pkt.tag 0 (BitVec.ofNat 8 (b2n poisoned)) bs)

/-- Answer with ACK. -/
def State.answerAck (s : State) (pkt : Packet) : State := s.sendRsp (s.mkPkt 0x11 pkt.src.toNat pkt.tag 0 0 [])

/-- Serve a request of n bytes at the packet's address, or answer its error; one of a wrong size or alignment is no packet of
R355. -/
def State.serve (s : State) (pkt : Packet) (good : Bool) (n : Nat) (line : Bool) (k : State → State) : State :=
  if !good then s.badPkt
  else
    let e := s.inboundErr pkt.addr.toNat n line
    if e = 0 then k s
    else (if e = 4 then s.countDev evFabWindowRefused else s).answerErr pkt e

/-- RD: the awl at the home reads 4 or 8 bytes. -/
def State.onRd (s : State) (pkt : Packet) : State :=
  let a := pkt.addr.toNat
  let n := pkt.code.toNat
  s.serve pkt ((decide (n = 4) || decide (n = 8)) && decide (a % n = 0)) n false fun s =>
    let s := s.awlRead (s.home (a / 128)) (a / 128) (s.atHome (a / 128))
    s.answerData pkt (s.poisoned (a / 128)) (s.bytes a n)

/-- WR: the awl at the home stores 4 or 8 bytes. -/
def State.onWr (s : State) (pkt : Packet) : State :=
  let a := pkt.addr.toNat
  let n := pkt.pay.length
  s.serve pkt ((decide (n = 4) || decide (n = 8)) && decide (a % n = 0)) n false fun s =>
    (s.awlStore (s.home (a / 128)) a pkt.pay (s.atHome (a / 128))).answerAck pkt

/-- RDL: the line path reads a line with hint none. -/
def State.onRdl (s : State) (pkt : Packet) : State :=
  let a := pkt.addr.toNat
  s.serve pkt (decide (a % 128 = 0)) 128 true fun s =>
    let s := s.readLines a 128 .none 0 none
    s.answerData pkt (inStack a 128 && s.poisoned (a / 128)) (s.bytes a 128)

/-- Runs of set bits of a byte mask from bit i on, as (first, length). -/
def maskRuns (mask : BitVec 128) : Nat → Nat → List (Nat × Nat)
  | 0, _ => []
  | n + 1, i =>
    match maskRuns mask n (i + 1) with
    | (j, l) :: t =>
      if bit mask i then (if j = i + 1 then (i, l + 1) :: t else (i, 1) :: (j, l) :: t) else (j, l) :: t
    | [] => if bit mask i then [(i, 1)] else []

/-- Store the masked bytes of a line along the line path. -/
def State.storeMasked (s : State) (a : Nat) (mask : BitVec 128) (bs : List Byte) : State :=
  match maskRuns mask 128 0 with
  | [] => s
  | (i, l) :: t =>
    t.foldl (fun s r => s.putBytes (a + r.1) ((bs.drop r.1).take r.2)) (s.storePlain (a + i) ((bs.drop i).take l))

/-- WRL: the line path writes the masked bytes of a line with hint none. -/
def State.onWrl (s : State) (pkt : Packet) : State :=
  let a := pkt.addr.toNat
  s.serve pkt (decide (a % 128 = 0) && decide (pkt.pay.length = 128)) 128 true fun s =>
    (s.storeMasked a pkt.mask pkt.pay).answerAck pkt

/-- ATOM: an atomic at the home; 8 bytes of operand, for compare-and-swap followed by 8 bytes to compare with (log 46, DEDUCED). -/
def State.onAtom (s : State) (pkt : Packet) : State :=
  let a := pkt.addr.toNat
  let v : W64 := BitVec.ofNat 64 (leNat (pkt.pay.take 8))
  let cmp : W64 := BitVec.ofNat 64 (leNat (pkt.pay.drop 8))
  match amoOf pkt.code with
  | none => s.badPkt
  | some fn =>
    s.serve pkt (decide (a % 8 = 0) && decide (pkt.pay.length = if fn = .cas then 16 else 8)) 8 false fun s =>
      let old := s.bytes a 8
      let s := s.awlAtomic (s.home (a / 128)) a fn cmp v (s.atHome (a / 128))
      s.answerData pkt (s.poisoned (a / 128)) old

/-! ### Responses (R363-R366) -/

/-- A load or atomic of a context returns v in register d (R126); a pause met meanwhile stops it after (R119). -/
def State.returnTo (s : State) (cx : CtxId) (tag : BitVec 13) (d : Reg) (v : W64) : State :=
  if (s.ctx cx).wait = .remote tag then (s.modCtx cx fun c => c.setS d.toNat v).advance cx 4 else s

/-- The outstanding request a response answers; none for one that comes too late. -/
def State.answered (s : State) (pkt : Packet) (types : List (BitVec 8)) : Option Req :=
  match tget none s.fab.reqs pkt.tag.toNat with
  | some r => if r.pkt.dst = pkt.src && types.contains r.pkt.typ then some r else none
  | none => none

/-- A response without a request, or to one given up, is discarded and counted (R364, R402). -/
def State.lateRsp (s : State) : State := s.countDev evFabLateRsp

/-- DATA. -/
def State.onData (s : State) (pkt : Packet) : State :=
  match s.answered pkt [0x01, 0x02, 0x05] with
  | none => s.lateRsp
  | some r =>
    let s := s.dropTag pkt.tag.toNat
    let bad := bit pkt.code 0
    let v : W64 := BitVec.ofNat 64 (leNat pkt.pay)
    let s := if r.dropped then s.lateRsp
      else
        match r.who with
        | .ctxLoad cx d size8 =>
          if bad then s.failReq r eStackUe else s.returnTo cx r.pkt.tag d (if size8 then v else BitVec.ofNat 64 (bits v 0 32))
        | .ctxAtomic cx d => if bad then s.failReq r eStackUe else s.returnTo cx r.pkt.tag d v
        | .macroWrite _ _ _ => if bad then s.failReq r eStackUe else s
        | .farRead u n => if bad then s.failReq r eStackUe else s.farGot u n pkt.pay
        | .bar2 off n =>
          let bs := (pkt.pay.drop off).take n
          s.reply (if bad then .poisoned bs else .bytes bs)
        | .dmaRead ch off skip n => if bad then s.failReq r eStackUe else s.dmaGot ch off ((pkt.pay.drop skip).take n)
        | _ => s
    s.settle

/-- ACK: the write is done and its tag free. -/
def State.onAck (s : State) (pkt : Packet) : State :=
  match s.answered pkt [0x03, 0x04] with
  | none => s.lateRsp
  | some r =>
    let s := s.dropTag pkt.tag.toNat
    (match r.who with
     | .dma ch => s.dmaAcked ch
     | .save i => s.saveAcked i
     | _ => s).settle

/-- The error of an index (R366). -/
def fabErr : Nat → Code
  | 1 => eFabUnreach
  | 2 => eFabRoute
  | 3 => eBounds
  | _ => eFabWindow

/-- ERR: the request completes with the indexed error; index 0 and indices above 4 are bad packets. -/
def State.onErr (s : State) (pkt : Packet) : State :=
  let i := pkt.code.toNat
  if i = 0 ∨ 4 < i then s.badPkt
  else
    match tget none s.fab.reqs pkt.tag.toNat with
    | none => s.lateRsp
    | some r =>
      let s := s.dropTag pkt.tag.toNat
      (if r.dropped then s.lateRsp else s.failReq r (fabErr i)).settle

/-! ### Forwarding (R359) -/

/-- A packet that cannot go on is answered from here; an ERR is discarded. -/
def State.cannotForward (s : State) (pkt : Packet) (idx : Nat) : State :=
  if pkt.typ = 0x12 then s.badPkt else s.answerErr pkt idx

/-- Forward a packet for another device. -/
def State.forward (s : State) (pkt : Packet) : State :=
  if !s.isLive pkt.dst.toNat then s.cannotForward pkt 1
  else if pkt.hops = 0 then s.cannotForward pkt 2
  else
    match s.routePort pkt with
    | none => s.cannotForward pkt 2
    | some p => s.sendOn p { pkt with hops := pkt.hops - 1 }

/-- Whether a packet type is of R356. -/
def knownType (t : BitVec 8) : Bool := [0x01, 0x02, 0x03, 0x04, 0x05, 0x10, 0x11, 0x12, 0x20].contains t.toNat

/-- A packet arrives: of an unknown type it is bad, for another device it is forwarded, else `k` takes it. -/
def State.arrive (s : State) (pkt : Packet) (k : State → Packet → State) : State :=
  if !s.up then s
  else if pkt.dst.toNat ≠ s.own then s.forward pkt
  else k s pkt

/-- A packet out of a flit: taken by its type; a notice for this device acts through its own command (log 46, DEDUCED). -/
def State.deliver (s : State) (pkt : Packet) : State :=
  if !s.up then s
  else if !knownType pkt.typ then s.badPkt
  else s.arrive pkt fun s pkt =>
    match pkt.typ.toNat with
    | 0x01 => s.onRd pkt
    | 0x02 => s.onRdl pkt
    | 0x03 => s.onWr pkt
    | 0x04 => s.onWrl pkt
    | 0x05 => s.onAtom pkt
    | 0x10 => s.onData pkt
    | 0x11 => s.onAck pkt
    | 0x12 => s.onErr pkt
    | _ => s

/-- RD. -/
def execRd (pkt : Packet) (s : State) : Res := .next (s.arrive pkt State.onRd)
/-- RDL. -/
def execRdl (pkt : Packet) (s : State) : Res := .next (s.arrive pkt State.onRdl)
/-- WR. -/
def execWr (pkt : Packet) (s : State) : Res := .next (s.arrive pkt State.onWr)
/-- WRL. -/
def execWrl (pkt : Packet) (s : State) : Res := .next (s.arrive pkt State.onWrl)
/-- ATOM. -/
def execAtom (pkt : Packet) (s : State) : Res := .next (s.arrive pkt State.onAtom)
/-- DATA. -/
def execData (pkt : Packet) (s : State) : Res := .next (s.arrive pkt State.onData)
/-- ACK. -/
def execAck (pkt : Packet) (s : State) : Res := .next (s.arrive pkt State.onAck)
/-- ERR. -/
def execErr (pkt : Packet) (s : State) : Res := .next (s.arrive pkt State.onErr)
/-- PACKET_FORWARD: a packet for another device; one of an unknown type is discarded (R356). -/
def execPacketForward (pkt : Packet) (s : State) : Res :=
  .next (if knownType pkt.typ then s.arrive pkt (fun s _ => s) else if s.up then s.badPkt else s)

/-- REFERENCE_NOTICE: another device defines or removes a group that names descriptor i of this one (R25). -/
def execReferenceNotice (dev : BitVec 16) (index : BitVec 16) (inc : Bool) (s : State) : Res :=
  let d := dev.toNat
  .next (s.modGroup index.toNat fun g =>
    if inc then { g with refs := g.refs + 1, far := tmod 0 g.far d (· + 1) }
    else if tget 0 g.far d = 0 then g
    else { g with refs := g.refs - 1, far := tmod 0 g.far d (· - 1) })

/-! ### Management notices (R356) -/

/-- Change every context here of stream strm of device dev. -/
def State.modFar (s : State) (dev : BitVec 16) (strm : StreamId) (f : Ctx → Ctx) : State :=
  { s with ctxs := s.ctxs.map fun (e : Nat × Ctx) =>
      (e.1, if e.2.used && decide (e.2.dev = dev) && decide (e.2.strm = strm) then f e.2 else e.2) }

/-- Another device reserves block contexts here for its stream (R31, R101, R222). -/
def State.takeReserve (s : State) (dev : BitVec 16) (strm : StreamId) (cores : List (CoreId × Nat)) (seed : W64)
    (cstream : BitVec 6) (n : Nat) (job : BitVec 16) (prio : BitVec 2) : State :=
  let s := { s with fars := (s.fars.filter fun x => !(decide (x.dev = dev) && decide (x.strm = strm))) ++ [⟨dev, strm, prio, [], none⟩] }
  cores.foldl (fun s e =>
    match ((List.range 8).map (ctxOf e.1.toNat)).find? fun x => !(s.ctx x).used with
    | some k => s.setCtx k { Ctx.free with
        used := true, dev := dev, strm := strm, seed := seed, cstream := cstream, leafCount := n, rank := e.2, job := job }
    | none => s) s

/-- Blocks of another device's stream start or queue in its contexts here (R103, R105). -/
def State.takeDispatch (s : State) (dev : BitVec 16) (strm : StreamId) (ticket addr : W64) (args : List W64)
    (blocks : List (CoreId × Nat)) (base len : W64) : State :=
  blocks.foldl (fun s b =>
    match s.farCtx dev strm b.1.toNat with
    | some k => (s.modCtx k fun c => { c with codeBase := base, codeLen := len }).queueBlock k ⟨ticket, addr, args, b.2⟩
    | none => s) s

/-- The macro-instructions here of stream strm of device dev. -/
def State.farMisOf (s : State) (dev : BitVec 16) (strm : StreamId) : List MI :=
  s.mis.filter fun m => decide (m.home = dev) && decide (m.strm = strm)

/-- A stop after a fault: contexts of the stream stop at their boundaries, its tiles here go back (R14, R109). -/
def State.takeStop (s : State) (dev : BitVec 16) (strm : StreamId) : State :=
  let s := (s.modFar dev strm Ctx.pause).modFarStrm dev strm fun x => { x with pausing := none }
  (s.farMisOf dev strm).foldl (fun s m => s.giveBack m) s

/-- A pause (R119): what DRAIN_END answers once this device is done with it. -/
def State.takePause (s : State) (dev : BitVec 16) (strm : StreamId) (prompt : Bool) : State :=
  let s := if prompt then s.modFar dev strm Ctx.pause else s
  let stop (m : MI) : MI := if decide (m.home = dev) && decide (m.strm = strm) then { m with stopped := true } else m
  let s := { s with mis := s.mis.map stop }
  s.modFarStrm dev strm fun x => { x with pausing := some prompt }

/-- A resume: tiles go on from the leaf sections, macro-instructions claim again, contexts go on. -/
def State.takeResume (s : State) (dev : BitVec 16) (strm : StreamId) (secs : List (CoreId × List Byte)) (work : List Work) : State :=
  let new := work.filter fun w => decide (0 < w.tm) && decide (0 < w.team) && decide (0 < w.parts) &&
    (s.findMi dev.toNat strm w.ticket).isNone
  let s := { s with mis := s.mis ++ new.map fun w => MI.ofWork w dev strm }
  let s := (s.farMisOf dev strm).foldl (fun s m => if m.faulted then s else s.resumeMi m) s
  let s := secs.foldl (fun s e => s.takeLeaf dev.toNat strm e.1.toNat e.2) s
  let idle (m : MI) : Bool := !m.here && decide (m.home = dev) && decide (m.strm = strm) && m.returned.isEmpty && (s.tilesOf m).isEmpty
  let s := { s with mis := s.mis.filter fun m => !idle m }
  let s := s.modFarStrm dev strm fun x => { x with pausing := none }
  let ks := (s.ctxs.filter fun e =>
    e.2.used && decide (e.2.dev = dev) && decide (e.2.strm = strm) && decide (e.2.wait = .stopped)).map Prod.fst
  ks.foldl (fun s k => s.wake (BitVec.ofNat 12 k)) s

/-- LOAD at the stream's device: the new program, and no block of an earlier one. -/
def State.takeProgram (s : State) (dev : BitVec 16) (strm : StreamId) (base len : W64) : State :=
  s.modFar dev strm fun c => c.reprogram base len

/-- RESTORE at the stream's device (R121, R222, R223): seed, counter stream, program, registers and blocks as in the image; work of
the stream here is gone. -/
def State.takeRestore (s : State) (dev : BitVec 16) (strm : StreamId) (seed : W64) (cstream : BitVec 6) (base len : W64)
    (recs : List (CoreId × List Byte × List Byte)) : State :=
  let s := (s.farMisOf dev strm).foldl (fun s m => s.removeMi m) s
  let s := s.modFarStrm dev strm fun x => { x with pausing := none }
  recs.foldl (fun s e =>
    match s.farCtx dev strm e.1.toNat with
    | some k => s.modCtx k fun c =>
        { c with seed := seed, cstream := cstream, codeBase := base, codeLen := len }.restored e.2.1
          ((tailBlocks e.2.2).map Prod.fst)
    | none => s) s

/-- A release: its contexts and work here end; what the work has not written is unspecified (R122). -/
def State.takeRelease (s : State) (dev : BitVec 16) (strm : StreamId) : State :=
  let s := { s with
    ctxs := s.ctxs.filter fun e => !(e.2.used && decide (e.2.dev = dev) && decide (e.2.strm = strm))
    fars := s.fars.filter fun x => !(decide (x.dev = dev) && decide (x.strm = strm)) }
  (s.farMisOf dev strm).foldl (fun s m =>
    (if m.here then (s.abandoned m).foldl (fun s r => s.unspecify r.1 r.2) s else s).removeMi m) s

/-- Another device has ended its part of a pause: its leaf sections go to the spill area, its entries to the image, and
tiles of counters here whose progress the sections hold are no longer out (R119, R120). -/
def State.takePaused (s : State) (strm : StreamId) (dev : BitVec 16) (secs : List (Nat × List Byte))
    (entries : List (List Byte)) (kept : List (W64 × Nat)) : State :=
  let x := s.strm strm
  if !(x.farPend.contains dev.toNat) then s
  else
    let s := s.setStrm strm { x with farPend := x.farPend.filter fun d => decide (d ≠ dev.toNat), farEntries := x.farEntries ++ entries }
    let s := secs.foldl (fun s e => s.storePlain (x.spillAddr.toNat + e.1 * imgLeaf) (padTo imgLeaf (e.2.take imgLeaf))) s
    kept.foldl (fun s k => s.modMi s.own strm k.1 fun m =>
      { m with out := m.out.filter fun o => decide (o ≠ (dev.toNat, m.indexOf k.2)) }) s

/-! ### Questions of contexts on other devices (R103, R126, R131, R153) -/

/-- A question about stream strm of this device: answered, or held until it can be. -/
def State.takeAsk (s : State) (dev : BitVec 16) (strm : StreamId) (cx : CtxId) (q : Ask) : State :=
  let x := s.strm strm
  let answer (s : State) (e : Code) (v : W64) : State := s.send (.notice dev.toNat (.answer strm cx e v false))
  let ask (s : State) (q : Ask) : State :=
    match s.tryAsk strm (dev, cx, q) with
    | some t => t
    | none =>
      let s := s.modStrm strm fun x => { x with asks := x.asks ++ [(dev, cx, q)] }
      match q with
      | .mi _ => s.send (.notice dev.toNat (.hold cx 0))
      | _ => s
  match q with
  | .disp handle addr args ls =>
    if !(ls.all fun l => x.leaves.contains l) then answer s eHandle (nameW 5 handle.toNat)
    else
      let t := x.nextDisp
      let s := s.setStrm strm { x with
        nextDisp := t + 1, disps := if ls.isEmpty then x.disps else x.disps ++ [⟨t, handle, ls⟩] }
      let base : W64 := x.codeAddr.setWidth 64
      let own : BitVec 16 := BitVec.ofNat 16 s.own
      let s := (s.farDevs ls).foldl (fun s v => s.send (.notice v (.dispatch own strm t addr args (blocksOn v ls) base x.codeLen))) s
      answer (s.takeDispatch own strm t addr args (blocksOn s.own ls) base x.codeLen) 0 t
  | .mwait t =>
    if x.nextMi.toNat ≤ t.toNat then answer s eHandle 0 else ask s (.work [t] [])
  | .fence fn mine unit =>
    let (ts, bs) := s.fenceScope strm dev.toNat mine fn unit
    ask s (.work ts bs)
  | q => ask s q

/-- The answer to a question of a context here: what asked may go on, or faults. A ticket that nobody waits for is given
back. -/
def State.takeAnswer (s : State) (src : Nat) (strm : StreamId) (cx : CtxId) (code : Code) (value : W64) (mi : Bool) : State :=
  let c := s.ctx cx
  let mine := c.used && decide (c.dev.toNat = src) && decide (c.strm = strm)
  match mine, c.wait with
  | true, .asked what =>
    if code ≠ 0 then s.faultCtx cx code value
    else
      let w : Wait := match what with
        | .scope fn => .fence fn [] []
        | _ => if c.stopping then .stopped else .ready
      s.setCtx cx { c with wait := w, stopping := false, granted := some value }
  | _, _ => if mi then s.send (.notice src (.miEnd strm value)) else s

/-- A macro-instruction of a stream of this device that another device publishes has left (R149). -/
def State.takeMiEnd (s : State) (strm : StreamId) (ticket : W64) : State :=
  (s.modStrm strm fun x => { x with farMis := x.farMis.filter fun m => decide (m.ticket ≠ ticket) }).wakeMwait
    (BitVec.ofNat 16 s.own) strm ticket

/-- A block of a stream of this device has ended on another, with the registers it left (R105, R477). -/
def State.takeBlockEnd (s : State) (strm : StreamId) (ticket : W64) (dev : BitVec 16) (core : CoreId) (record : List Byte) : State :=
  let l := (dev.toNat, core.toNat)
  let x := s.strm strm
  let s := if x.leaves.contains l then
      s.setStrm strm { x with farRecs := tput x.farRecs (rankOf x.leaves l) (padTo imgCtx (record.take imgCtx)) } else s
  s.leafDone strm ticket l

/-- Whom to tell that a fence of scope 2 or wider of stream i of device d has completed here (R299): the stream's device, which
tells the others, or from there every device with leaf cores. The pools here that the stream advanced are published. -/
def State.publishAll (s : State) (d : BitVec 16) (i : StreamId) : State :=
  if d.toNat = s.own then (s.publishFor i).tellFar i (.fenced d i)
  else
    let ps := ((s.far d i).map FarStream.epochs).getD []
    (ps.foldl (fun s p => s.publishEpoch p.toNat) s).modFarStrm d i fun x => { x with epochs := [] }

/-- A fence of scope 2 or wider of a stream has completed on another device. -/
def State.takeFenced (s : State) (dev : BitVec 16) (strm : StreamId) : State := s.publishAll dev strm

/-- Another device returns unfinished tiles of a counter here (R148). -/
def State.takeReturn (s : State) (src : Nat) (strm : StreamId) (ticket : W64) (tiles : List Nat) : State :=
  match s.hereMi strm ticket with
  | none => s
  | some m =>
    s.modMi m.home.toNat strm ticket fun m =>
    let back := (tiles.map m.indexOf).filter fun t => m.out.contains (src, t)
    { m with
      out := m.out.filter fun e => !(decide (e.1 = src) && back.contains e.2)
      returned := m.returned ++ back.filter fun t => !m.returned.contains t }

/-- Another device has retired a tile of a counter here (R144, R149). -/
def State.takeTileDone (s : State) (strm : StreamId) (ticket : W64) (dev tile : Nat) (hist present : List Nat) : State :=
  match s.hereMi strm ticket with
  | none => s
  | some m =>
    let t := m.indexOf tile
    if m.out.contains (dev, t) then
      s.modMi m.home.toNat strm ticket fun _ =>
        { m.retireTile s { Tile.new m t with outs := [⟨0, [], hist, present, false⟩] } with
          out := m.out.filter fun e => decide (e ≠ (dev, t)) }
    else s

/-- What a notice gives a device to do. -/
def State.takeNotice (s : State) (src : Nat) (n : Notice) : State :=
  match n with
  | .epochConfirm live epoch hw =>
    if s.fab.mstate = .joining then (s.joined live epoch hw).reportJobs else s
  | .joinRefused code => if s.fab.mstate = .joining then s.becomeOut code else s
  | .unknown _ => s.badPkt
  | .fault strm code name record => s.streamFault strm code name record.toNat
  | .reserve dev strm cores seed cstream n job prio => s.takeReserve dev strm cores seed cstream n job prio
  | .dispatch dev strm ticket addr args blocks base len => s.takeDispatch dev strm ticket addr args blocks base len
  | .stop dev strm => s.takeStop dev strm
  | .pause dev strm prompt => s.takePause dev strm prompt
  | .paused strm dev secs entries kept => s.takePaused strm dev secs entries kept
  | .resume dev strm secs work => s.takeResume dev strm secs work
  | .program dev strm base len => s.takeProgram dev strm base len
  | .restore dev strm seed cstream base len recs => s.takeRestore dev strm seed cstream base len recs
  | .ask dev strm cx q => s.takeAsk dev strm cx q
  | .answer strm cx code value mi => s.takeAnswer src strm cx code value mi
  | .hold cx q => if (s.ctx cx).wait = .asked .ticket then s.countHold cx q else s
  | .miEnd strm ticket => s.takeMiEnd strm ticket
  | .fenced dev strm => s.takeFenced dev strm
  | .release dev strm => s.takeRelease dev strm
  | .blockEnd strm ticket dev core record => s.takeBlockEnd strm ticket dev core record
  | .rangeReturn strm ticket tiles => s.takeReturn src strm ticket tiles
  | .tileDone strm ticket dev tile hist present => s.takeTileDone strm ticket dev.toNat tile hist present
  | .mergePart strm ticket dev tile cells => s.takePart strm ticket dev tile cells
  | .mergeAnswer home strm ticket tile last cells => s.partAnswered home strm ticket tile last cells
  | .jobHeadwater job hw m members => s.setHeadwater job.toNat hw m members
  | .jobReport job dev pin m devs present =>
    if s.sysHw = s.own then s.takeReport job.toNat dev.toNat pin m devs present else s
  | .lag job dev k clear =>
    if (s.job job.toNat).hw.toNat = s.own then s.takeLag job.toNat dev.toNat k clear else s

/-- A notice that only a member of the system takes. -/
def memberNotice : Notice → Bool
  | .epochConfirm _ _ _ => false
  | .joinRefused _ => false
  | .unknown _ => false
  | _ => true

/-- NOTE. -/
def execNote (src : BitVec 16) (n : Notice) (s : State) : Res :=
  if !s.up || (memberNotice n && !s.member) then .next s
  else .next (s.takeNotice src.toNat n).settle

end Sys2Proof.Machine
end

