-- ==== Sys2Proof/Machine/HostIf.lean ====
section
/-! DEFINITION. The host port and the management endpoints: BAR2, ring registers, DMA, interrupts, configuration requests, D3hot,
MCTP, SPDM and IDE (R398-R416, R422, R466, R467, R485, log 48, DEDUCED). -/

namespace Sys2Proof.Machine

/-! ### BAR2 (R401, R402, R485) -/

/-- The n bytes at BAR2 offset o are one aligned access of 4 or 8 bytes. -/
def scalarSize (o n : Nat) : Bool := (decide (n = 4) || decide (n = 8)) && decide (o % n = 0)

/-- A request of this device before its tag is given. -/
def State.newReq (s : State) (typ : BitVec 8) (dst addr : Nat) (code : BitVec 8) (mask : BitVec 128) (pay : List Byte)
    (who : Requester) : Req :=
  ⟨{ s.mkPkt typ dst 0 addr code pay with mask := mask }, who, false⟩

/-- Pieces of n bytes from a, each in one line, as (address, bytes). -/
def lineSpans : Nat → Nat → Nat → List (Nat × Nat)
  | 0, _, _ => []
  | f + 1, a, n =>
    if n = 0 then []
    else
      let k := min n (128 - a % 128)
      (a, k) :: lineSpans f (a + k) (n - k)

/-- A read of host memory space at a global address (R401). -/
def State.bar2Get (s : State) (g n : Nat) : State :=
  let a := g % 2 ^ 48
  let dev := g / 2 ^ 48
  let awl := scalarSize g n && inStack a n
  if dev = s.own then
    if !inMem a n then s.hostFail true eBounds
    else
      let bs := s.bytes a n
      let s := if awl then s.awlRead (s.home (a / 128)) (a / 128) (s.atHome (a / 128)) else s.readLines a n .none 0 none
      let bad := (s.poisonIn a n).isSome
      s.reply (if bad then .poisoned bs else .bytes bs)
  else if awl then s.post (s.newReq 0x01 dev a (BitVec.ofNat 8 n) 0 [] (.bar2 0 n))
  else (lineSpans (n / 128 + 2) a n).foldl (fun s p =>
    s.post (s.newReq 0x02 dev (p.1 / 128 * 128) 0 0 [] (.bar2 (p.1 % 128) p.2))) s

/-- A write at a global address. -/
def State.bar2Put (s : State) (g : Nat) (bs : List Byte) : State :=
  let a := g % 2 ^ 48
  let dev := g / 2 ^ 48
  let n := bs.length
  let awl := scalarSize g n && inStack a n
  if dev = s.own then
    if !inMem a n then s.hostFail false eBounds
    else if awl then s.awlStore (s.home (a / 128)) a bs (s.atHome (a / 128))
    else s.storePlain a bs
  else if awl then s.post (s.newReq 0x03 dev a 0 0 bs (.bar2 0 n))
  else (linePieces (n / 128 + 2) a bs).foldl (fun s p =>
    let (pay, mask) := linePay (p.1 % 128) p.2
    s.post (s.newReq 0x04 dev (p.1 / 128 * 128) 0 mask pay (.bar2 0 p.2.length))) s

/-- Whether BAR2 decodes the n bytes at offset o (R400). -/
def State.inBar2 (s : State) (o n : Nat) : Bool := decide (0 < n) && decide (o + n ≤ 2 ^ s.hif.bar2Log2)

/-- BAR2_READ. Before RUNNING it completes with 0 and is counted (R442); in D3hot it is an Unsupported Request (log 48, DEDUCED). -/
def execBar2Read (off : Nat) (size : Nat) (s : State) : Res :=
  if !s.hostUp || !s.inBar2 off size then .next s
  else if s.hif.d3hot then .next (s.reply .unsupported)
  else if s.boot.phase ≠ .running then .next ((s.countDev evHifBadAccess).reply (.bytes (List.replicate size 0)))
  else .next (s.bar2Get (s.hif.win.toNat + off) size)

/-- BAR2_WRITE. Before RUNNING it is dropped and counted (R442). -/
def execBar2Write (off : Nat) (bytes : List Byte) (s : State) : Res :=
  if !s.hostUp || !s.inBar2 off bytes.length || s.hif.d3hot then .next s
  else if s.boot.phase ≠ .running then .next (s.countDev evHifBadAccess)
  else .next (s.bar2Put (s.hif.win.toNat + off) bytes)

/-- A write to HIF_WIN: one not aligned to the BAR2 size is refused with E_ALIGN (R401). -/
def State.writeWin (s : State) (v : W64) : State :=
  if v.toNat % 2 ^ s.hif.bar2Log2 ≠ 0 then s.regRefused else { s with hif := { s.hif with win := v } }

/-- HIF_WIN_WRITE. -/
def execHifWinWrite (v : W64) (s : State) : Res := .next (if s.boot.phase = .running then s.writeWin v else s)

/-! ### Ring registers (R403-R409, R442) -/

/-- A write that changes base or log2 of an enabled ring, or names a size out of range, is refused. -/
def ringRefused (old v : W64) : Bool :=
  decide (bits v 0 4 < 4) || decide (12 < bits v 0 4) ||
  (bit old 4 && (decide (bits v 0 4 ≠ bits old 0 4) || decide (bits v 12 52 ≠ bits old 12 52)))

/-- A write to HIF_CMD_RING: enabling sets head to 0 (R403). -/
def State.writeCmdRing (s : State) (i : StreamId) (v : W64) : State :=
  let r := s.sreg i
  let v := v &&& 0xFFFFFFFFFFFFF01F
  if ringRefused r.cmdRing v then s.regRefused
  else if bit v 4 && !bit r.cmdRing 4 then s.setSreg i { r with cmdRing := v, cmdHead := 0, cmdTail := 0 }
  else s.setSreg i { r with cmdRing := v }

/-- A write to HIF_CPL_RING: enabling starts the first pass; disabling discards what was held (R405, log 17, DESIGN CHOICE). -/
def State.writeCplRing (s : State) (i : StreamId) (v : W64) : State :=
  let r := s.sreg i
  let v := v &&& 0xFFFFFFFFFFFFF03F
  if ringRefused r.cplRing v then s.regRefused
  else if bit v 4 && !bit r.cplRing 4 then
    s.setSreg i { r with cplRing := v, cplWr := 0, cplHead := 0, cplPhase := true, held := [] }
  else if bit v 4 then s.setSreg i { r with cplRing := v }
  else s.setSreg i { r with cplRing := v, held := [] }

/-- A write to HIF_DMA_RING: enabling sets the channel's head to 0 (R408). -/
def State.writeDmaRing (s : State) (d : Nat) (v : W64) : State :=
  let c := s.chan d
  let v := v &&& 0xFFFFFFFFFFFFF01F
  if ringRefused c.ring v then s.regRefused
  else if bit v 4 && !bit c.ring 4 then
    s.modChan d fun c => { c with ring := v, head := 0, started := 0, tail := 0, work := [], sent := false, got := [], asked := 0, owed := 0 }
  else s.modChan d fun c => { c with ring := v }

/-- A write to HIF_DMA_WB. -/
def State.writeDmaWb (s : State) (d : Nat) (v : W64) : State :=
  if v.toNat % 8 ≠ 0 then s.regRefused else s.modChan d fun c => { c with wb := v }

/-- A write to a stream or DMA ring register in RUNNING. -/
def State.writeRing (s : State) (which : RingReg) (v : W64) : State :=
  match which with
  | .cmd i => s.writeCmdRing i v
  | .cpl i => s.writeCplRing i v
  | .dma d => s.writeDmaRing d.toNat v
  | .wb d => s.writeDmaWb d.toNat v

/-- Whether a write would enable a ring. -/
def ringEnables (which : RingReg) (v : W64) : Bool :=
  match which with
  | .wb _ => false
  | _ => bit v 4

/-- HIF_RING_WRITE; before RUNNING setting enable is refused with E_BOOT (R442). -/
def execHifRingWrite (which : RingReg) (v : W64) (s : State) : Res :=
  .next (if s.boot.phase = .running then s.writeRing which v else s.earlyRing (ringEnables which v))

/-! ### DMA (R408-R411) -/

/-- DMA_TAIL_DOORBELL: under the tail rule of R403. -/
def execDmaTailDoorbell (chan : ChanId) (v : W32) (s : State) : Res :=
  .next (s.hostOnly fun s =>
    let c := s.chan chan.toNat
    let tail : BitVec 16 := BitVec.ofNat 16 (bits v 0 16)
    if !bit c.ring 4 || decide (bits v 16 16 ≠ 0) || decide (2 ^ bits c.ring 0 4 < (tail - c.head).toNat) then
      s.countDev evHifDbBad
    else s.modChan chan.toNat fun c => { c with tail := tail })

/-- What refuses a descriptor on the device side before its transfer (R410); 0 accepts. -/
def State.dmaErr (s : State) (d : BitVec 256) : Code :=
  let g := dDevAddr d
  let a := g % 2 ^ 48
  let n := dLen d
  if dReserved d then eOperand
  else if n = 0 then 0
  else if g / 2 ^ 48 = s.own then (if inMem a n then 0 else eBounds)
  else if 2 ^ 48 < a + n then eBounds
  else if !s.isLive (g / 2 ^ 48) then eFabUnreach
  else if (s.routePort (s.mkPkt 0x04 (g / 2 ^ 48) 0 a 0 [])).isNone then eFabRoute
  else 0

/-- A channel may take its next descriptor. -/
def State.dmaReady (s : State) (ch : Nat) : Bool :=
  let c := s.chan ch
  s.up && s.hostUp && !s.hif.d3hot && bit c.ring 4 && !c.halted && decide (c.started ≠ c.tail)

/-- DMA_DESCRIPTOR: the next due descriptor is taken. One with fence, or one that fails, waits for every earlier one; a failing
one then halts the channel (R409, R410). -/
def execDmaDescriptor (chan : ChanId) (desc : BitVec 256) (s : State) : Res :=
  let ch := chan.toNat
  let c := s.chan ch
  let e := s.dmaErr desc
  if !s.dmaReady ch || ((bit desc 162 || decide (e ≠ 0)) && !c.work.isEmpty) then .next s
  else if e ≠ 0 then .next (s.dmaHalt ch desc e)
  else .next ((s.modChan ch fun c => { c with started := c.started + 1, work := c.work ++ [desc] }).askFor ch desc)

/-- Host bytes reach the device side of a descriptor: here at their homes, elsewhere by WRL (R260, R269, R362). -/
def State.dmaPut (s : State) (ch : Nat) (d : BitVec 256) (bs : List Byte) : State :=
  let g := dDevAddr d
  let a := g % 2 ^ 48
  let bs := (bs ++ List.replicate (dLen d) 0).take (dLen d)
  if g / 2 ^ 48 = s.own then (s.storePlain a bs).dmaComplete ch
  else
    let s := s.modChan ch fun c => { c with sent := true }
    let s := (linePieces (bs.length / 128 + 2) a bs).foldl (fun s p =>
      let (pay, mask) := linePay (p.1 % 128) p.2
      if (s.chan ch).sent then s.post (s.newReq 0x04 (g / 2 ^ 48) (p.1 / 128 * 128) 0 mask pay (.dma ch)) else s) s
    s.dmaAcked ch

/-- Device bytes go to the host; those of another device are read line by line (R362, R409). -/
def State.dmaGet (s : State) (ch : Nat) (d : BitVec 256) : State :=
  let g := dDevAddr d
  let a := g % 2 ^ 48
  let n := dLen d
  if g / 2 ^ 48 = s.own then
    let s := s.readLines a n .none 0 none
    if (s.poisonIn a n).isSome then s.dmaHalt ch d eStackUe
    else (s.hostWrite (dHostAddr d) (s.bytes a n)).dmaComplete ch
  else
    let s := s.modChan ch fun c => { c with sent := true, got := [] }
    let s := (lineSpans (n / 128 + 2) a n).foldl (fun s p =>
      if (s.chan ch).sent then
        s.post (s.newReq 0x02 (g / 2 ^ 48) (p.1 / 128 * 128) 0 0 [] (.dmaRead ch (p.1 - a) (p.1 % 128) p.2))
      else s) s
    s.dmaAcked ch

/-- DMA_DESCRIPTOR_DONE: the transfer of a channel's oldest descriptor ends, with the bytes the host gave, if it gave them (a
completion that failed halts the channel with E_HOST_DMA, R410). -/
def execDmaDescriptorDone (chan : ChanId) (host : Option (List Byte)) (s : State) : Res :=
  let ch := chan.toNat
  let c := s.chan ch
  if !s.up || !s.hostUp || s.hif.d3hot || c.halted || c.sent then .next s
  else
    match c.work with
    | [] => .next s
    | d :: _ =>
      if dLen d = 0 then .next (s.dmaComplete ch)
      else if dToHost d then .next (s.dmaGet ch d)
      else
        match host with
        | none => .next (s.dmaHalt ch d eHostDma)
        | some bs => .next (s.dmaPut ch d bs)

/-- DMA_RESTART: a halted channel resumes at its failed descriptor. -/
def execDmaRestart (chan : ChanId) (s : State) : Res :=
  .next (if s.boot.phase = .running && (s.chan chan.toNat).halted then
    s.modChan chan.toNat fun c => { c with halted := false } else s)

/-! ### Interrupts, configuration space and D3hot (R399, R412, R443) -/

/-- A W1C write of HIF_IRQ_PEND. -/
def State.clearPend (s : State) (inst : Bool) (v : W64) : State :=
  { s with hif := { s.hif with pend := s.hif.pend &&& ~~~(BitVec.ofNat 88 (v.toNat * 2 ^ (64 * b2n inst))) } }

/-- IRQ_PEND_CLEAR; HIF_IRQ_PEND answers in every phase (R442). -/
def execIrqPendClear (inst : Bool) (v : W64) (s : State) : Res := .next (if s.hostUp then s.clearPend inst v else s)

/-- Configuration-ready: step 4 of R437 has completed; in recovery the boot ROM serves the host port (R443, R445). -/
def State.cfgReady (s : State) : Bool := s.boot.imageOk || decide (s.boot.phase = .recovery)

/-- A configuration read: vendor and device, the class code, the Device Serial Number, whose capability has its two double words
behind its header; what the standard defines beyond R399 is a free value (log 16, DESIGN CHOICE). -/
def State.configRead (s : State) (off : BitVec 12) : State :=
  if off.toNat / 4 = 0 then s.reply (.value 0x05121F4D)
  else if off.toNat / 4 = 64 + Config.serialAt + 1 then s.reply (.value (BitVec.ofNat 64 (bits deviceSerial 0 32)))
  else if off.toNat / 4 = 64 + Config.serialAt + 2 then s.reply (.value (BitVec.ofNat 64 (bits deviceSerial 32 32)))
  else
    let f := bits s.freeW 0 32
    let v := if off.toNat / 4 = 2 then 0x12000000 + f % 256 else f
    s.takeFree.reply (.value (BitVec.ofNat 64 v))

/-- The messages that waited for a mask bit go out once nothing masks them. -/
def State.unmaskMsix (s : State) : State :=
  if !s.hif.msixEn || s.hif.msixMask then s
  else
    let (go, wait) := s.hif.msixPba.partition fun v => tget false s.hif.vecOpen v.toNat
    go.foldl State.sendMsix { s with hif := { s.hif with msixPba := wait } }

/-- A configuration request of a device that is ready. A write completes without data. -/
def State.config (s : State) (req : CfgReq) : State :=
  match req with
  | .read off => s.configRead off
  | .resizeBar2 n =>
    (if 28 ≤ n.toNat ∧ n.toNat ≤ 36 then { s with hif := { s.hif with bar2Log2 := n.toNat } } else s).reply (.bytes [])
  | .readSize n => (if n.toNat ≤ 5 then { s with hif := { s.hif with readLog2 := 7 + n.toNat } } else s).reply (.bytes [])
  | .msixControl en mask => ({ s with hif := { s.hif with msixEn := en, msixMask := mask } }.reply (.bytes [])).unmaskMsix
  | .msixVector v mask =>
    if s.hif.d3hot then s
    else { s with hif := { s.hif with vecOpen := tput s.hif.vecOpen v.toNat (!mask) } }.unmaskMsix

/-- CONFIG_REQUEST: Request Retry Status before the device is configuration-ready (R443). -/
def execConfigRequest (req : CfgReq) (s : State) : Res :=
  .next (if !s.hostUp then s else if !s.cfgReady then s.reply .retryStatus else s.config req)

/-- D3HOT_ENTER. -/
def execD3hotEnter (s : State) : Res :=
  .next (if s.hostUp then { s with hif := { s.hif with d3hot := true } } else s)

/-- D0_RETURN: what waited goes out. -/
def execD0Return (s : State) : Res :=
  if !s.hif.d3hot then .next s
  else
    let ws := s.hif.held
    let ms := s.hif.msixHeld
    let s := { s with hif := { s.hif with d3hot := false, held := [], msixHeld := [] } }
    let s := { s with out := { s.out with hostWrites := s.out.hostWrites ++ ws, msix := s.out.msix ++ ms } }
    .next ((List.range 64).foldl (fun s i => s.flushHeld (BitVec.ofNat 6 i) (s.sreg (BitVec.ofNat 6 i)).held.length) s)

/-! ### SPDM (R466, R467) -/

/-- The responder's answer outside a full start-up: before step 4 Busy, in FAILED and RECOVERY less (R467). -/
def State.spdmRefusal (s : State) (r : SpdmReq) : Option Reply :=
  let late := if s.boot.phase = .failed ∨ s.boot.phase = .recovery then some (Reply.spdmError "UnexpectedRequest") else none
  if s.boot.phase = .rom then some (.spdmError "Busy")
  else
    match r with
    | .version | .capabilities | .algorithms | .digests | .certificate _ => none
    | .measurement i => if i.toNat ≤ 5 ∨ i = 0xFF then none else late
    | _ => late

/-- Number of a request in Config.responseBody. -/
def spdmCode : SpdmReq → Nat
  | .version => 0x84 | .capabilities => 0xE1 | .algorithms => 0xE3 | .digests => 0x81 | .certificate _ => 0x82
  | .challenge => 0x83 | .measurement _ => 0xE0 | .keyExchange => 0xE4 | .finish => 0xE5 | .heartbeat => 0xE8
  | .keyUpdate => 0xE9 | .endSession => 0xEC | .other => 0

/-- Blocks a request for measurements names: one, or with 0xFF all, with 0 only their number; none for an index without a block
(R467; the two special indices are the standard's, log 16, PRESUMED). -/
def State.measured (s : State) (i : Nat) : Option (List Nat) :=
  if i = 0 then some []
  else if i = 0xFF then some (if s.boot.phase = .failed ∨ s.boot.phase = .recovery then [1, 2, 3, 4, 5] else [1, 2, 3, 4, 5, 6])
  else if i ≤ 6 then some [i]
  else none

/-- An SPDM request is answered (R466, R467). -/
def State.spdm (s : State) (r : SpdmReq) (body : List Byte) : State :=
  let std := Config.responseBody (spdmCode r) body
  let inSession (s' : State) : State := if s.hif.sessions = 0 then s.reply (.spdmError "UnexpectedRequest") else s'.reply (.message 5 std)
  match s.spdmRefusal r with
  | some e => s.reply e
  | none =>
    match r with
    | .certificate slot => s.reply (if slot = 0 then .message 5 (std ++ s.certChain) else .spdmError "InvalidRequest")
    | .digests => s.reply (.message 5 (std ++ sha384 s.certChain))
    | .challenge => s.reply (.message 5 (s.signReply body (std ++ sha384 s.certChain)))
    | .measurement i =>
      s.reply (match s.measured i.toNat with
        | some l => .message 5 (s.signReply body (std ++ l.flatMap s.measureBlock))
        | none => .spdmError "InvalidRequest")
    | .keyExchange =>
      if 4 ≤ s.hif.sessions then s.reply (.spdmError "SessionLimitExceeded")
      else { s with hif := { s.hif with sessions := s.hif.sessions + 1 } }.reply (.message 5 (s.signReply body std))
    | .finish => inSession s
    | .heartbeat => inSession s
    | .keyUpdate => inSession s
    | .endSession => inSession { s with hif := { s.hif with sessions := s.hif.sessions - 1 } }
    | .other => s.reply (.spdmError "UnsupportedRequest")
    | .version | .capabilities | .algorithms => s.reply (.message 5 std)

/-- A management endpoint that answers: over PCI Express with the link up, over SMBus on standby power (R414, R422). -/
def State.mgmtUp (s : State) (smbus : Bool) : Bool := if smbus then s.pins.standby else s.hostUp

/-- SPDM_REQUEST. -/
def execSpdmRequest (req : SpdmReq) (smbus : Bool) (body : List Byte) (s : State) : Res :=
  .next (if s.mgmtUp smbus then s.spdm req body else s)

/-! ### MCTP (R414, R422) -/

/-- The SPDM request a message carries, by its request code (log 16, DESIGN CHOICE). -/
def spdmOf (body : List Byte) : SpdmReq :=
  match (body.getD 1 0).toNat with
  | 0x84 => .version | 0xE1 => .capabilities | 0xE3 => .algorithms | 0x81 => .digests
  | 0x82 => .certificate (BitVec.ofNat 3 ((body.getD 2 0).toNat % 8))
  | 0x83 => .challenge
  | 0xE0 => .measurement (body.getD 3 0)
  | 0xE4 => .keyExchange | 0xE5 => .finish | 0xE8 => .heartbeat | 0xE9 => .keyUpdate | 0xEC => .endSession
  | _ => .other

/-- An MCTP message is served (R414): control messages, Set Endpoint ID among them, SPDM, secured messages; other types get the
control error of the standard. -/
def State.mctp (s : State) (smbus : Bool) (typ eid : Byte) (body : List Byte) : State :=
  let own := if smbus then s.hif.eidSmb else s.hif.eid
  if eid ≠ own ∨ (eid = 0 ∧ typ ≠ 0) then s
  else if typ = 0 then
    let s := if body.getD 1 0 = 1 then
        (let e := body.getD 3 0
         if smbus then { s with hif := { s.hif with eidSmb := e } } else { s with hif := { s.hif with eid := e } })
      else s
    s.reply (.message 0 (Config.responseBody 0 body))
  else if typ = 5 then s.spdm (spdmOf body) body
  else if typ = 6 then s.reply (.message 6 (Config.responseBody 6 body))
  else s.reply (.message 0 (Config.responseBody (0x100 + typ.toNat) body))

/-- MCTP_MESSAGE. -/
def execMctpMessage (typ : Byte) (eid : Byte) (body : List Byte) (s : State) : Res :=
  .next (if s.mgmtUp false then s.mctp false typ eid body else s)

/-- SMBUS_PACKET: a bad PEC discards it. -/
def execSmbusPacket (pecOk : Bool) (typ : Byte) (eid : Byte) (body : List Byte) (s : State) : Res :=
  .next (if s.mgmtUp true && pecOk then s.mctp true typ eid body else s)

/-! ### IDE (R413, R461) -/

/-- IDE stream k. -/
def State.ideOf (s : State) (k : Nat) : Ide := tget ⟨false, false, false⟩ s.hif.ide k
/-- Change IDE stream k. -/
def State.modIde (s : State) (k : Nat) (f : Ide → Ide) : State :=
  { s with hif := { s.hif with ide := tput s.hif.ide k (f (s.ideOf k)) } }

/-- IDE_KM, in a secured session: programming a configured stream, or configuring one, which levee bit 1 locks. -/
def execIdeKm (km : IdeKm) (s : State) : Res :=
  if !s.mgmtUp false || decide (s.hif.sessions = 0) then .next s
  else
    match km with
    | .program k secured =>
      if (s.ideOf k.toNat).enabled || !bit s.sec.levee 1 then
        .next (s.modIde k.toNat fun x => { x with keyed := true, secure := x.secure || (secured && x.enabled) })
      else .next (s.countDev evLeveeWriteDenied)
    | .configure k on =>
      if bit s.sec.levee 1 then .next (s.countDev evLeveeWriteDenied)
      else .next (s.modIde k.toNat fun x => { x with enabled := on, secure := x.secure && on })

/-- IDE_INTEGRITY_FAIL: the stream leaves the Secure state, E_IDE is reported. -/
def execIdeIntegrityFail (stream : BitVec 2) (s : State) : Res :=
  if !(s.ideOf stream.toNat).secure then .next s
  else
    let s := s.modIde stream.toNat fun x => { x with secure := false }
    .next ((s.latchFault ⟨eIde, 4, 0, none, 0, 0⟩).raise 87)

end Sys2Proof.Machine
end

