-- ==== Sys2Proof/Machine/Riffle.lean ====
section
/-! DEFINITION. KAT_DUE, KAT_FORCED, KAT_START, KAT_VERDICT, RIFFLE_RAMP_STEP and RIFFLE_SNAPSHOT (R58, R90-R98, R453-R455). -/

namespace Sys2Proof.Machine

/-! ### Known-answer loads -/

/-- The periods since the last passed known-answer load have come to n (R95). -/
def Riffle.reach (r : Riffle) (n : Nat) : Riffle := { r with periods := max r.periods n }.pass 0

/-- KAT_DUE: 720,000 generator periods have gone by since the last passed known-answer load (R95). -/
def execKatDue (core : CoreId) (s : State) : Res :=
  .next (if s.up then s.modCore core.toNat fun k => { k with rif := k.rif.reach 720000 } else s)

/-- KAT_FORCED: 1,440,000 generator periods have gone by since then (R95). -/
def execKatForced (core : CoreId) (s : State) : Res :=
  .next (if s.up then s.modCore core.toNat fun k => { k with rif := k.rif.reach 1440000 } else s)

/-- The stationary pieces of a pattern, by row x 64 + column (R94). -/
def katPieces (pat : Nat) : Table Cell :=
  (List.range 32).flatMap fun i => (List.range 64).map fun j => (i * 64 + j, Config.katPiece pat i j)

/-- Vector v of array a in a pattern's vector set, by row (R94). -/
def katVec (pat a v : Nat) : List Cell := (List.range 32).map (Config.katVector pat a v)

/-- The sum of a pattern's 32 vectors of array a against the pieces of column j: the check accumulator and the stored answer
(R94). -/
def katSum (pat a j : Nat) : Acc :=
  (List.range 32).foldl (fun x v =>
    x.merge (colSum (Config.katBase pat) ((katVec pat a v).zipIdx.map fun e => (e.1, Config.katPiece pat e.2 j)))) Acc.zero

/-- The check accumulators after a known-answer load, by array x 64 + column. -/
def katChecks (pat : Nat) : Table Acc :=
  (List.range 4).flatMap fun a => (List.range 64).map fun j => (a * 64 + j, katSum pat a j)

/-- The arrays after a known-answer load whose lane started in ic `lane`: its pieces passed nxt into cur, its last vectors stand
in act with the kat tag (R83, R84, R94). -/
def Arrays.runKat (k : Arrays) (pat lane : Nat) : Arrays :=
  let p := katPieces pat
  { k with
    cur := p, nxt := p, nxtV := false, nxtOf := none, ld := p, ldOf := none, tag := .kat
    act := (List.range 4).flatMap fun a => (katVec pat a 31).zipIdx.map fun e => (a * 32 + e.2, e.1)
    psum := (List.range 4).flatMap fun a => (List.range 64).map fun j =>
      (a * 64 + j, colSum (Config.katBase pat) ((katVec pat a 31).zipIdx.map fun e => (e.1, Config.katPiece pat e.2 j)))
    frontF := lane + 32, frontM := 32, laneS := lane }

/-- KAT_START: the riffle unit starts a known-answer load (R94-R96, R455). Its lane starts after the last vector of the load
in progress, once no real piece is in the lanes; its front enters 32 ic later and streams 32 vectors. Those ic are gap ic, with
dummies up to the front (R100). A core with no real work starts none, but for one owed after a fence. It is charged to the
stream whose load preceded the gap, or after an idle period to the one whose load follows (R99, R472). One owed under R455 is
a forced one, as that rule calls it, and counts so (R100; log 54, DEDUCED). -/
def execKatStart (at_ : KatAt) (s : State) : Res :=
  let c := at_.core.toNat
  let k := s.core c
  let forced := decide (k.rif.kat = .forced) || k.mustKat || k.katGate
  let wanted := forced || decide (k.rif.kat = .due)
  if !s.up || decide (k.rif.kat = .running) || !wanted || k.arr.nxtV || (!k.katGate && (s.workTile c).isNone) then .next s
  else
    let who := match s.workTile c with | some e => s.miStrm e.2 | none => none
    let seen := k.arr.gapSeen
    let owner := if k.arr.realM = 0 || decide (bits (s.cluster (c / 16)).riffleCfg 16 16 + 3600 ≤ seen) then who else k.arr.lastStrm
    let s := s.countGap c (at_.wait + 64) (s.dummyIc c seen (seen + at_.wait + 32)) who
    let s := s.modCore c fun x => { x with
      mustKat := false
      arr := { x.arr.runKat k.rif.pattern.toNat (k.arr.frontF + k.arr.frontM + at_.wait) with gapSeen := seen + at_.wait + 64 }
      rif := { (x.rif.pass (at_.wait + 64)).charge owner 32 with kat := .running, check := katChecks k.rif.pattern.toNat } }
    let s := s.count evRiffleKat (.core c) owner 1
    .next (s.count evRiffleKatForced (.core c) owner (b2n forced))

/-! ### Verdicts and core faults -/

/-- The macro-instructions that have tiles on core c. -/
def State.inFlight (s : State) (c : Nat) : List MI :=
  s.mis.filter fun m => (s.core c).tiles.any fun t => t.of m

/-- The streams, each with its device, whose dispatched blocks core c runs or holds (R14, R97). -/
def State.blocksIn (s : State) (c : Nat) : List (BitVec 16 × StreamId) :=
  (s.ctxs.filter fun e => decide (e.1 / 8 = c) && e.2.used && !e.2.blocks.isEmpty).map fun e => (e.2.dev, e.2.strm)

/-- A fault of core c: every instruction in flight on it faults, macro-instruction or dispatched block, and the tiles it holds
write nothing (R14, R97, R454). -/
def State.coreFault (s : State) (c : Nat) (code : Code) (arg0 arg1 : W64) : State :=
  let ms := s.inFlight c
  let n := s.nextRecord
  let who := firstOnly [] (ms.map (fun m => (m.home, m.strm)) ++ s.blocksIn c)
  let own := who.filter fun e => decide (e.1.toNat = s.own)
  let s := s.latchFault ⟨code, 0, BitVec.ofNat 16 c, own.head?.map Prod.snd, arg0, arg1⟩
  let s := ms.foldl (fun s m =>
    let s := s.releaseMi m
    s.modMi m.home.toNat m.strm m.ticket fun x => { x with faulted := true, stopped := true }) s
  let s := own.foldl (fun s e => s.streamFault e.2 code arg0 n) s
  let s := (who.filter fun e => decide (e.1.toNat ≠ s.own)).foldl (fun s e =>
    { s with ctxs := s.ctxs.map fun (x : Nat × Ctx) => (x.1, stopCtx e.1 e.2 x.2) }.send
      (.notice e.1.toNat (.fault e.2 code arg0 (BitVec.ofNat 32 n)))) s
  (s.core c).tiles.foldl (fun s t =>
    match s.tileMi t with
    | some m => (s.mates m t).foldl (fun s e => s.dropTile e.1 e.2) s
    | none => s.dropTile c t) s

/-- A check accumulator as a physical failure leaves it. -/
def Acc.upset (x : Acc) (u : KatUpset) : Acc :=
  ⟨x.a ^^^ u.a, x.nan != bit u.flags 0, x.pinf != bit u.flags 1, x.ninf != bit u.flags 2, x.res ^^^ u.res⟩

/-- The check accumulators after the failures of a known-answer load. -/
def upsetChecks (l : Table Acc) (us : List KatUpset) : Table Acc :=
  us.foldl (fun l u =>
    let i := u.array.toNat * 64 + u.col.toNat
    tput l i ((tget Acc.zero l i).upset u)) l

/-- The arrays, as bits, of which a check accumulator differs from the stored answer of its pattern (R94, R97). -/
def katFailing (pat : Nat) (l : Table Acc) : BitVec 4 :=
  BitVec.ofNat 4 (((List.range 4).map fun a =>
    2 ^ a * b2n ((List.range 64).any fun j => decide (tget Acc.zero l (a * 64 + j) ≠ katSum pat a j))).sum)

/-- Lowest failing array of a verdict: the one E_RIFFLE_KAT names where several fail (log 54, DESIGN CHOICE). -/
def lowestBit (x : BitVec 4) : Nat := ((List.range 4).find? fun a => bit x a).getD 0

/-- The verdict moves the riffle on: the next pattern, and after a pass a new count of periods (R94, R95). -/
def Riffle.verdict (r : Riffle) (pass : Bool) (now : W64) : Riffle :=
  { r with
    kat := .idle, pattern := r.pattern + 1, periods := if pass then 0 else r.periods
    katLast := if pass then now else r.katLast }.pass 0

/-- KAT_VERDICT: every check accumulator is compared with the stored answer (R94, R97), its residue with A (R58), and the
vector slot that started with the load has its verdict (R453). A pass counts in kat_seq and lets held tiles go on; a failure
fences the core (R454). A residue that disagrees is reported after the failing array (log 54, DESIGN CHOICE). -/
def execKatVerdict (core : CoreId) (upsets : List KatUpset) (vecFail : Bool) (s : State) : Res :=
  let c := core.toNat
  let k := s.core c
  if !s.up || decide (k.rif.kat ≠ .running) then .next s
  else
    let checks := upsetChecks k.rif.check upsets
    let failing := katFailing k.rif.pattern.toNat checks
    let s1 := s.modCore c fun k => { k with
      rif := { k.rif.verdict (decide (failing = 0)) s.time with check := checks }, katFail := k.katFail ||| failing
      katSeq := if failing = 0 then k.katSeq + 1 else k.katSeq
      katGate := k.katGate && (decide (failing ≠ 0) || vecFail)
      tiles := if failing = 0 then k.tiles.map fun t => { t with katOwed := false } else k.tiles }
    let s1 := if failing = 0 then s1
      else s1.coreFault c eRiffleKat (nameW 9 (lowestBit failing * 256 + k.rif.pattern.toNat)) k.rif.katLast
    let s1 := if checks.any fun e => !e.2.ok then s1.coreFault c eResidue 0 0 else s1
    .next (if vecFail then s1.coreFault c eVecKat 0 0 else s1)

/-! ### Gaps and snapshots -/

/-- The arrays of a core in a gap ic: the dummy vector of this density stands in act with the dummy tag (R90). -/
def Arrays.dummies (k : Arrays) (r : Riffle) (density : Nat) : Arrays :=
  { k with
    tag := .dummy, psum := []
    act := (List.range 4).flatMap fun a => (List.range 32).map fun i =>
      (a * 32 + i, Config.dummyCell (tget 0 r.lfsr a) density i) }

/-- RIFFLE_RAMP_STEP: a gap has come 450 ic further beyond idle_limit and the density of dummies falls one of eight equal steps
(R91). Nothing happens with dummies off or while a known-answer load runs. -/
def execRiffleRampStep (core : CoreId) (s : State) : Res :=
  let c := core.toNat
  let k := s.core c
  let cfg := (s.cluster (c / 16)).riffleCfg
  let n := k.rif.rampStep.toNat + 1
  if !s.up || !bit cfg 0 || decide (k.rif.kat = .running) || decide (8 < n) then .next s
  else
    let hi := bits cfg 16 16 + 450 * n
    let s := s.countGap c (hi - k.arr.gapSeen) (s.dummyIc c k.arr.gapSeen hi) none
    .next (s.modCore c fun k => { k with
      rif := { k.rif.pass (hi - k.arr.gapSeen) with rampStep := BitVec.ofNat 4 n }
      arr := { k.arr.dummies k.rif (k.rif.target cfg * (8 - n) / 8) with gapSeen := max k.arr.gapSeen hi } })

/-- The snapshot of one core (R98): reported where loads completed since the last snapshot while kat_seq has stood still for
more than 1.5 ms. -/
def State.snapCore (s : State) (c : Nat) : State :=
  let k := s.core c
  let moved := decide (k.katSeq ≠ k.rif.snapKat)
  let late := !moved && decide (k.passSeq ≠ k.rif.snapPass) && decide (1500000 < s.time.toNat - k.rif.snapAt.toNat)
  let s := s.modCore c fun k => { k with rif := { k.rif with
    snapKat := k.katSeq, snapPass := k.passSeq, snapAt := if moved then s.time else k.rif.snapAt } }
  if late then s.coreFault c eRiffleLate 0 0 else s

/-- RIFFLE_SNAPSHOT: the cobbler looks at kat_seq and pass_seq of every core (R98). -/
def execRiffleSnapshot (s : State) : Res :=
  .next (if s.up then (s.cores.map Prod.fst).foldl (fun s c => s.snapCore c) s else s)

end Sys2Proof.Machine
end

