-- ==== Sys2Proof/Machine/Ports.lean ====
section
/-! DEFINITION. Fabric ports: training, flits and their retry, going down, cables, and the fabric's register commands (R348-R354,
R358, R360, R372, R379, R424, log 19, DESIGN CHOICE, log 46, DEDUCED). -/

namespace Sys2Proof.Machine

/-! ### Going down (R353) -/

/-- A packet that no port of its route entry can carry: its requester is answered as for an unreachable destination. -/
def State.strand (s : State) (pkt : Packet) : State :=
  let req := decide (pkt.typ.toNat < 0x10)
  if pkt.src.toNat = s.own then
    (if req then
      (match tget none s.fab.reqs pkt.tag.toNat with
       | some r => (s.dropTag pkt.tag.toNat).failReq r eFabUnreach
       | none => s)
     else if pkt.typ = 0x20 then s else s.badPkt)
  else if req then s.answerErr pkt 1
  else if pkt.typ = 0x20 then s
  else s.badPkt

/-- Send a packet again over another port of its route entry. -/
def State.reroute (s : State) (pkt : Packet) : State :=
  match s.routePort pkt with
  | some q => s.sendOn q pkt
  | none => s.strand pkt

/-- A port goes down: E_LINK_DOWN is reported, it retrains if it may, and its packets go elsewhere; an atomic in an
unacknowledged flit is not sent again (R353). A live neighbour is suspected (R375). -/
def State.portDown (s : State) (p : Nat) : State :=
  let x := s.port p
  let was := x.up || (decide (x.link = .training) && decide (x.txNext ≠ 0 ∨ x.rxNext ≠ 0))
  let sent := (x.replay.flatMap Prod.snd).filter fun k => decide (k.typ ≠ 0x05)
  let link := if s.mayTrain p && x.up then Link.training else Link.down
  let s := s.modPort p fun x => { x with
    link := link, downs := if was then satInc x.downs else x.downs, replay := [], queue := [], used := [], rxSlots := [],
    resends := 0, unacked := 0, txNext := 0, rxNext := 0, nbrValid := false, nbrHw := none }
  let s := if was then
      ((s.count evFabLinkDown (.port p) none 1).latchFault
        ⟨eLinkDown, 3, BitVec.ofNat 16 p, none, nameW 11 p, 0⟩).raise 84
    else s
  let s := (sent ++ x.queue).foldl (fun s k => s.reroute k) s
  if was && x.nbrValid && !x.foreign then s.raiseSuspect x.nbr.toNat else s

/-- PORT_DOWN: a port that is up goes down. -/
def execPortDown (port : PortId) (s : State) : Res :=
  .next (if (s.port port.toNat).up then (s.portDown port.toNat).joinCheck.settle else s)

/-! ### Training (R349) -/

/-- PORT_TRAIN: an enabled port whose cable is mated trains. -/
def execPortTrain (port : PortId) (s : State) : Res :=
  let p := port.toNat
  .next (if s.mayTrain p && decide ((s.port p).link = .down) then s.modPort p fun x => { x with link := .training } else s)

/-- The link that healthy lanes give: all four, or the pair 0-1 or 2-3. -/
def linkOf (healthy : BitVec 4) : Link :=
  if healthy = 15 then .up4
  else if bits healthy 0 2 = 3 ∨ bits healthy 2 2 = 3 then .up2
  else .down

/-- PORT_UP: training ends with the lanes found healthy; a port that comes up says HELLO unless the device is out, and sends
what waits. With no pair healthy it stays down. -/
def execPortUp (port : PortId) (healthy : BitVec 4) (s : State) : Res :=
  let p := port.toNat
  if (s.port p).link ≠ .training then .next s
  else if linkOf healthy = .down || !s.mayTrain p then .next (s.portDown p).joinCheck.settle
  else
    let s := s.modPort p fun x => { x with link := linkOf healthy, foreign := false, splitTold := false }
    let s := if s.fab.mstate = .out then s else s.send (.hello p (s.helloInfo false))
    .next ((s.pump p (s.port p).queue.length).joinCheck)

/-- LANE_FAIL: a port that is up goes on with its healthy pair, or goes down (R349). -/
def execLaneFail (port : PortId) (healthy : BitVec 4) (s : State) : Res :=
  let p := port.toNat
  if !(s.port p).up || linkOf healthy = .up4 then .next s
  else if linkOf healthy = .down then .next (s.portDown p).joinCheck.settle
  else .next (s.modPort p fun x => { x with link := .up2 })

/-- FAB_PORT_RETRAIN: the port retrains; its sequence numbers and replay buffer stay. -/
def execFabPortRetrain (port : PortId) (s : State) : Res :=
  let p := port.toNat
  .next (if s.mayTrain p then s.modPort p fun x => { x with link := .training } else s)

/-! ### Flits (R350-R352) -/

/-- One bit step of the CRC, most significant bit first. -/
def crcStep (c : Nat) : Nat :=
  if c / 2 ^ 63 % 2 = 1 then (2 * c % 2 ^ 64) ^^^ 0x42F0E1EBA9EA3693 else 2 * c % 2 ^ 64

/-- Feed one byte. -/
def crcByte (c b : Nat) : Nat :=
  let c := c ^^^ (b * 2 ^ 56)
  crcStep (crcStep (crcStep (crcStep (crcStep (crcStep (crcStep (crcStep c)))))))

/-- CRC-64 of some bytes (R351). -/
def crc64 (bs : List Nat) : Nat := (bs.foldl crcByte (2 ^ 64 - 1)) ^^^ (2 ^ 64 - 1)

/-- The bytes of a flit that its CRC covers. -/
def flitBody (f : FlitBits) : List Nat := (List.range 248).map fun i => bits f (8 * i) 8

/-- A flit's CRC holds and its type is of R350. -/
def flitOk (f : FlitBits) : Bool :=
  decide (crc64 (flitBody f) = bits f 1984 64) && decide (1 ≤ bits f 12 4) && decide (bits f 12 4 ≤ 3)

/-- The 15 slots of a flit. -/
def flitSlots (f : FlitBits) : List (BitVec 128) := (List.range 15).map fun k => BitVec.ofNat 128 (bits f (64 + 128 * k) 128)

/-- Bytes of some slots. -/
def slotBytes (l : List (BitVec 128)) : List Byte := l.flatMap fun x => leBytes 16 x.toNat

/-- Packets out of slots, with the slots of one not yet whole (R355). A slot of zeros carries no packet; a header whose len is
above 32 is no packet of R355 and becomes one of an unknown type. -/
def parseSlots : Nat → List (BitVec 128) → List Packet × List (BitVec 128)
  | 0, l => ([], l)
  | _ + 1, [] => ([], [])
  | n + 1, h :: t =>
    let typ : BitVec 8 := BitVec.ofNat 8 (bits h 0 8)
    let len := bits h 56 8
    if h = 0 then parseSlots n t
    else
      let m := b2n (decide (typ = 0x04))
      let k := m + ceilDiv (4 * len) 16
      let head (pay : List Byte) (mask : BitVec 128) : Packet :=
        ⟨if 32 < len then 0xFF else typ, BitVec.ofNat 16 (bits h 8 16), BitVec.ofNat 16 (bits h 24 16),
         BitVec.ofNat 13 (bits h 40 13), BitVec.ofNat 48 (bits h 64 48), BitVec.ofNat 8 (bits h 112 8),
         BitVec.ofNat 8 (bits h 120 8), mask, pay⟩
      if 32 < len then
        let (ps, r) := parseSlots n t
        (head [] 0 :: ps, r)
      else if t.length < k then ([], h :: t)
      else
        let (ps, r) := parseSlots n (t.drop k)
        (head ((slotBytes ((t.drop m).take (k - m))).take (4 * len)) (if m = 1 then t.headD 0 else 0) :: ps, r)

/-- An ack covers replayed flits up to its sequence number (R352). -/
def State.ackReplay (s : State) (p : Nat) (ack : BitVec 12) : State :=
  s.modPort p fun x =>
    match x.replay.findIdx? fun e => decide (e.1 = ack) with
    | some i => { x with replay := x.replay.drop (i + 1), resends := 0 }
    | none => x

/-- Resend every flit after the acknowledged one, in order; a port whose oldest flit has been resent 16 times goes down (R352, R353). -/
def State.replayFrom (s : State) (p : Nat) (ack : BitVec 12) : State :=
  let s := s.ackReplay p ack
  let x := s.port p
  if x.replay.isEmpty then s
  else
    let s := ((s.modPort p fun x => { x with resends := x.resends + 1 }).count evFabTxFlits (.port p) none x.replay.length).send
      (.resend p (x.replay.map Prod.fst))
    if 16 ≤ x.resends + 1 then s.portDown p else s

/-- Send an ack of the highest sequence number received in order. -/
def State.sendAck (s : State) (p : Nat) : State :=
  (s.modPort p fun x => { x with unacked := 0 }).send (.ackFlit p ((s.port p).rxNext - 1))

/-- A data flit in order: its packets are taken and their slots given back as credits (R352, R354). -/
def State.acceptFlit (s : State) (p : Nat) (f : FlitBits) : State :=
  let x := s.port p
  let slots := x.rxSlots ++ flitSlots f
  let (ps, r) := parseSlots slots.length slots
  let s := s.modPort p fun x => { x with rxNext := x.rxNext + 1, unacked := x.unacked + 1, rxSlots := r }
  let s := s.count evFabRxFlits (.port p) none 1
  let s := (List.range 3).foldl (fun s vc =>
    let n := ((ps.filter fun k => decide (vcOf k.typ = vc)).map pktSlots).sum
    if n = 0 then s else s.send (.credits p vc n)) s
  let s := if x.foreign then s else ps.foldl (fun s k => s.deliver k) s
  if 32 ≤ (s.port p).unacked then s.sendAck p else s

/-- Credits that a flit returns (R350, R354). -/
def State.takeCredits (s : State) (p : Nat) (f : FlitBits) : State :=
  s.modPort p fun x => { x with used := tmod 0 x.used (bits f 42 2) fun n => n - bits f 32 10 }

/-- FLIT_RECEIVE, with the FEC codewords corrected (none where one is uncorrectable): a flit that fails its checks is discarded and a nak sent; else its ack, nak and credits are taken, and a data
flit is accepted if it is next in sequence (R350-R352). -/
def execFlitReceive (port : PortId) (fec : Option Nat) (flit : FlitBits) (s : State) : Res :=
  let p := port.toNat
  if !(s.port p).up || !s.up then .next s
  else
  let s := s.count evFabFecCorr (.port p) none (fec.getD 0)
  if fec.isNone || !flitOk flit then
    let s := s.modPort p fun x => { x with retries := satInc x.retries }
    .next ((s.count evFabCrcRetry (.port p) none 1).send (.nak p ((s.port p).rxNext - 1)))
  else
    let ack : BitVec 12 := BitVec.ofNat 12 (bits flit 16 12)
    let s := if bit flit 28 then s.replayFrom p ack else s.ackReplay p ack
    if !(s.port p).up then .next s
    else
      let s := s.takeCredits p flit
      let s := if decide (bits flit 12 4 = 1) && decide (bits flit 0 12 = (s.port p).rxNext.toNat) then s.acceptFlit p flit else s
      .next (s.pump p (s.port p).queue.length)

/-- FLIT_REPLAY: a nak makes the port resend from the flit after the one acknowledged. -/
def execFlitReplay (port : PortId) (ack : BitVec 12) (s : State) : Res :=
  .next (if (s.port port.toNat).up then s.replayFrom port.toNat ack else s)

/-- ACK_TIMER: 200 ns after the first data flit not acknowledged, an ack is sent. -/
def execAckTimer (port : PortId) (s : State) : Res :=
  .next (if (s.port port.toNat).up && decide (0 < (s.port port.toNat).unacked) then s.sendAck port.toNat else s)

/-- The credits of VC0 or VC1 of a port are exhausted: a packet of that channel waits for them, or none is left. -/
def Port.exhausted (x : Port) : Bool :=
  let lacks (vc : Nat) : Bool :=
    decide (vcSlots vc ≤ tget 0 x.used vc) ||
    (match x.queue with
     | k :: _ => decide (vcOf k.typ = vc) && decide (vcSlots vc < tget 0 x.used vc + pktSlots k)
     | [] => false)
  lacks 0 || lacks 1

/-- FAB_STALL: credits exhausted for 10 ms are reported (R354). -/
def execFabStall (port : PortId) (s : State) : Res :=
  let p := port.toNat
  .next (if (s.port p).up && (s.port p).exhausted then
    s.latchFault ⟨eFabStall, 3, BitVec.ofNat 16 p, none, nameW 11 p, 0⟩ else s)

/-! ### Cables (R424) -/

/-- Ports of a connector. -/
def connPorts (c : Nat) : List Nat := (List.range 8).map fun j => 8 * c + j

/-- CBL_PRSNT_CHANGE: the pin rises and a port that is up goes down, or it falls and an enabled port trains. -/
def execCblPrsntChange (port : PortId) (level : Bool) (s : State) : Res :=
  let p := port.toNat
  let c := p / 8
  let prsnt := setBits s.pins.prsnt p 1 (b2n !level)
  let off := if bits prsnt (8 * c) 8 = 0 then setBits s.pins.cblOff c 1 0 else s.pins.cblOff
  let s := { s with pins := { s.pins with prsnt := prsnt, cblOff := off } }
  if level then .next (if (s.port p).link = .down then s else (s.portDown p).joinCheck.settle)
  else .next (if s.mayTrain p && decide ((s.port p).link = .down) then s.modPort p fun x => { x with link := .training } else s)

/-- CBL_OVERLOAD: the connector's 3V3_CBL turns off and its ports go down. -/
def execCblOverload (conn : BitVec 2) (s : State) : Res :=
  let s := { s with pins := { s.pins with cblOff := setBits s.pins.cblOff conn.toNat 1 1 } }
  .next ((connPorts conn.toNat).foldl (fun s p => if (s.port p).link = .down then s else s.portDown p) s).joinCheck.settle

/-! ### Registers of the fabric -/

/-- FAB_RT_READ: the entry goes to FAB_RT_DATA. -/
def execFabRtRead (index : BitVec 16) (s : State) : Res :=
  .next (if s.boot.phase = .running then
    { s with fab := { s.fab with
        rtIndex := index, rtData := tget 0 s.fab.routes index.toNat, rtDone := true, rtErr := 0 } } else s)

/-- FAB_RT_WRITE: the entry takes FAB_RT_DATA, unless a reserved bit is set there. -/
def execFabRtWrite (index : BitVec 16) (s : State) : Res :=
  .next (if s.boot.phase = .running then
    (if bits s.fab.rtData 33 31 ≠ 0 then { s with fab := { s.fab with rtIndex := index, rtDone := true, rtErr := eOperand } }
     else { s with fab := { s.fab with
        rtIndex := index, rtDone := true, rtErr := 0, routes := tput s.fab.routes index.toNat s.fab.rtData } }) else s)

/-- FAB_RT_OP_REFUSED: op 0b11 (R483). -/
def execFabRtOpRefused (index : BitVec 16) (s : State) : Res :=
  .next (if s.boot.phase = .running then
    { s with fab := { s.fab with rtIndex := index, rtDone := true, rtErr := eHandle } } else s)

/-- A device number changed from o to n, in a leaf list. -/
def renameLeaves (o n : Nat) (ls : List (Nat × Nat)) : List (Nat × Nat) := ls.map fun l => if l.1 = o then (n, l.2) else l

/-- This device takes number n: its own streams, contexts and work bear it (R372). -/
def State.renumber (s : State) (n : Nat) : State :=
  let o := s.own
  let ren (d : BitVec 16) : BitVec 16 := if d.toNat = o then BitVec.ofNat 16 n else d
  { s with
    fab := { s.fab with cfg := setBits s.fab.cfg 0 16 n }
    ctxs := s.ctxs.map fun (e : Nat × Ctx) => (e.1, { e.2 with dev := ren e.2.dev })
    streams := s.streams.map fun (e : Nat × Stream) => (e.1, { e.2 with
      leaves := renameLeaves o n e.2.leaves,
      disps := e.2.disps.map fun (d : Disp) => { d with leaves := renameLeaves o n d.leaves } })
    mis := s.mis.map fun (m : MI) => { m with home := ren m.home, leaves := renameLeaves o n m.leaves }
    cores := s.cores.map fun (e : Nat × Core) =>
      (e.1, { e.2 with tiles := e.2.tiles.map fun (t : Tile) => { t with home := ren t.home } }) }

/-- FAB_CFG_WRITE: another device number while mstate is not out is refused with E_BUSY and counted (R372). -/
def execFabCfgWrite (v : W64) (s : State) : Res :=
  if s.boot.phase ≠ .running then .next s
  else if decide (s.fab.mstate ≠ .out) && decide (bits v 0 16 ≠ s.own) then .next s.regRefused
  else
    let s := s.renumber (bits v 0 16)
    .next { s with fab := { s.fab with cfg := BitVec.ofNat 64 (bits v 0 45) } }

/-- A write to STRM_JOB or STRM_PACE, refused while the stream is not EMPTY (R379, R395). -/
def State.writeJob (s : State) (i : StreamId) (pace : Bool) (v : W64) : State :=
  if (s.strm i).state ≠ .empty then s.regRefused
  else if pace then s.modSreg i fun r => { r with paceMatch := bit v 0 }
  else s.modSreg i fun r => { r with job := BitVec.ofNat 64 (bits v 0 33) }

/-- STRM_JOB_WRITE. -/
def execStrmJobWrite (strm : StreamId) (pace : Bool) (v : W64) (s : State) : Res :=
  .next (if s.boot.phase = .running then s.writeJob strm pace v else s)

end Sys2Proof.Machine
end

