-- ==== Sys2Proof/Machine/Weir.lean ====
section
/-! DEFINITION. The weir: sensors, the bubble law, the excursion account, thermal trip, droop, reasons, energy records, lag and
pacing (R381-R397, log 47, DEDUCED). -/

namespace Sys2Proof.Machine

/-! ### Sensors (R381, R382) -/

/-- Class of sensor x: limit in °C, reason code of its term (R381, R390). -/
def sensorClass (x : Nat) : Nat × Nat :=
  if x < 544 then (105, 1) else if x < 576 then (105, 2) else if x < 640 then (105, 3) else (95, 4)

/-- Cross-check neighbours of sensor x. -/
def sensorNbrs (x : Nat) : List Nat :=
  let others (lo n : Nat) : List Nat := ((List.range n).map fun i => lo + i).filter fun y => decide (y ≠ x)
  if x < 544 then others (17 * (x / 17)) 17
  else if x < 576 then others (17 * (x - 544)) 17
  else if x < 586 then others 576 10
  else if x < 618 then others (586 + 8 * ((x - 586) / 8)) 8
  else if x = 618 then [619]
  else if x = 619 then [618]
  else if x < 640 then (if 620 < x then [x - 1] else []) ++ (if x < 639 then [x + 1] else [])
  else (if 704 ≤ x then [x - 64] else []) ++ (if x < 960 then [x + 64] else [])

/-- Last reading of sensor x in quarters of a degree. -/
def Sensor.read (x : Sensor) : Int := signed 12 x.temp.toNat

/-- Twice the median of some readings. -/
def median2 (l : List Int) : Int :=
  let t := l.mergeSort (fun a b => decide (a ≤ b))
  let n := t.length
  if n % 2 = 1 then 2 * t.getD (n / 2) 0 else t.getD (n / 2 - 1) 0 + t.getD (n / 2) 0

/-- The reading the weir uses for sensor x: of a failed one 5 °C above the hottest healthy neighbour. -/
def State.tempOf (s : State) (x : Nat) : Int :=
  if (s.sensor x).failed then
    match ((sensorNbrs x).filter fun y => !(s.sensor y).failed).map fun y => (s.sensor y).read with
    | [] => (s.sensor x).read
    | t :: ts => ts.foldl max t + 20
  else (s.sensor x).read

/-- Target of sensor x in quarters of a degree. -/
def State.targetOf (s : State) (x : Nat) : Int :=
  let m := if x < 640 then bits s.weir.cfg 8 5 else bits s.weir.cfg 16 5
  4 * ((sensorClass x).1 : Int) - 4 * (m : Int)

/-- Quotient rounded up, at least 0. -/
def ceilPos (num den : Int) : Nat := (-((-num) / den)).toNat

/-- The term of sensor x before the limit of 56. -/
def State.tempTerm (s : State) (x : Nat) : Nat := ceilPos ((bits s.weir.cfg 0 6 : Int) * (s.tempOf x - s.targetOf x)) 4

/-- Readings arrive: each is kept, and one far from its neighbours' median for three periods is marked failed (R382). -/
def State.readSensors (s : State) (temps : List (Nat × Int)) : State :=
  let s := temps.foldl (fun s e =>
    if e.1 < 1024 then s.modSensor e.1 fun x => { x with temp := BitVec.ofNat 12 (wrapNat 12 e.2) } else s) s
  let base := s
  (List.range 1024).foldl (fun s x =>
    let c := base.sensor x
    let d := 2 * c.read - median2 ((sensorNbrs x).map fun y => (base.sensor y).read)
    let off := if 120 < d ∨ d < -120 then c.off + 1 else 0
    let fails := decide (3 ≤ off) && !c.failed
    let s := if off = c.off && !fails then s else s.modSensor x fun c => { c with off := off, failed := c.failed || fails }
    if fails then (s.latchFault ⟨eSensor, 7, BitVec.ofNat 16 x, none, nameW 11 x, 0⟩).raise 83 else s) s

/-- Mark which sensors stand above their targets, and count the periods a healthy one stands 5 °C over its limit. -/
def State.markSensors (s : State) : State :=
  (List.range 1024).foldl (fun s x =>
    let c := s.sensor x
    let above := decide (s.targetOf x < s.tempOf x)
    let hot := if !c.failed && decide (4 * ((sensorClass x).1 : Int) + 20 ≤ c.read) then c.hot + 1 else 0
    if above = c.above && decide (hot = c.hot) then s else s.modSensor x fun c => { c with above := above, hot := hot }) s

/-! ### Terms and islands (R381, R383) -/

/-- Sensors that govern island i (indexed as R469). -/
def governors (i : Nat) : List Nat :=
  let stack (c : Nat) : List Nat := (List.range 6).flatMap fun t => [640 + 64 * t + 2 * c, 640 + 64 * t + 2 * c + 1]
  if i < 544 then
    let c := i / 17
    [i, 619] ++ ((List.range 20).filter fun e => decide (8 * e / 5 ≤ c) && decide (c < 8 * (e + 1) / 5)).map (fun e => 620 + e) ++
      stack c
  else if i < 576 then [i, 619] ++ stack (i - 544)
  else if i < 619 then [i, 619]
  else []

/-- The island of a spare core, which takes part in nothing (R39). -/
def State.spareIsland (s : State) (i : Nat) : Bool :=
  decide (i < 544) && decide (bits (s.cluster (i / 17)).coreSpare 0 5 = i % 17)

/-- The largest term of some, with its reason; the lowest reason wins a tie (R390). -/
def topTerm (l : List (Nat × Nat)) : Nat × Nat :=
  l.foldl (fun b e => if b.1 < e.1 ∨ (b.1 = e.1 ∧ e.2 < b.2) then e else b) (0, 0)

/-- Temperature terms of every island; only those above 0 are listed. -/
def State.tempTerms (s : State) : Table (Nat × BitVec 4) :=
  (List.range 619).filterMap fun i =>
    if s.spareIsland i then none
    else
      let b := topTerm ((governors i).map fun x => (s.tempTerm x, (sensorClass x).2))
      if b.1 = 0 then none else some (i, b.1, BitVec.ofNat 4 b.2)

/-- The pacing floor of core c: the largest of its jobs (R395). -/
def State.paceTerm (s : State) (c : Nat) : Nat :=
  ((List.range 8).map fun k =>
    let x := s.ctx (ctxOf c k)
    if x.used && decide (x.job ≠ 0) then (s.job x.job.toNat).floor.toNat else 0).foldl max 0

/-- Terms of island i with their reasons; `pace` takes the pacing term in. -/
def State.termsOf (s : State) (i : Nat) (pace : Bool) : List (Nat × Nat) :=
  let t := tget (0, 0) s.weir.fracT i
  [(t.1, t.2.toNat)] ++
  (if i < 544 then [(s.weir.fracP, 5), (s.weir.fracI, 6)] else [])
    ++ (if i < 544 && pace then
      let p := i % 17
      let sp := bits (s.cluster (i / 17)).coreSpare 0 5
      [(s.paceTerm (16 * (i / 17) + (if p < sp then p else p - 1)), 7)] else [])

/-- The fraction k of island i with the code it is charged to (R383, R388, R390, R454). -/
def State.islandK (s : State) (i : Nat) (pace : Bool) : Nat × Nat :=
  if s.spareIsland i then (0, 0)
  else if s.flt.hold then (56, 10)
  else if s.weir.tripping then (56, 9)
  else
    let b := topTerm (s.termsOf i pace)
    (min 56 b.1, if b.1 = 0 then 0 else b.2)

/-- The island of logical core c. -/
def State.coreK (s : State) (c : Nat) (pace : Bool) : Nat × Nat := s.islandK (s.coreIsland c) pace

/-! ### Power and current (R383, R385) -/

/-- The excursion account after a period of 10 µs (R385). -/
def excursion (w : Weir) (watts watts100 : Nat) : Nat × Bool :=
  let cap := bits w.cap 0 12
  let off := !bit w.cap 12
  let stuck := off || decide (cap < watts100) || (w.excStuck && decide (98 * cap ≤ 100 * watts100))
  if stuck then (0, true)
  else (if cap < watts then w.exc - 10000 else min 2000000 (w.exc + 1000), false)

/-- A term ceil(64 gain (D - cap) / (D - S)) with D = S + (P - S) / (1 - mean), gain in 1/16, everything in one unit; 0 while P
is not above S (log 47, DEDUCED). -/
def lawTerm (gain p s_ cap meanK : Nat) : Nat :=
  if p ≤ s_ then 0
  else
    let d : Int := 32768 - meanK
    let num : Int := (s_ : Int) * d + ((p : Int) - s_) * 32768 - (cap : Int) * d
    let den : Int := ((p : Int) - s_) * 32768
    ceilPos (4 * (gain : Int) * num) den

/-- Effective power cap in 1/100 W (R385); `volts` in 10 mV. -/
def capEff (w : Weir) (volts : Nat) : Nat :=
  if 0 < w.exc then min 420000 (88 * volts) else min (100 * bits w.cap 0 12) (67 * volts)

/-- Effective current cap in 10 mA. -/
def ampEff (w : Weir) : Nat := if 0 < w.exc then 8800 else 6700

/-- Sum of k over the enabled core islands. -/
def State.sumK (s : State) : Nat := ((List.range 512).map fun c => (s.coreK c true).1).sum

/-! ### Thermal trip (R388) -/

/-- A healthy sensor 5 °C over its limit for three periods trips; 10 °C over removes core power; 10 ms below every target ends
the trip. -/
def State.thermal (s : State) : State :=
  let xs := List.range 1024
  let s := if xs.any (fun x => decide (3 ≤ (s.sensor x).hot)) && !s.weir.tripping then
      let s := s.latchFault ⟨eThermalTrip, 5, 0, none, 0, 0⟩
      ({ s with weir := { s.weir with trip := true, tripping := true, coolNs := 0 } }).raise 83
    else s
  let s := if s.weir.tripping then
      (if xs.all fun x => decide (s.tempOf x < s.targetOf x) then
        (if 10000000 ≤ s.weir.coolNs + 10000 then { s with weir := { s.weir with tripping := false, coolNs := 0 } }
         else { s with weir := { s.weir with coolNs := s.weir.coolNs + 10000 } })
       else { s with weir := { s.weir with coolNs := 0 } })
    else s
  if xs.any fun x => !(s.sensor x).failed && decide (4 * ((sensorClass x).1 : Int) + 40 ≤ (s.sensor x).read) then
    { s with pins := { s.pins with corePower := false, thermTrip := true } }
  else s

/-! ### Reasons -/

/-- Charge 10 µs to a reason (R390). -/
def State.charge (s : State) (r : Nat) : State :=
  { s with weir := { s.weir with reasonNs := tmod 0 s.weir.reasonNs r (· + 10000) } }

/-- Charge the period to the reasons that set a fraction, and to DROOP if an island stretched. -/
def State.chargePeriod (s : State) : State :=
  let ks := (List.range 619).map fun i => s.islandK i true
  let rs := (List.range 11).filter fun r => decide (0 < r) && ks.any fun k => decide (0 < k.1) && decide (k.2 = r)
  let s := if s.weir.stretchSeen then s.charge 8 else s
  rs.foldl (fun s r => s.charge r) s

/-- The sensors above a vault: point j of each tier lies over vaults 8j to 8j + 7 (R265, R381). -/
def vaultSensors (v : Nat) : List Nat := (List.range 6).map fun t => 640 + 64 * t + v / 8

/-- Each vault takes its refresh figure from its hottest sensor: 8 % from above 85 °C until below 83 °C (R265). The period is
counted where it runs at 8 %. -/
def State.refresh (s : State) : State :=
  (List.range 512).foldl (fun s v =>
    let t := ((vaultSensors v).map s.tempOf).foldl max (-2048)
    let hot := decide (4 * 85 < t) || ((s.vault v).hot && decide (4 * 83 ≤ t))
    let s := if hot = (s.vault v).hot then s else s.modVault v fun x => { x with hot := hot }
    if hot then s.count evStackHotNs (.cluster (v / 16)) none 10000 else s) s

/-! ### Energy (R99, R391-R393) -/

/-- The weights of a period: of each stream over its leaf cores, riffle ic charged as R99 says, and all of them with the
residual. -/
def State.weights (s : State) (inp : WeirInput) : List (StreamId × Rat) × Rat :=
  let own : List (Option StreamId × Rat) := inp.work.map fun e => (some e.2.1, (e.2.2 : Rat))
  let rif : List (Option StreamId × Rat) := inp.riffle.flatMap fun e =>
    let ics := (s.core e.1.toNat).rif.ics
    let n := (ics.map Prod.snd).sum
    if n = 0 then [(none, (e.2 : Rat))] else ics.map fun x => (x.1, (e.2 : Rat) * x.2 / n)
  let l := own ++ rif
  let sumOf (i : StreamId) : Rat := ((l.filter fun e => decide (e.1 = some i)).map Prod.snd).sum
  (((List.range 64).map fun i => (BitVec.ofNat 6 i, sumOf (BitVec.ofNat 6 i))).filter fun e => decide (e.2 ≠ 0),
    (l.map Prod.snd).sum + inp.rest)

/-- Divide the period's measured energy among the streams (R391); a share between two whole µJ goes either way. -/
def State.shareEnergy (s : State) (inp : WeirInput) : State :=
  let (ws, total) := s.weights inp
  let s := { s with cores := s.cores.map fun (e : Nat × Core) => (e.1, { e.2 with rif := { e.2.rif with ics := [] } }) }
  ws.foldl (fun s e =>
    let x : Rat := if total = 0 then 0 else 10 * inp.watts * e.2 / total
    let uj := x.floor + (if x.den ≠ 1 && Config.roundsUp 3 x.floor then 1 else 0)
    s.modStrm e.1 fun y => if y.state = .empty then y else { y with energy := y.energy + BitVec.ofInt 64 uj }) s

/-- Cores here that hold leaf cores of some streams. -/
def State.leafCores (s : State) (is : List StreamId) : List Nat :=
  firstOnly [] (is.flatMap fun i => ((s.strm i).leaves.filter fun l => decide (l.1 = s.own)).map Prod.snd)

/-- Add the period to throttle times: in all where one of the cores stood at a fraction, and by reason. -/
def State.throttled (s : State) (cs : List Nat) (ns : Nat) (by_ : Table Nat) : Nat × Table Nat :=
  let ks := (cs.map fun c => s.coreK c true).filter fun k => decide (0 < k.1)
  if ks.isEmpty then (ns, by_)
  else (ns + 10000, (firstOnly [] (ks.map Prod.snd)).foldl (fun t r => tmod 0 t r (· + 10000)) by_)

/-- Every stream's and job's throttle times of the interval go on (R393). -/
def State.trackThrottle (s : State) : State :=
  let s := (List.range 64).foldl (fun s i =>
    let i : StreamId := BitVec.ofNat 6 i
    let x := s.strm i
    if x.state = .empty then s
    else
      let (n, t) := s.throttled (s.leafCores [i]) x.thrNs x.thrBy
      s.setStrm i { x with thrNs := n, thrBy := t }) s
  s.fab.jobs.foldl (fun s e =>
    let (n, t) := s.throttled (s.leafCores (s.jobStreams e.1)) e.2.thrNs e.2.thrBy
    s.modJob e.1 fun x => { x with thrNs := n, thrBy := t }) s

/-- The local fraction of job j, the pacing term left out (R394). -/
def State.localFrac (s : State) (j : Nat) : Nat :=
  ((firstOnly [] ((s.ctxs.filter fun e => e.2.used && decide (e.2.job.toNat = j)).map fun e => e.1 / 8)).map fun c =>
    (s.coreK c false).1).foldl max 0

/-- Since when each job's local fraction stands above 8/64 or not (R394). -/
def State.trackLag (s : State) : State :=
  s.fab.jobs.foldl (fun s e =>
    let isOver := decide (8 < s.localFrac e.1)
    if isOver = e.2.isOver then s else s.modJob e.1 fun x => { x with isOver := isOver, since := s.time }) s

/-! ### The period -/

/-- Events of which a weir period names the amount: those that count ic or turns of an island's own clock, which no other command
tells (R471). -/
def timedEvents : List Nat :=
  [evSeqIdleIc, evOrderWaitIc, evFenceWaitIc, evMwaitIc, evWeltVecIc, evWeltSfuWaitIc, evTeamWaitIc, evVecWaitIc, evSfuContendIc,
   evStackTurn, evStackBankConflict, evFabCreditWaitIc, evDroopStretchIc, evUpstreamWaitIc]

/-- The place of an instance of an event's domain (R469). -/
def placeOfEv (ev inst : Nat) : At :=
  match evDomain ev with
  | some .core => .core inst
  | some .cluster => .cluster inst
  | some .port => .port inst
  | some .engine => .engine inst
  | some .island => .island inst
  | _ => .device

/-- What the islands counted in the period: timed events, and of the generator slots of an island the bubbles and the ic it ran, at
the fraction in force (R383, R471). -/
def State.countTimed (s : State) (inp : WeirInput) : State :=
  let s := inp.timed.foldl (fun s e =>
    if timedEvents.contains e.ev.toNat then s.count e.ev.toNat (placeOfEv e.ev.toNat e.inst.toNat) e.strm e.n else s) s
  inp.slots.foldl (fun s e =>
    if s.spareIsland e.1 || decide (620 ≤ e.1) then s
    else
      let bub := e.2 * (s.islandK e.1 true).1 / 64
      let s := s.count evWeirBubbleSlots (.island e.1) none bub
      if e.1 < 544 then
        match (List.range 16).find? fun j => decide (s.coreIsland (16 * (e.1 / 17) + j) = e.1) with
        | some j => s.count evCoreIc (.core (16 * (e.1 / 17) + j)) none (e.2 - bub)
        | none => s
      else if e.1 < 576 then s.count evClusterIc (.cluster (e.1 - 544)) none (e.2 - bub)
      else s) s

/-- WEIR_PERIOD: snapshots, readings, marks, trip, refresh figures, account, terms, reasons, meters and energy of one period of 10 µs
(R36, R381-R394, R470). -/
def execWeirPeriod (inp : WeirInput) (s : State) : Res :=
  if !s.up then .next s
  else
    let mean := s.sumK
    let s := (s.countTimed inp).snapshot ((List.range 620).filter fun i => !s.spareIsland i)
    let s := (((s.readSensors inp.temps).markSensors).thermal).refresh
    let (x, stuck) := excursion s.weir inp.watts inp.watts100
    let s := { s with weir := { s.weir with
      exc := x, excStuck := stuck, meanK := mean,
      meter := BitVec.ofNat 64 (inp.watts % 65536 + inp.watts100 % 65536 * 2 ^ 16 + inp.volts % 65536 * 2 ^ 32 +
        inp.amps % 65536 * 2 ^ 48) } }
    let s := { s with weir := { s.weir with
      fracT := s.tempTerms,
      fracP := lawTerm (bits s.weir.cfg 24 5) (100 * inp.watts) (100 * s.weir.staticP) (capEff s.weir inp.volts) mean } }
    let top := topTerm ((List.range 512).map fun c => s.coreK c true)
    let s := s.chargePeriod
    let s := { s with weir := { s.weir with
      kmax := BitVec.ofNat 6 top.1, reason := BitVec.ofNat 4 top.2, stretchSeen := !s.weir.stretched.isEmpty } }
    .next ((s.shareEnergy inp).trackThrottle).trackLag

/-- CURRENT_EVAL: the current term, every 1 µs; `amps` in 10 mA (R383, R385). -/
def execCurrentEval (volts amps : Nat) (s : State) : Res :=
  .next (if s.up then State.trackLag { s with weir := { s.weir with
    meter := setBits (setBits s.weir.meter 32 16 volts) 48 16 amps,
    fracI := lawTerm (bits s.weir.cfg 24 5) amps s.weir.staticI (ampEff s.weir) s.weir.meanK } } else s)

/-- STATIC_POWER_REFRESH: the static shares, every 100 ms (R383). -/
def execStaticPowerRefresh (watts amps : Nat) (s : State) : Res :=
  .next (if s.up then { s with weir := { s.weir with staticP := watts, staticI := amps } } else s)

/-- Whether the generator of island i tracks droop (R39). -/
def State.tracksDroop (s : State) (i : Nat) : Bool := decide (i < 586) && !s.spareIsland i

/-- DROOP_STRETCH: an island's generator lengthens its cycles (R389). -/
def execDroopStretch (island : BitVec 10) (s : State) : Res :=
  let i := island.toNat
  .next (if s.up && s.tracksDroop i then { s with weir := { s.weir with
    stretchSeen := true, stretched := if s.weir.stretched.contains i then s.weir.stretched else s.weir.stretched ++ [i] } } else s)

/-- NOMINAL_PERIOD_RETURN: the island runs at its nominal period again (R389). -/
def execNominalPeriodReturn (island : BitVec 10) (s : State) : Res :=
  .next { s with weir := { s.weir with stretched := s.weir.stretched.filter fun x => decide (x ≠ island.toNat) } }

/-! ### Lag and pacing (R394, R395) -/

/-- Send a lag, update or clear notice to the job headwater. -/
def State.sendLag (s : State) (j k : Nat) (clear : Bool) : State :=
  let s := (s.modJob j fun x => { x with told := if clear then none else some (BitVec.ofNat 6 k), toldAt := s.time }).countDev evLagNotice
  let hw := (s.job j).hw.toNat
  if hw = s.own then s.takeLag j s.own (BitVec.ofNat 6 k) clear
  else s.send (.lag hw (BitVec.ofNat 16 j) (BitVec.ofNat 6 k) clear)

/-- LAG_NOTICE: above 8/64 for 100 µs a job begins to lag; while it lags an update is sent where the fraction has moved by 4/64, at most
one per 100 µs; at or below 8/64 for 100 µs it clears (R394). -/
def execLagNotice (job : BitVec 16) (s : State) : Res :=
  let j := job.toNat
  let x := s.job j
  let k := s.localFrac j
  let stood := decide (x.isOver = decide (8 < k)) && decide (100000 ≤ s.time.toNat - x.since.toNat)
  if !s.up || decide (j = 0) || !x.members.contains s.own then .next s
  else
    match x.told with
    | none => .next (if decide (8 < k) && stood then s.sendLag j k false else s)
    | some t =>
      if decide (k ≤ 8) && stood then .next (s.sendLag j k true)
      else if (t.toNat + 4 ≤ k ∨ k + 4 ≤ t.toNat) ∧ 100000 ≤ s.time.toNat - x.toldAt.toNat then .next (s.sendLag j k false)
      else .next s

/-- PACE_NOTICE: a member applies the floor and acknowledges it. -/
def execPaceNotice (job : BitVec 16) (floor : BitVec 6) (s : State) : Res :=
  let j := job.toNat
  let x := s.job j
  if !s.up || !x.members.contains s.own || decide (x.hw.toNat = s.own) then .next s
  else .next ((s.applyFloor j floor).send (.paceAck x.hw.toNat job))

/-! ### Energy records (R393) -/

/-- The headwater writes a record into its log ring, or drops it. -/
def State.logEnergy (s : State) (r : BitVec 256) : State :=
  let e := s.weir.elog
  if !bit e 52 then s.countDev evElogDrop
  else
    let n := 2 ^ bits e 48 4
    let s := s.storePlain (bits e 0 48 + 32 * (s.weir.elogHead.toNat % n)) (leBytes 32 r.toNat)
    { s with weir := { s.weir with elogHead := BitVec.ofNat 16 ((s.weir.elogHead.toNat + 1) % n) } }

/-- A record of R393. -/
def energyRec (t : W64) (uj job dev strm reason ns : Nat) : BitVec 256 :=
  BitVec.ofNat 256 (t.toNat + uj % 2 ^ 64 * 2 ^ 64 + job * 2 ^ 128 + dev * 2 ^ 144 + strm * 2 ^ 160 + reason * 2 ^ 168 +
    ns % 2 ^ 32 * 2 ^ 192)

/-- The reason that governed longest; 0 if none, the lowest of equals. -/
def longest (by_ : Table Nat) : Nat := (topTerm (by_.map fun e => (e.2, e.1))).2

/-- Records of job j for the interval since the last ones: one a stream, or one for the job (R393). -/
def State.energyRecs (s : State) (j : Nat) : List (BitVec 256) :=
  let is := s.jobStreams j
  let uj (i : StreamId) : Nat := ((s.strm i).energy - (s.strm i).told).toNat
  if (s.job j).whole then
    [energyRec s.time ((is.map uj).sum) j s.own 0xFF (longest (s.job j).thrBy) (s.job j).thrNs]
  else is.map fun i => energyRec s.time (uj i) j s.own i.toNat (longest (s.strm i).thrBy) (s.strm i).thrNs

/-- A new interval begins for job j and its streams. -/
def State.newInterval (s : State) (j : Nat) : State :=
  (s.jobStreams j).foldl (fun s i => s.modStrm i fun x => { x with told := x.energy, thrNs := 0, thrBy := [] })
    (s.modJob j fun x => { x with thrNs := 0, thrBy := [] })

/-- ENERGY_RECORD_SEND: every 10 ms, records of this device's streams of a job go to its headwater. -/
def execEnergyRecordSend (job : BitVec 16) (s : State) : Res :=
  let j := job.toNat
  if !s.up || decide (j = 0) then .next s
  else
    let hw := (s.job j).hw.toNat
    .next (((s.energyRecs j).foldl (fun s r => if hw = s.own then s.logEnergy r else s.send (.energy hw r)) s).newInterval j)

/-- ENERGY_RECORD_RECEIVE: a job headwater logs a member's record. -/
def execEnergyRecordReceive (r : BitVec 256) (s : State) : Res := .next (if s.up then s.logEnergy r else s)

/-! ### Registers of the weir -/

/-- A write to WEIR_CAP: a cap outside 1,200 to 3,600 W is refused and counted; exc_en 0 empties the account (R385). -/
def State.writeCap (s : State) (v : W64) : State :=
  let c := bits v 0 12
  if c < 1200 ∨ 3600 < c then s.regRefused
  else
    let w := { s.weir with cap := BitVec.ofNat 64 (bits v 0 13) }
    { s with weir := if bit v 12 then w else { w with exc := 0, excStuck := true } }

/-- WEIR_CAP_WRITE. -/
def execWeirCapWrite (v : W64) (s : State) : Res := .next (if s.boot.phase = .running then s.writeCap v else s)

/-- A write to WEIR_CFG: a field out of range refuses the whole. -/
def State.writeWeirCfg (s : State) (v : W64) : State :=
  if bits v 0 6 = 0 ∨ 20 < bits v 8 5 ∨ 20 < bits v 16 5 ∨ bits v 24 5 = 0 ∨ bits v 32 8 < 10 ∨ 120 < bits v 32 8 then s.regRefused
  else { s with weir := { s.weir with cfg := v &&& 0xFF1F1F1F3F } }

/-- WEIR_CFG_WRITE. -/
def execWeirCfgWrite (v : W64) (s : State) : Res := .next (if s.boot.phase = .running then s.writeWeirCfg v else s)

/-- A write to WEIR_ELOG: base and size are checked; setting enable resets the head (R393). -/
def State.writeElog (s : State) (v : W64) : State :=
  if bits v 0 12 ≠ 0 ∨ bits v 48 4 < 4 then s.regRefused
  else { s with weir := { s.weir with
    elog := BitVec.ofNat 64 (bits v 0 53), elogHead := if bit v 52 && !bit s.weir.elog 52 then 0 else s.weir.elogHead } }

/-- WEIR_ELOG_WRITE. -/
def execWeirElogWrite (v : W64) (s : State) : Res := .next (if s.boot.phase = .running then s.writeElog v else s)

end Sys2Proof.Machine
end

