-- ==== Sys2Proof/Machine/Safe.lean ====
section
/-! DEFINITION. Fault collection, safe states, levee bits, keys and the rollback floor (R37, R41, R452-R463, log 49, DEDUCED). -/

namespace Sys2Proof.Machine

/-! ### Fault records (R457-R459) -/

/-- A fault record (R458). -/
def State.faultRec (s : State) (f : FaultBit) (cls : BitVec 8) (t : W64) : BitVec 512 :=
  BitVec.ofNat 512 (s.flt.next.toNat + f.code.toNat * 2 ^ 32 + cls.toNat * 2 ^ 48 + f.srcKind.toNat * 2 ^ 56 +
    f.srcIndex.toNat * 2 ^ 64 + s.own * 2 ^ 80 + (match f.strm with | some i => i.toNat | none => 0xFF) * 2 ^ 96 +
    t.toNat * 2 ^ 128 + s.time.toNat * 2 ^ 192 + f.arg0.toNat * 2 ^ 256 + f.arg1.toNat * 2 ^ 320)

/-- Write a record to the host's ring: bytes 8 to 63, then bytes 0 to 7 (R459). -/
def State.ringRecord (s : State) (r : BitVec 512) (n : Nat) : State :=
  let g := s.flt.ring
  if !bit g 4 then s
  else
    let a : W64 := BitVec.ofNat 64 (bits g 12 52 * 4096 + 64 * (n % 2 ^ bits g 0 4))
    let bs := leBytes 64 r.toNat
    (s.hostWrite (a + 8) (bs.drop 8)).hostWrite a (bs.take 8)

/-- Form the record of the oldest latched fault, store it and raise cause 82 (R457, R459). -/
def State.record (s : State) : State :=
  match s.flt.latch with
  | [] => s
  | (f, cls, t) :: rest =>
    let n := s.flt.next.toNat
    let k := n % 256
    let r := s.faultRec f cls t
    let lost := decide (256 ≤ n) && !tget true s.flt.read k
    let s := { s with flt := { s.flt with
      latch := rest, records := tput s.flt.records k r, read := tput s.flt.read k false, next := s.flt.next + 1,
      overrun := if lost then satInc s.flt.overrun else s.flt.overrun } }
    (s.ringRecord r n).raise 82

/-- FAULT_RECORD: within 100 µs of a fault at the latch, the cobbler forms its record. -/
def execFaultRecord (s : State) : Res := .next s.record

/-- FAULT_LATCH: a fault bit reaches the latch (R37). -/
def execFaultLatch (f : FaultBit) (s : State) : Res := .next (if s.pins.corePower then s.latchFault f else s)

/-! ### Watchdogs and monitors (R41, R452) -/

/-- Source kind and index of an island (R458, R469): cores by logical number. -/
def State.islandSrc (s : State) (i : Nat) : Nat × Nat :=
  if i < 544 then
    let sp := bits (s.cluster (i / 17)).coreSpare 0 5
    let p := i % 17
    (0, 16 * (i / 17) + (if p < sp then p else p - 1))
  else if i < 576 then (1, i - 544)
  else if i < 586 then (2, i - 576)
  else if i < 618 then (3, i - 586)
  else if i = 618 then (4, 0)
  else (5, 0)

/-- An island that runs (R39). -/
def State.islandOn (s : State) (i : Nat) : Bool := s.pins.corePower && decide (i < 620) && !s.spareIsland i

/-- HANDSHAKE_TIMEOUT: both islands are named; the stream concerned faults (R41). -/
def execHandshakeTimeout (a b : BitVec 10) (strm : Option StreamId) (s : State) : Res :=
  if !s.islandOn a.toNat || !s.islandOn b.toNat then .next s
  else
    let (k, i) := s.islandSrc a.toNat
    .next (s.latchFault ⟨eHandshake, BitVec.ofNat 8 k, BitVec.ofNat 16 i, strm, nameW 10 (a.toNat * 65536 + b.toNat), 0⟩)

/-- CLOCK_MONITOR_TRIP: E_CLOCK; on a core island every instruction in flight there faults and the core is fenced, on a cluster
island or the cobbler the device holds (R452, R454). -/
def execClockMonitorTrip (island : BitVec 10) (s : State) : Res :=
  if !s.islandOn island.toNat then .next s
  else
    let (k, i) := s.islandSrc island.toNat
    if k = 0 then .next (s.coreFault i eClock 0 0)
    else .next (s.latchFault ⟨eClock, BitVec.ofNat 8 k, BitVec.ofNat 16 i, none, 0, 0⟩)

/-- LOCKSTEP_MISMATCH: MC0 and MC1 stop, MC2 holds the device; every later record carries class 3 (R456). -/
def execLockstepMismatch (s : State) : Res :=
  if !s.pins.corePower || s.flt.lockstep then .next s
  else .next ({ s with flt := { s.flt with lockstep := true } }.latchFault ⟨eLockstep, 5, 0, none, 0, 0⟩)

/-- SECDED_SCRUB: a single-bit error is corrected in place; a double-bit error is E_SECDED, in a cache tag of class 3 (R452,
R454, R458). -/
def execSecdedScrub (loc : SecdedAt) (s : State) : Res :=
  if !s.up then .next s
  else
    match loc with
    | .store c a double =>
      .next (if double then s.latchFault ⟨eSecded, 0, BitVec.ofNat 16 c.toNat, none, BitVec.ofNat 64 a.toNat, 0⟩ else s)
    | .line c a double =>
      .next (if double then
        s.latchFault ⟨eSecded, 1, BitVec.ofNat 16 c.toNat, none, BitVec.ofNat 64 (a.toNat / 128 * 128), 0⟩ else s)
    | .tag c i double =>
      .next (if double then
        s.latchFault ⟨eSecded, 1, BitVec.ofNat 16 c.toNat, none, BitVec.ofNat 64 (2 ^ 63 + i.toNat), 0⟩ else s)

/-- Clear fences of a cluster's cores: each owes a forced known-answer load before its first claim (R455). -/
def State.clearFences (s : State) (c : Nat) (mask : BitVec 16) : State :=
  (List.range 16).foldl (fun s j =>
    if bit mask j && (s.core (16 * c + j)).fenced then
      s.modCore (16 * c + j) fun k => { k with fenced := false, mustKat := true, katGate := true }
    else s) s

/-- SAFE_CORE_CLEAR. -/
def execSafeCoreClear (cl : ClusterId) (mask : BitVec 16) (s : State) : Res :=
  .next (if s.boot.phase = .running then s.clearFences cl.toNat mask else s)

/-! ### Levee bits, keys and floor (R461-R463) -/

/-- A write that a levee bit locks is ignored and counted. -/
def State.leveeDenied (s : State) : State := s.countDev evLeveeWriteDenied

/-- A write to LEVEE_LOCK: each 1 sets its bit; a bit that is set keeps, and the write is counted once for those set before
(log 49, DEDUCED), as is every write of a context (R461). -/
def State.writeLevee (s : State) (who : Agent) (v : W64) : State :=
  match who with
  | .ctx _ => s.leveeDenied
  | .host =>
    let n : BitVec 4 := BitVec.ofNat 4 (bits v 0 4)
    let s1 := if s.sec.levee ≠ 0 then s.leveeDenied else s
    { s1 with sec := { s1.sec with levee := s.sec.levee ||| n } }

/-- LEVEE_LOCK_WRITE. -/
def execLeveeLockWrite (agent : Agent) (v : W64) (s : State) : Res :=
  .next (if s.boot.phase = .running then s.writeLevee agent v else s)

/-- The key slot that signed the running image. -/
def State.signer (s : State) : Nat := ((s.flashBytes (slotBase s.boot.slot + 5) 1).headD 0).toNat

/-- A write of revoke to SEC_KEY k (R462). -/
def State.revokeKey (s : State) (k : Nat) : State :=
  if bit s.sec.levee 1 then s.leveeDenied
  else if s.revoked k then s
  else if decide (s.signer = k) || (List.range 4).all fun j => decide (j = k) || s.revoked j then s.regRefused
  else { s with sec := { s.sec with revoked := setBits s.sec.revoked k 1 1 } }

/-- A write of SEC_KEY: once levee bit 1 is set each is counted, whatever it writes to revoke; else a 1 revokes the slot and a 0
is ignored (R8, R462). -/
def State.writeKey (s : State) (k : Nat) (revoke : Bool) : State :=
  if bit s.sec.levee 1 then s.leveeDenied else if revoke then s.revokeKey k else s

/-- SEC_KEY_REVOKE. -/
def execSecKeyRevoke (slot : BitVec 2) (s : State) : Res :=
  .next (if s.boot.phase = .running then s.revokeKey slot.toNat else s)

/-- A write to SEC_FLOOR: done is W1C; the floor lies between the present one and the running image's svn, or the write is
refused with E_BOUNDS (R463). Until the accepted value is in flash the field reads the present floor (log 50, DESIGN CHOICE: R8
would have it read the last value written). -/
def State.writeFloor (s : State) (v : W64) : State :=
  let s := if bit v 16 then { s with sec := { s.sec with floorDone := false } } else s
  if bit s.sec.levee 3 then s.leveeDenied
  else if bits v 0 16 < s.sec.floor.toNat ∨ s.boot.svn.toNat < bits v 0 16 then
    { s with sec := { s.sec with floorDone := true } }.regRefused
  else { s with sec := { s.sec with floorPend := some (BitVec.ofNat 16 (bits v 0 16)) } }

/-- SEC_FLOOR_WRITE. -/
def execSecFloorWrite (v : W64) (s : State) : Res := .next (if s.boot.phase = .running then s.writeFloor v else s)

/-- SEC_FLOOR_STORED: the accepted floor is in flash. -/
def execSecFloorStored (s : State) : Res :=
  match s.sec.floorPend with
  | none => .next s
  | some f => .next (s.storeFloor f)

end Sys2Proof.Machine
end

