-- ==== Sys2Proof/Machine/StackCtl.lean ====
section
/-! DEFINITION. STACK_ILV_WRITE, LINE_ACCESS, AWL_REQUEST, cache control, PATROL_SCRUB_LINE, TIER_PROBE and the stack repair
operations (R261-R284, log 25, DEDUCED, log 43, DEDUCED). -/

namespace Sys2Proof.Machine

/-! ### STACK_ILV (R262, R264) -/

/-- All 64 streams are EMPTY. -/
def State.allEmpty (s : State) : Bool := s.streams.all fun e => decide (e.2.state = .empty)
/-- No host DMA transfer is under way. -/
def State.dmaIdle (s : State) : Bool := s.hif.dma.all fun e => e.2.work.isEmpty

/-- Change the region split: the stack above the common device region becomes unspecified, and its cached lines and poison
go with it (R264, log 11, DESIGN CHOICE). -/
def State.setIlv (s : State) (u : Nat) : State :=
  if u = s.dev.ilv.toNat then s
  else
    let lo := min u s.dev.ilv.toNat * 0x180000000
    let keep (ln : Nat) : Bool := decide (128 * ln < lo)
    let s := { s with
      dev := { s.dev with ilv := BitVec.ofNat 6 u }
      clusters := s.clusters.map fun (e : Nat × Cluster) => (e.1, { e.2 with lines := e.2.lines.filter fun l => keep l.1 })
      poison := s.poison.filter fun p => keep p.1 }
    s.unspecify lo stackEnd

/-- A write of STACK_ILV: E_BOUNDS outside 1 to 32, E_BUSY while a stream is not EMPTY or DMA is under way; a refused write
is counted (R483). -/
def State.writeIlv (s : State) (v : W32) : State :=
  let u := bits v 0 6
  if u = 0 || decide (32 < u) || !s.allEmpty || !s.dmaIdle then s.regRefused else s.setIlv u

/-- STACK_ILV_WRITE. -/
def execStackIlvWrite (_agent : Agent) (v : W32) (s : State) : Res :=
  .next (if s.boot.phase = .running then s.writeIlv v else s)

/-! ### LINE_ACCESS and AWL_REQUEST -/

/-- The macro-instruction that a touch tag names (R269). -/
def State.taggedMi (s : State) (t : StreamId × BitVec 10) : Option MI :=
  s.mis.find? fun m => decide (m.strm = t.1) && decide (m.ticket.toNat % 1024 = t.2.toNat)

/-- Hint of a touch: a read of a pool's page by a macro-instruction over it has the pool's kv_hint, as no record of its covers the
address (R269, R285). -/
def State.touchHint (s : State) (req : LineReq) (m : Option MI) : Hint :=
  match m with
  | none => req.hint
  | some m =>
    let g := s.own * 2 ^ 48 + req.addr.toNat
    let covered := m.recs.any fun r => decide (rAddr r ≤ g) && decide (g < rAddr r + rExtent r)
    if hasRole m.recs rolePool && req.wr.isNone && !covered then
      (match bits (s.pool (poolIdx m.recs)).img 11 2 with | 1 => .stream | 2 => .keep | _ => .none)
    else req.hint

/-- The macro-instruction that reads a poisoned line faults (R14, R279). -/
def State.consume (s : State) (ln : Nat) (m : Option MI) : State :=
  match m with
  | some m => if s.poisoned ln then s.miFault m m.core.toNat eStackUe (poisonName ln) else s
  | none => s

/-- LINE_ACCESS (R269, R279): `upsets` have struck the stack before it. A request without a macro-instruction is from host, DMA,
video, fabric or loader, and a codeword it finds uncorrectable is recorded for the home cluster. -/
def execLineAccess (req : LineReq) (s : State) : Res :=
  let a := req.addr.toNat
  let ln := a / 128
  let tag := req.tag.map fun t => BitVec.ofNat 16 (t.1.toNat * 1024 + t.2.toNat)
  let m := req.tag.bind s.taggedMi
  if !s.up || !inStack a 1 then .next s
  else
    let s := s.strike req.upsets
    match req.wr with
    | none => .next ((s.lineRead ln (s.touchHint req m) req.uses tag (if m.isSome then none else s.atHome ln)).consume ln m)
    | some bs =>
      if bs.isEmpty || decide (128 < a % 128 + bs.length) then .next s
      else .next (s.lineWrite a bs req.hint req.uses tag)

/-- AWL_REQUEST (R275): an aligned access of 4 or 8 bytes, or a 64-bit atomic, of an agent other than a context, carried out at
the home of its line. -/
def execAwlRequest (cl : ClusterId) (addr : BitVec 48) (op : AwlOp) (upsets : List SymbolUpset) (s : State) : Res :=
  let a := addr.toNat
  let ln := a / 128
  let c := cl.toNat
  let n := match op with
    | .read b => if b then 8 else 4
    | .write b _ => if b then 8 else 4
    | .atomic _ _ _ => 8
  if !s.up || !inStack a n || decide (a % n ≠ 0) then .next s
  else
    let s := s.strike upsets
    match op with
    | .read _ => .next (s.awlRead c ln (s.atHome ln))
    | .write _ v => .next (s.awlStore c a (leBytes n v.toNat) (s.atHome ln))
    | .atomic fn cmp v => .next (s.awlAtomic c a fn cmp v (s.atHome ln))

/-! ### Cache control (R273) -/

/-- Prefetch line ln as normal; no effect if present. -/
def State.cchPrefetch (s : State) (ln : Nat) : State :=
  if (s.cline ln).isSome then s
  else ((s.countHome evCchMiss ln 1).vaultRead ln (s.atHome ln)).allocLine ln .normal 0 none

/-- Prefetch line ln as keep, or promote it to keep. -/
def State.cchKeep (s : State) (ln : Nat) : State :=
  match s.cline ln with
  | some l => (s.setCline ln (some { l with cls := .keep }))
  | none => ((s.countHome evCchMiss ln 1).vaultRead ln (s.atHome ln)).allocLine ln .keep 0 none

/-- The operation a control store of data v makes on line ln; a value above 5 is counted. -/
def State.cchStore (s : State) (ln : Nat) (v : W64) : State :=
  match v.toNat with
  | 0 => s.cchPrefetch ln
  | 1 => s.cchKeep ln
  | 2 => s.evictFirst ln
  | 3 => s.writeBack ln
  | 4 => (s.writeBack ln).invalidateLine ln
  | 5 => s.invalidateLine ln
  | _ => s.countHome evCchCtlBad ln 1

/-- A 64-bit access of a context to the control window at offset a: aligned, within the mirrored stack range, else the
stream faults (R126, R273). -/
def State.cchAccess (s : State) (cx : CtxId) (a : Nat) (k : State → State) : State :=
  let name := nameW 8 (s.own * 2 ^ 48 + cchBase + a)
  if a % 8 ≠ 0 then s.faultCtx cx eAlign name
  else if !inStack a 8 then s.faultCtx cx eBounds name
  else (k s).advance cx 4

/-- A context's s.st to the control window with data v. -/
def State.cchBy (s : State) (cx : CtxId) (addr : BitVec 48) (v : W64) : State :=
  s.issue cx ⟨false, 0⟩ 4 fun s => s.cchAccess cx addr.toNat fun s => s.cchStore (addr.toNat / 128) v

/-- CCH_PREFETCH. -/
def execCchPrefetch (cx : CtxId) (addr : BitVec 48) (s : State) : Res := .next (s.cchBy cx addr 0)
/-- CCH_PREFETCH_KEEP. -/
def execCchPrefetchKeep (cx : CtxId) (addr : BitVec 48) (s : State) : Res := .next (s.cchBy cx addr 1)
/-- CCH_EVICT_FIRST. -/
def execCchEvictFirst (cx : CtxId) (addr : BitVec 48) (s : State) : Res := .next (s.cchBy cx addr 2)
/-- CCH_WRITE_BACK. -/
def execCchWriteBack (cx : CtxId) (addr : BitVec 48) (s : State) : Res := .next (s.cchBy cx addr 3)
/-- CCH_WRITE_BACK_INVALIDATE. -/
def execCchWriteBackInvalidate (cx : CtxId) (addr : BitVec 48) (s : State) : Res := .next (s.cchBy cx addr 4)
/-- CCH_INVALIDATE. -/
def execCchInvalidate (cx : CtxId) (addr : BitVec 48) (s : State) : Res := .next (s.cchBy cx addr 5)
/-- CCH_CTL_BAD: a data value above 5; any other is left to the rows above. -/
def execCchCtlBad (cx : CtxId) (addr : BitVec 48) (v : W64) (s : State) : Res :=
  .next (if 5 < v.toNat then s.cchBy cx addr v else s)
/-- CCH_STATE_READ: s[d] takes the state of the line. -/
def execCchStateRead (cx : CtxId) (addr : BitVec 48) (d : Reg) (s : State) : Res :=
  .next (s.issue cx ⟨false, 0⟩ 4 fun s => s.cchAccess cx addr.toNat fun s =>
    s.modCtx cx fun c => c.setS d (BitVec.ofNat 64 (s.lineState (addr.toNat / 128))))

/-! ### Patrol scrub and tier probe (R280) -/

/-- Lines of a vault. -/
abbrev vaultLines : Nat := 3145728

/-- The stack line that vault line q of vault v holds under dev_units u (the inverse of R263). -/
def lineAt (u v q : Nat) : Nat :=
  if q < u * 98304 then
    ((v ^^^ (q % 512) ^^^ (q / 512 % 512) ^^^ (q / 2 ^ 18 % 16)) + 512 * q)
  else
    let h := q - u * 98304
    let z := (32 - u) * 0xC000000 / 128
    u * 50331648 + v / 16 * z + (16 * h + (v % 16 ^^^ xor7 (16 * h)))

/-- A read of line ln of vault v by the scrub or the probe: it reads the codeword in the vault, whatever the cache holds. -/
def State.scrubRead (s : State) (v ln : Nat) : State :=
  let q := (s.place ln).2
  let s := s.countHome evStackRdLines ln 1
  let dirty := match s.cline ln with
    | some l => l.shadow
    | none => none
  let known := match dirty with
    | some sh => sh.2
    | none => s.poisoned ln
  if known then s
  else
    match s.decodeLine v q with
    | .clean => s
    | .corrected tiers => s.correctLine ln tiers
    | .uncorrectable =>
      let s := match dirty, s.cline ln with
        | some sh, some l =>
          (((s.rewrite v q).modVault v fun x => { x with ue := satInc x.ue }).countHome evStackUe ln 1).setCline ln
            (some { l with shadow := some (sh.1, true) })
        | _, _ => s.poisonLine ln
      s.latchFault ⟨eStackUe, 6, BitVec.ofNat 16 v, none, BitVec.ofNat 64 (128 * ln), 0⟩

/-- PATROL_SCRUB_LINE: the next line of a vault is read and corrected; none while scrub_s is 0. -/
def execPatrolScrubLine (vault : VaultId) (upsets : List SymbolUpset) (s : State) : Res :=
  let v := vault.toNat
  if !s.up || decide (bits s.dev.stkCtl 16 16 = 0) then .next s
  else
    let q := (s.vault v).patrol
    let s := (s.strike upsets).modVault v fun x => { x with patrol := (x.patrol + 1) % vaultLines }
    .next (s.scrubRead v (lineAt s.dev.ilv.toNat v q))

/-- TIER_PROBE of a vault line: a tier with symbol errors on two consecutive probes is marked suspect and reported (R280). -/
def execTierProbe (vault : VaultId) (line : BitVec 22) (upsets : List SymbolUpset) (s : State) : Res :=
  let v := vault.toNat
  let q := line.toNat % vaultLines
  if !s.up then .next s
  else
    let s := s.strike upsets
    let x := s.vault v
    let tiers := tiersOf (s.symbolErrors v q)
    let new := tiers &&& x.probed &&& ~~~x.suspect
    let s := s.scrubRead v (lineAt s.dev.ilv.toNat v q)
    let s := s.modVault v fun x => { x with probed := tiers, suspect := x.suspect ||| new }
    .next ((List.range 6).foldl (fun s t =>
      if bit new t then s.latchFault ⟨eStackTier, 6, BitVec.ofNat 16 v, none, nameW 11 v, BitVec.ofNat 64 t⟩ else s) s)

/-! ### Repair entries (R281-R283) -/

/-- Entries of a store: fuse, soft, lane map. -/
def storeSize (store : Nat) : Nat := if store = 0 then 128 else if store = 1 then 16 else 8

/-- Begin a repair operation: the fields of STK_RPR_CTL take the values written. -/
def State.setRpr (s : State) (vault : VaultId) (tier : BitVec 3) (store : BitVec 2) (index : BitVec 7) : State :=
  { s with dev := { s.dev with rprVault := vault, rprTier := tier, rprStore := store, rprIndex := index } }

/-- A repair operation ends: done, err and cause 85 (R412, R483). -/
def State.rprEnd (s : State) (err : Code) : State :=
  ({ s with dev := { s.dev with rprDone := true, rprErr := err } }).raise 85

/-- What is wrong with the entry addressed; 0 if nothing. -/
def rprErr (tier store index : Nat) : Code :=
  if 5 < tier then eHandle else if store = 3 then eHandle else if storeSize store ≤ index then eBounds else 0

/-- Whether a soft write may enter this entry: a row or a column group in range, or an empty entry, reserved bits zero. -/
def softOk (e : W64) : Bool :=
  decide (e = 0) ||
  (decide (bits e 29 35 = 0) && decide (bits e 2 3 ≤ 5) &&
    ((decide (bits e 0 2 = 1) && decide (bits e 10 13 ≤ 6143)) ||
     (decide (bits e 0 2 = 2) && decide (bits e 10 13 ≤ 15) && decide (bits e 23 6 ≤ 7))))

/-- A repair operation with its check k beyond those of the address, and its effect f on the entry's number. -/
def State.rprOp (s : State) (op : BitVec 3) (vault : VaultId) (tier : BitVec 3) (store : BitVec 2) (index : BitVec 7) (k : State → Code)
    (f : State → Nat → State) : State :=
  if s.boot.phase ≠ .running then s
  else
    s.runOp (.rprOp op vault tier store index) (fun s => s.setRpr vault tier store index) fun s =>
      let e := rprErr tier.toNat store.toNat index.toNat
      if e ≠ 0 then s.rprEnd e
      else if k s ≠ 0 then s.rprEnd (k s)
      else (f s (repairKey vault.toNat tier.toNat store.toNat index.toNat)).rprEnd 0

/-- STK_RPR_READ. -/
def execStkRprRead (vault : VaultId) (tier : BitVec 3) (store : BitVec 2) (index : BitVec 7) (s : State) : Res :=
  .next (s.rprOp 1 vault tier store index (fun _ => 0) fun s k =>
    { s with dev := { s.dev with rprData := tget 0 s.repairs k } })

/-- The lines of vault v that a row or column-group entry concerns, among those with symbols in error. -/
def State.repairLines (s : State) (v : Nat) (e : W64) : List Nat :=
  let b := bits e 5 5
  let x := bits e 10 13
  let qs := if s.upsets.isEmpty then []
    else if bits e 0 2 = 1 then (List.range 16).map (vaultLineOf b x)
    else if bits e 0 2 = 2 then (List.range 6144).map fun r => vaultLineOf b r x
    else []
  qs.filter fun q => !(s.symbolErrors v q).isEmpty

/-- The cells of tier t of vault v that an entry brings into use hold what was copied to them, without errors (R283): the spare's
where the entry is written, the target's where it is cleared. -/
def State.freshCells (s : State) (v t : Nat) (e : W64) (spare : Bool) : State :=
  let row := if spare then 6144 + bits e 23 6 else bits e 10 13
  let col := if spare then 16 + bits e 23 6 else bits e 10 13
  { s with upsets := s.upsets.filter fun u =>
      !(decide (u.vault.toNat = v) && decide (u.tier.toNat = t) && decide (u.bank.toNat = bits e 5 5) &&
        ((decide (bits e 0 2 = 1) && decide (u.row.toNat = row)) || (decide (bits e 0 2 = 2) && decide (u.col.toNat = col)))) }

/-- The controller corrects the data of the lines that the present and the new entry concern and redirects the target to the
new entry's spare (R283). -/
def State.repair (s : State) (v t k : Nat) (new : W64) : State :=
  let old := tget 0 s.repairs k
  let s := (s.repairLines v old ++ s.repairLines v new).foldl (fun s q => s.scrubRead v (lineAt s.dev.ilv.toNat v q)) s
  let s := s.freshCells v t old false
  { s with repairs := tput s.repairs k new }.freshCells v t new true

/-- STK_RPR_SOFT_WRITE. -/
def execStkRprSoftWrite (vault : VaultId) (tier : BitVec 3) (store : BitVec 2) (index : BitVec 7) (s : State) : Res :=
  .next (s.rprOp 2 vault tier store index
    (fun s => if store ≠ 1 then eHandle else if !softOk s.dev.rprData then eOperand else 0) fun s k =>
    s.repair vault.toNat tier.toNat k s.dev.rprData)

/-- STK_RPR_SOFT_CLEAR. -/
def execStkRprSoftClear (vault : VaultId) (tier : BitVec 3) (store : BitVec 2) (index : BitVec 7) (s : State) : Res :=
  .next (s.rprOp 3 vault tier store index (fun _ => if store ≠ 1 then eHandle else 0) fun s k =>
    s.repair vault.toNat tier.toNat k 0)

/-- STK_RPR_MARK_FAILED. -/
def execStkRprMarkFailed (vault : VaultId) (tier : BitVec 3) (store : BitVec 2) (index : BitVec 7) (s : State) : Res :=
  .next (s.rprOp 4 vault tier store index (fun _ => 0) fun s _ =>
    s.modVault vault.toNat fun x => { x with failed := setBits x.failed tier.toNat 1 1 })

/-- STK_RPR_CLEAR_FAILED. -/
def execStkRprClearFailed (vault : VaultId) (tier : BitVec 3) (store : BitVec 2) (index : BitVec 7) (s : State) : Res :=
  .next (s.rprOp 5 vault tier store index (fun _ => 0) fun s _ =>
    s.modVault vault.toNat fun x => { x with failed := setBits x.failed tier.toNat 1 0 })

/-- STK_RPR_OP_REFUSED: op 6 or 7, or 2 or 3 on another store. Other values are left to the rows above. -/
def execStkRprOpRefused (vault : VaultId) (tier : BitVec 3) (store : BitVec 2) (index : BitVec 7) (op : BitVec 3)
    (s : State) : Res :=
  let bad := decide (6 ≤ op.toNat) || (decide (op = 2 ∨ op = 3) && decide (store ≠ 1))
  .next (if bad && decide (s.boot.phase = .running) then
      s.badOp .rpr fun s => (s.setRpr vault tier store index).rprEnd eHandle
    else s)

end Sys2Proof.Machine
end

