-- ==== Sys2Proof/Machine/Codec.lean ====
section
/-! DEFINITION. What the video engines code and decode: input conversion, quantisers, motion search, refresh, error resilience
(R317-R319, R332-R343). What the coding standards and the engine's own decisions add are functions of the session's descriptor and of
what its FRAME jobs read, and of nothing else (R343, log 15, DESIGN CHOICE). -/

namespace Sys2Proof.Machine

/-- x held to lo .. hi. -/
def clampInt (lo hi x : Int) : Int := max lo (min hi x)

/-- A field of an encode session descriptor: width and height of the coded picture, blocks of a picture. -/
def dOutW (d : BitVec 1024) : Nat := bits d 48 16
/-- Coded height. -/
def dOutH (d : BitVec 1024) : Nat := bits d 64 16
/-- Coded at 10 bits. -/
def dDepth10 (d : BitVec 1024) : Bool := bit d 2
/-- The session codes or decodes AV1. -/
def dAv1 (d : BitVec 1024) : Bool := decide (bits d 0 2 = 1)
/-- Blocks of a w by h picture (R320). -/
def blocksOf (w h : Nat) : Nat := ceilDiv w 16 * ceilDiv h 16

/-! ### Input conversion (R332, R333) -/

/-- A plane of exact samples. -/
structure Grid where
  w : Nat
  h : Nat
  val : Nat → Nat → Rat

/-- The planes of a stored input, read through rd by byte offset: Y, Cb, Cr or R, G, B (R332). -/
def inputPlanes (rd : Nat → Nat) (d : BitVec 1024) : List Grid :=
  let w := bits d 16 16
  let h := bits d 32 16
  let pitch := bits d 80 16
  let chroma := bits d 96 32
  let word (a n : Nat) : Nat := leNat ((List.range n).map fun i => BitVec.ofNat 8 (rd (a + i)))
  let plane (w h : Nat) (v : Nat → Nat → Nat) : Grid := ⟨w, h, fun x y => (v x y : Rat)⟩
  let yuv (v : Nat → Nat) (n : Nat) : List Grid :=
    plane w h (fun x y => v (y * pitch + n * x)) ::
    [0, 1].map fun c => plane (ceilDiv w 2) (ceilDiv h 2) fun x y => v (chroma + y * pitch + n * (2 * x + c))
  match bits d 3 3 with
  | 0 => yuv rd 1
  | 1 => yuv (fun a => word a 2 / 64) 2
  | 2 => [0, 1, 2].map fun c => plane w h fun x y => rd (y * pitch + 4 * x + c)
  | _ => [0, 1, 2].map fun c => plane w h fun x y => word (y * pitch + 4 * x) 4 / 2 ^ (10 * c) % 1024

/-- The input has 10 bits per sample. -/
def inDepth10 (d : BitVec 1024) : Bool := decide (bits d 3 3 % 2 = 1)
/-- The input is RGB. -/
def inRgb (d : BitVec 1024) : Bool := decide (2 ≤ bits d 3 3)

/-- Y, Cb and Cr of an RGB sample at the input's bit depth: the matrices of BT.709 and BT.2020, full or limited range (R329, R333;
log 15, PRESUMED from the standards it names). -/
def toYcbcr (d : BitVec 1024) (r g b : Rat) : List Rat :=
  let n : Rat := if inDepth10 d then 1023 else 255
  let unit : Rat := if inDepth10 d then 4 else 1
  let (kr, kb) : Rat × Rat := if bit d 10 then (2627 / 10000, 593 / 10000) else (2126 / 10000, 722 / 10000)
  let y := kr * r + (1 - kr - kb) * g + kb * b
  let cb := (b - y) / (2 * (1 - kb))
  let cr := (r - y) / (2 * (1 - kr))
  if bit d 11 then [y, cb + 128 * unit, cr + 128 * unit]
  else [219 * unit * y / n + 16 * unit, 224 * unit * cb / n + 128 * unit, 224 * unit * cr / n + 128 * unit]

/-- A plane mirrored, then turned clockwise by quarters (R329, R333). -/
def Grid.turned (d : BitVec 1024) (g : Grid) : Grid :=
  let f : Grid := ⟨g.w, g.h, fun x y => g.val (if bit d 8 then g.w - 1 - x else x) (if bit d 9 then g.h - 1 - y else y)⟩
  (List.range (bits d 6 2)).foldl (fun g _ => ⟨g.h, g.w, fun x y => g.val y (g.h - 1 - x)⟩) f

/-- A row or column of n samples filtered to position i of m: 8 taps for luma, 4 for chroma, of 64 phases, clamped at the edges. -/
def filterLine (luma : Bool) (n m : Nat) (v : Nat → Rat) (i : Nat) : Rat :=
  let (at0, phase) := Config.scaleAt luma n m i
  ((List.range (if luma then 8 else 4)).map fun (k : Nat) =>
    (Config.scaleTap luma (phase % 64) k : Rat) / 2 ^ 32 * v (clampInt 0 (n - 1) (at0 + k)).toNat).sum

/-- A plane scaled to w by h. -/
def Grid.scaled (g : Grid) (luma : Bool) (w h : Nat) : Grid :=
  ⟨w, h, fun x y => filterLine luma g.h h (fun j => filterLine luma g.w w (fun i => g.val i j) x) y⟩

/-- Chroma averaged 2 by 2. -/
def Grid.halved (g : Grid) : Grid :=
  ⟨g.w / 2, g.h / 2, fun x y =>
    (g.val (2 * x) (2 * y) + g.val (2 * x + 1) (2 * y) + g.val (2 * x) (2 * y + 1) + g.val (2 * x + 1) (2 * y + 1)) / 4⟩

/-- Nearest whole number, ties away from zero. -/
def roundAway (x : Rat) : Int := if x < 0 then -((-x + 1 / 2).floor) else (x + 1 / 2).floor

/-- The coded picture's planes before the one rounding, at the input's bit depth (R333, steps 1 to 5). -/
def scaledPlanes (rd : Nat → Nat) (d : BitVec 1024) : List Grid :=
  let ins := inputPlanes rd d
  let (w, h) := (dOutW d, dOutH d)
  if inRgb d then
    let at_ (c x y : Nat) : Rat := (ins[c]?.map fun g => g.val x y).getD 0
    ([0, 1, 2].map fun c =>
      let g : Grid := ⟨bits d 16 16, bits d 32 16, fun x y => (toYcbcr d (at_ 0 x y) (at_ 1 x y) (at_ 2 x y)).getD c 0⟩
      let g := (g.turned d).scaled (decide (c = 0)) w h
      if c = 0 then g else g.halved)
  else
    ins.mapIdx fun c g => (g.turned d).scaled (decide (c = 0)) (if c = 0 then w else w / 2) (if c = 0 then h else h / 2)

/-- The coded picture: each plane in raster order, rounded once to the coded bit depth and held to its range (R333; log 15, DEDUCED). -/
def codedPlanes (rd : Nat → Nat) (d : BitVec 1024) : List (List Nat) :=
  let top : Int := if dDepth10 d then 1023 else 255
  let unit : Rat := (if dDepth10 d then 4 else 1) / (if inDepth10 d then 4 else 1)
  (scaledPlanes rd d).map fun g => (List.range g.h).flatMap fun y => (List.range g.w).map fun x =>
    (clampInt 0 top (roundAway (g.val x y * unit))).toNat

/-! ### Quantisers (R334, R335) -/

/-- Rows and row stride of a region-of-interest map (R334). -/
def roiShape (d : BitVec 1024) : Nat × Nat := (ceilDiv (dOutH d) 16, roundUp (ceilDiv (dOutW d) 16) 64)

/-- The offsets of a region-of-interest map by block in raster order, read by byte offset (R334). -/
def roiOffsets (rd : Nat → Nat) (d : BitVec 1024) : List Int :=
  let (rows, stride) := roiShape d
  (List.range rows).flatMap fun r => (List.range (ceilDiv (dOutW d) 16)).map fun c =>
    let b := rd (r * stride + c) % 32
    if 16 ≤ b then (b : Int) - 32 else b

/-- Lowest and highest quantiser: AV1 qindex, or HEVC QP at the session's bit depth (R335; the lowest HEVC QP at 10 bits is log 15,
PRESUMED). -/
def quantRange (d : BitVec 1024) : Int × Int := if dAv1 d then (1, 255) else (if dDepth10 d then -12 else 0, 51)

/-- Blocks of the 64 by 64 superblock of a block, in the picture. -/
def superblock (d : BitVec 1024) (b : Nat) : List Nat :=
  let bw := ceilDiv (dOutW d) 16
  let (x0, y0) := (b % bw / 4 * 4, b / bw / 4 * 4)
  (List.range (min 4 (ceilDiv (dOutH d) 16 - y0))).flatMap fun j =>
    (List.range (min 4 (bw - x0))).map fun i => (y0 + j) * bw + x0 + i

/-- What the map adds to a block's quantiser: HEVC its offset, AV1 4 times the mean of its superblock toward zero (R335). -/
def quantDelta (d : BitVec 1024) (offsets : List Int) (b : Nat) : Int :=
  if dAv1 d then
    let l := (superblock d b).map fun k => offsets.getD k 0
    (4 * l.sum).tdiv l.length
  else offsets.getD b 0

/-- The quantiser of a block on top of the picture's (R335). -/
def blockQuant (d : BitVec 1024) (base : Int) (offsets : List Int) (b : Nat) : Int :=
  clampInt (quantRange d).1 (quantRange d).2 (base + quantDelta d offsets b)

/-! ### Gradual refresh (R338) -/

/-- The session refreshes by a sweep. -/
def sweeps (d : BitVec 1024) : Bool := decide (bits d 240 2 ≠ 0)
/-- Unit columns, or rows for a row sweep, of the picture. -/
def sweepUnits (d : BitVec 1024) : Nat := ceilDiv (if bits d 240 2 = 1 then dOutW d else dOutH d) 64
/-- The band of cycle position c: its first unit and the one after its last. -/
def sweepBand (d : BitVec 1024) (c : Nat) : Nat × Nat :=
  (c * sweepUnits d / bits d 242 8, (c + 1) * sweepUnits d / bits d 242 8)
/-- The refresh unit of a block. -/
def sweepUnit (d : BitVec 1024) (b : Nat) : Nat :=
  let bw := ceilDiv (dOutW d) 16
  if bits d 240 2 = 1 then b % bw / 4 else b / bw / 4

/-- The last sample that prediction along one axis reads, taps of a fractional position included (8 taps; log 15, PRESUMED), after the
clamp at the picture's edge. -/
def lastRead (size pos : Nat) (v : Int) : Int :=
  clampInt 0 (size - 1) ((pos : Int) + 15 + v / 8 + (if v % 8 = 0 then 0 else 4))

/-- A vector a block may use: in the clean region of a sweep, one whose samples all lie 8 inside the previous clean region. -/
def vecAllowed (d : BitVec 1024) (c b : Nat) (v : Vec) : Bool :=
  let bw := ceilDiv (dOutW d) 16
  let (lo, hi) := sweepBand d c
  if !sweeps d || decide (hi ≤ sweepUnit d b) then true
  else
    let edge : Int := 64 * lo - 8
    if bits d 240 2 = 1 then decide (lastRead (dOutW d) (16 * (b % bw)) v.1 < edge)
    else decide (lastRead (dOutH d) (16 * (b / bw)) v.2 < edge)

/-! ### Motion search (R336, R337) -/

/-- Row stride of a hint map (R337). -/
def hintStride (d : BitVec 1024) : Nat := roundUp (32 * ceilDiv (dOutW d) 16) 128

/-- The used candidates of a hint map by block in raster order, read by byte offset (R337). -/
def hintVecs (rd : Nat → Nat) (d : BitVec 1024) : List (List Vec) :=
  let half (a : Nat) : Int := (BitVec.ofNat 16 (rd a + 256 * rd (a + 1))).toInt
  (List.range (ceilDiv (dOutH d) 16)).flatMap fun r => (List.range (ceilDiv (dOutW d) 16)).map fun c =>
    ((List.range 8).map fun k =>
      let a := r * hintStride d + 32 * c + 4 * k
      (half a, half (a + 2))).filter fun v => decide (v ≠ (-32768, -32768))

/-- The vector of a coded block of the picture so far. -/
def vecAt (l : List BlockCode) (b : Nat) : Option Vec := (l[b]?.bind fun x => x.preds.head?).map Prod.snd

/-- The predictor candidates of a block: hints, zero, the neighbours left, above, above right and above left, and the reference's
vectors at, right of and below the block; duplicates merged (R336). -/
def candidates (bw bh : Nat) (hints : List Vec) (done : List BlockCode) (ref : List (Option Vec)) (b : Nat) : List Vec :=
  let (x, y) := (b % bw, b / bw)
  let near (ok : Bool) (k : Nat) : List (Option Vec) := if ok then [vecAt done k] else []
  let there (ok : Bool) (k : Nat) : List (Option Vec) := if ok then [(ref[k]?).join] else []
  let near := near (decide (0 < x)) (b - 1) ++ near (decide (0 < y)) (b - bw) ++
    near (decide (0 < y) && decide (x + 1 < bw)) (b - bw + 1) ++ near (decide (0 < x) && decide (0 < y)) (b - bw - 1)
  let there := there true b ++ there (decide (x + 1 < bw)) (b + 1) ++ there (decide (y + 1 < bh)) (b + bw)
  firstOnly [] ((hints ++ (0, 0) :: (near ++ there).filterMap id).take 16)

/-- A vector clipped so that its reference block reaches at most 64 samples beyond the picture's edge (R336). -/
def clipVec (d : BitVec 1024) (b : Nat) (v : Vec) : Vec :=
  let bw := ceilDiv (dOutW d) 16
  let one (size pos : Nat) (v : Int) : Int := clampInt (8 * (-64 - pos)) (8 * ((size : Int) + 48 - pos)) v
  (one (dOutW d) (16 * (b % bw)) v.1, one (dOutH d) (16 * (b / bw)) v.2)

/-- The integer position of a vector, in its own units. -/
def wholeVec (v : Vec) : Vec :=
  let one (x : Int) : Int := if x % 8 = 0 then x else 8 * (x / 8 + (if Config.roundsUp 0 x then 1 else 0))
  (one v.1, one v.2)

/-- Insert a candidate into a list of rising cost, after its equals. -/
def insertCost (c : Nat × Vec) : List (Nat × Vec) → List (Nat × Vec)
  | [] => [c]
  | x :: xs => if c.1 < x.1 then c :: x :: xs else x :: insertCost c xs

/-- The n vectors of a list with the least cost; equals in their order. -/
def cheapest (cost : Vec → Nat) (n : Nat) (l : List Vec) : List Vec :=
  ((l.foldl (fun acc v => insertCost (cost v, v) acc) []).take n).map Prod.snd

/-- Offsets from -n to n steps along both axes. -/
def offsetsOf (n step : Nat) : List Vec :=
  let l : List Int := (List.range (2 * n + 1)).map fun (i : Nat) => ((i : Int) - n) * step
  l.flatMap fun y => l.map fun x => (x, y)

/-- The search of one reference: candidates scored at their integer positions, the best four searched within 8 samples, the best
refined to half, then to quarter (HEVC) or eighth (AV1) samples (R336); none where R338 allows no position. -/
def searchVec (d : BitVec 1024) (c b : Nat) (cost : Vec → Nat) (cands : List Vec) : Option Vec :=
  let allowed (l : List Vec) : List Vec := (l.map (clipVec d b)).filter (vecAllowed d c b)
  let around (l : List Vec) (v : Vec) : List Vec := l.map fun o => (v.1 + o.1, v.2 + o.2)
  let refine (v : Vec) (l : List Vec) : Vec := (cheapest cost 1 (v :: allowed (around l v))).headD v
  let starts := cheapest cost 4 ((cands.map (clipVec d b)).map wholeVec)
  match cheapest cost 1 (allowed (starts.flatMap (around (offsetsOf 8 8)))) with
  | v :: _ => some (refine (refine v (offsetsOf 1 4)) (if dAv1 d then offsetsOf 3 1 else offsetsOf 1 2))
  | [] => none

/-! ### Coding (R318, R343) -/

/-- The tools the encoders use (R318). -/
def toolUsed (av1 : Bool) : Tool → Bool
  | .partition n => if av1 then decide (2 ≤ n) && decide (n ≤ 6) else decide (3 ≤ n) && decide (n ≤ 6)
  | .amp => !av1
  | .directional | .smooth | .paeth | .chromaFromLuma => av1
  | .hevcIntra m => !av1 && decide (m < 35)
  | .palette | .intraBlockCopy => false
  | .single => true
  | .compound => av1
  | .lowDelayB => !av1
  | .obmc | .warped | .globalMotion => false
  | .dct n => decide (2 ≤ n) && decide (n ≤ 5)
  | .adst n | .flipAdst n | .identity n => av1 && decide (2 ≤ n) && decide (n ≤ 5)
  | .dst n => !av1 && decide (n = 2)
  | .transformSkip => !av1
  | .deblocking => true
  | .cdef | .wiener => av1
  | .sao => !av1
  | .selfGuided | .superres | .filmGrain => false

/-- Reference pictures a picture may predict from: refs of the session, or one under a sweep (R329, R338). -/
def refsInUse (d : BitVec 1024) (have_ : Nat) : Nat := min have_ (if sweeps d then 1 else bits d 266 2)

/-- What the job that was read last gives a coder: offsets and hints. -/
def lastMaps (past : List FrameIn) : List Int × List (List Vec) :=
  match past.getLast? with
  | some (.picture _ _ o h) => (o, h)
  | _ => ([], [])

/-- Code block b after those of the picture so far, for a session whose references have these vectors, newest first. -/
def codeBlock (d : BitVec 1024) (past : List FrameIn) (key : Bool) (c : Nat) (base : Int) (refs : List (List (Option Vec)))
    (done : List BlockCode) (b : Nat) : BlockCode :=
  let bw := ceilDiv (dOutW d) 16
  let (offsets, hints) := lastMaps past
  let n := refsInUse d refs.length
  let band := sweepBand d c
  let inBand := sweeps d && decide (band.1 ≤ sweepUnit d b) && decide (sweepUnit d b < band.2)
  let asked := ((firstOnly [] (Config.blockRefs d past b)).filter (· < n)).take 2
  let preds := if key || inBand || Config.codesIntra d past b || decide (n = 0) then []
    else (if asked.isEmpty then [0] else asked).filterMap fun r =>
      (searchVec d c b (Config.matchCost d past b r)
        (candidates bw (ceilDiv (dOutH d) 16) (hints.getD b []) done (refs.getD r []) b)).map fun v => (r, v)
  ⟨preds.isEmpty, preds, blockQuant d base offsets b, (Config.blockTools d past b).filter (toolUsed (dAv1 d))⟩

/-- The picture's quantiser: qbase under a constant quantiser, else what rate control gives (R329). -/
def baseQuant (d : BitVec 1024) (past : List FrameIn) : Int :=
  if bits d 128 2 = 0 then bits d 136 8 else clampInt (quantRange d).1 (quantRange d).2 (Config.rateQuant d past)

/-- Code a picture at cycle position c, block by block in raster order. -/
def codePicture (d : BitVec 1024) (past : List FrameIn) (key : Bool) (c : Nat) (refs : List (List (Option Vec))) : PictureCode :=
  ⟨key, 2 ^ bits d 268 2,
    (List.range (blocksOf (dOutW d) (dOutH d))).foldl (fun done b =>
      done ++ [codeBlock d past key c (baseQuant d past) refs done b]) []⟩

/-- The parts of a picture's bitstream: HEVC pictures at the start of a sweep carry a recovery point (R338). -/
def codedUnits (d : BitVec 1024) (f c : Nat) (p : PictureCode) : List CodedUnit :=
  (if !dAv1 d && sweeps d && decide (0 < f) && decide (c = 0) then [.recoveryPoint (bits d 242 8 - 1)] else []) ++ [.picture p]

/-- The bitstream of a picture, held to the cap where cap_en is set (R329) and to the record's byte count (R344). -/
def pictureBytes (d : BitVec 1024) (past : List FrameIn) (units : List CodedUnit) : List Byte :=
  (units.flatMap (Config.codeUnit d past)).take (min (2 ^ 32 - 1) (if bit d 224 then bits d 192 32 else 2 ^ 32 - 1))

/-- The mean quantiser of a picture (R344). -/
def meanQuant (p : PictureCode) : BitVec 8 :=
  let sum := (p.blocks.map BlockCode.quant).sum
  let n : Int := p.blocks.length
  BitVec.ofInt 8 (sum / n + (if sum % n ≠ 0 && Config.roundsUp 1 sum then 1 else 0))

/-! ### Decoding (R319, R339-R342) -/

/-- A sequence header that R319 refuses. -/
def seqRefused (d : BitVec 1024) (q : SeqHeader) : Bool :=
  !q.fits || decide (bits d 16 16 < q.w) || decide (bits d 32 16 < q.h) || decide (bits d 112 5 < q.stores) || decide (q.reorder ≠ 0) ||
  (q.depth10 && !bit d 2) || !(decide (64 ≤ q.w) && decide (q.w ≤ 4096) && decide (64 ≤ q.h) && decide (q.h ≤ 2304) &&
    decide (q.w % 2 = 0) && decide (q.h % 2 = 0) && decide (q.w * q.h ≤ 8912896))

/-- The blocks decoded from the parts of a unit and the errors detected: after an error in a part's data the decoder resumes at the next
part it may resume at, after one in a header at the next unit (R340). -/
def decodeParts (skip : Bool) : List UnitPart → List Nat × Nat
  | [] => ([], 0)
  | p :: ps =>
    if skip && !p.resumes then decodeParts skip ps
    else if p.headBad then ([], 1)
    else
      let (l, n) := decodeParts p.stop.isSome ps
      match p.stop with
      | none => (p.blocks ++ l, n)
      | some k => (p.blocks.take k ++ l, n + 1)

/-- Component-wise median of three vectors. -/
def medianVec (a b c : Int × Int) : Int × Int :=
  let med (a b c : Int) : Int := max (min a b) (min (max a b) c)
  (med a.1 b.1 c.1, med a.2 b.2 c.2)

/-- The vector a damaged block is concealed with, before its rounding: the median of the left, above and above-right blocks where all
three decoded, else the co-located vector of the previous picture, else zero (R341). -/
def concealVec (bw : Nat) (decoded : Nat → Bool) (vec : Nat → Int × Int) (prev : Option Pic) (b : Nat) : Int × Int :=
  if b % bw ≠ 0 && decide (b % bw + 1 < bw) && decide (bw ≤ b) && decoded (b - 1) && decoded (b - bw) && decoded (b - bw + 1) then
    medianVec (vec (b - 1)) (vec (b - bw)) (vec (b - bw + 1))
  else ((prev.bind fun p => (p.vecs[b]?).join)).getD (0, 0)

/-- A vector in its standard's units toward zero to whole samples: eighths in AV1, quarters in HEVC and AVC (R318, R341). -/
def wholeSamples (d : BitVec 1024) (v : Int × Int) : Int × Int :=
  let u : Int := if dAv1 d then 8 else 4
  (v.1.tdiv u, v.2.tdiv u)

/-- A concealed sample of a plane: the previous decoded picture's at the moved place, clamped at its edges, or mid-grey (R341). -/
def concealSample (conceal depth10 : Bool) (prev : Option Pic) (plane : Nat) (v : Int × Int) (x y : Nat) : Nat :=
  let grey := if depth10 then 512 else 128
  match prev with
  | none => grey
  | some p =>
    if !conceal then grey
    else
      let half (i : Int) : Int := if plane = 0 then i else i / 2 + (if i % 2 ≠ 0 && Config.roundsUp 2 i then 1 else 0)
      let (w, h) := if plane = 0 then (p.w, p.h) else (p.w / 2, p.h / 2)
      let x1 := (clampInt 0 (w - 1) (x + half v.1)).toNat
      let y1 := (clampInt 0 (h - 1) (y + half v.2)).toNat
      (p.planes.getD plane []).getD (y1 * w + x1) grey

/-- The picture decoded from a unit with references pics, newest first: samples, vectors and taint of its blocks (R339-R342). -/
def decodePicture (d : BitVec 1024) (past : List FrameIn) (q : SeqHeader) (u : UnitRead) (pics : List Pic) : Pic :=
  let (w, h) := if u.frameBad then (q.w, q.h) else (min u.w q.w, min u.h q.h)
  let bw := ceilDiv w 16
  let done := if u.frameBad then [] else (decodeParts false u.parts).1
  let decoded (b : Nat) : Bool := done.contains b
  let prev := pics.head?
  let read := Config.readBlock d past
  let cvec := concealVec bw decoded (fun b => (read b).vec) prev
  let sample (plane x y : Nat) : Nat :=
    let b := if plane = 0 then y / 16 * bw + x / 16 else y / 8 * bw + x / 8
    (if decoded b then Config.readSample d past plane x y
      else concealSample (bit d 4) q.depth10 prev plane (wholeSamples d (cvec b)) x y) % (if q.depth10 then 1024 else 256)
  let tainted (b : Nat) : Bool :=
    !decoded b || (!(read b).intra && !u.key && (read b).reads.any fun r => (pics[r.1]?.bind fun p => p.taint[r.2]?).getD false)
  let blocks := List.range (blocksOf w h)
  { w := w, h := h, depth10 := q.depth10,
    planes := [0, 1, 2].map fun c => (List.range (if c = 0 then h else h / 2)).flatMap fun y =>
      (List.range (if c = 0 then w else w / 2)).map fun x => sample c x y
    vecs := blocks.map fun b => if !decoded b then some (cvec b) else if (read b).intra then none else some (read b).vec
    taint := blocks.map tainted }

/-- Blocks of a picture that were decoded, and those damaged. -/
def decodedBlocks (u : UnitRead) (p : Pic) : Nat × Nat :=
  let done := if u.frameBad then [] else (decodeParts false u.parts).1
  let n := ((List.range (blocksOf p.w p.h)).filter done.contains).length
  (n, blocksOf p.w p.h - n)

/-- The rows of an output picture with their offsets: NV12 or P010, with film grain where the frame signals it and the session asks for
it (R319, R332). -/
def outRows (d : BitVec 1024) (past : List FrameIn) (u : UnitRead) (p : Pic) : List (Nat × List Byte) :=
  let pitch := bits d 64 16
  let top := if p.depth10 then 1024 else 256
  let sample (c x y : Nat) : Nat :=
    let v := (p.planes.getD c []).getD (y * (if c = 0 then p.w else p.w / 2) + x) 0
    if dAv1 d && bit d 3 && u.grain then Config.grained d past c x y v % top else v
  let put (v : Nat) : List Byte :=
    if bit d 2 then leBytes 2 (64 * (if p.depth10 then v else Config.widened v % 1024)) else leBytes 1 v
  ((List.range p.h).map fun y => (y * pitch, (List.range p.w).flatMap fun x => put (sample 0 x y))) ++
  (List.range (p.h / 2)).map fun y => (bits d 80 32 + y * pitch, (List.range (p.w / 2)).flatMap fun x => put (sample 1 x y) ++ put (sample 2 x y))

/-- Row stride of a damage map of a picture w wide (R342). -/
def taintStride (w : Nat) : Nat := roundUp (ceilDiv (ceilDiv w 16) 8) 64

/-- The damage map of a picture: a bit per block (R342). -/
def taintMap (p : Pic) : List Byte :=
  let bw := ceilDiv p.w 16
  (List.range (ceilDiv p.h 16)).flatMap fun r => (List.range (taintStride p.w)).map fun k =>
    BitVec.ofNat 8 (((List.range 8).map fun i =>
      if 8 * k + i < bw && p.taint.getD (r * bw + 8 * k + i) false then 2 ^ i else 0).sum)

end Sys2Proof.Machine
end

