-- ==== Sys2Proof/Machine/Video.lean ====
section
/-! DEFINITION. The video engines: rings, jobs, sessions, completion records (R317-R347). What an engine codes or decodes is in
Machine/Codec.lean. -/

namespace Sys2Proof.Machine

/-! ### Rings (R323, R324, R346) -/

/-- Engines 0 to 5 encode, 6 to 9 decode. -/
def isEncoder (e : Nat) : Bool := decide (e < 6)
/-- Ring size, base and enable of VID_RING, and size of VID_CPL. -/
def ringLog (r : W64) : Nat := bits r 48 4
/-- Base of a ring. -/
def ringBase (r : W64) : Nat := bits r 0 48
/-- A ring size of 2^4 to 2^12 entries. -/
def logOk (n : Nat) : Bool := decide (4 ≤ n) && decide (n ≤ 12)

/-- A write of VID_RING (R323, R346, R441, R442). -/
def State.writeVidRing (s : State) (e : Nat) (v : W64) : State :=
  let x := s.engine e
  let v : W64 := BitVec.ofNat 64 (bits v 0 53)
  let changed := decide (bits v 0 52 ≠ bits x.ring 0 52)
  let on := bit v 52
  if !logOk (ringLog v) || decide (ringBase v % 4096 ≠ 0) || (bit x.ring 52 && changed) ||
      (on && decide (bits x.cpl 48 4 < ringLog v)) || (on && x.withheld) then s.regRefused
  else
    s.modEngine e fun y =>
      if on && !bit x.ring 52 then { y with ring := v, head := 0, waiting := false } else { y with ring := v }

/-- A write of VID_CPL (R346). -/
def State.writeVidCpl (s : State) (e : Nat) (v : W64) : State :=
  let x := s.engine e
  let v : W64 := BitVec.ofNat 64 (bits v 0 52)
  if !logOk (ringLog v) || decide (ringBase v % 4096 ≠ 0) || (bit x.ring 52 && decide (v ≠ x.cpl)) then s.regRefused
  else s.modEngine e fun y => { y with cpl := v }

/-- VID_RING_WRITE. Engines 10 to 15 do not exist, and their offsets drop writes (R480). -/
def execVidRingWrite (eng : EngineId) (cpl : Bool) (v : W64) (s : State) : Res :=
  let e := eng.toNat
  .next (if 10 ≤ e then s
    else if s.boot.phase ≠ .running then s.earlyRing (!cpl && bit v 52)
    else if cpl then s.writeVidCpl e v else s.writeVidRing e v)

/-- VID_DB: the engine looks at its head entry again. -/
def execVidDb (eng : EngineId) (s : State) : Res :=
  .next (if 10 ≤ eng.toNat ∨ s.boot.phase ≠ .running then s else s.modEngine eng.toNat fun x => { x with waiting := false })

/-! ### Jobs (R325, R326) -/

/-- op of a job. -/
def jOp (j : BitVec 512) : Nat := bits j 16 2
/-- session of a job. -/
def jSession (j : BitVec 512) : Nat := bits j 18 4
/-- in_addr. -/
def jIn (j : BitVec 512) : Nat := bits j 64 48
/-- out_addr. -/
def jOut (j : BitVec 512) : Nat := bits j 128 64
/-- len. -/
def jLen (j : BitVec 512) : Nat := bits j 192 32
/-- roi_addr. -/
def jRoi (j : BitVec 512) : Nat := bits j 224 48
/-- aux_addr. -/
def jAux (j : BitVec 512) : Nat := bits j 272 48

/-- Session slot k of an engine. -/
def Engine.session (x : Engine) (k : Nat) : Option Session := tget none x.sessions k

/-- Bytes of the input picture of an encode session (R332). -/
def inBytes (d : BitVec 1024) : Nat :=
  let pitch := bits d 80 16
  let h := bits d 32 16
  if bits d 3 3 ≤ 1 then max (pitch * h) (bits d 96 32 + pitch * ceilDiv h 2) else pitch * h

/-- Bytes of a hint map (R337). -/
def hintBytes (d : BitVec 1024) : Nat := ceilDiv (dOutH d) 16 * hintStride d
/-- Luma and chroma extents of a decoded picture, as offset and length (R332). -/
def outPlanes (d : BitVec 1024) : List (Nat × Nat) :=
  let pitch := bits d 64 16
  let h := bits d 32 16
  [(0, pitch * h), (bits d 80 32, pitch * ceilDiv h 2)]
/-- Bytes of a damage map (R342). -/
def taintBytes (d : BitVec 1024) : Nat :=
  ceilDiv (bits d 32 16) 16 * taintStride (bits d 16 16)

/-- Addresses a job uses, to be 128-byte aligned (step 3 of R326). -/
def jobAddrs (enc : Bool) (j : BitVec 512) : List Nat :=
  if jOp j = 1 then [jIn j]
  else if jOp j = 2 then
    [jIn j, jOut j] ++ (if enc && bit j 24 then [jRoi j] else []) ++ (if bit j 25 then [jAux j] else [])
  else []

/-- The bitstream buffer of an encode job lies in a live device's stack (step 4 of R326). -/
def State.outOk (s : State) (j : BitVec 512) : Bool :=
  s.isLive (jOut j / 2 ^ 48) && (inStack (jOut j % 2 ^ 48) (jLen j) || decide (jLen j = 0))

/-- The buffers of a job lie in the stack (step 4 of R326). -/
def State.jobFits (s : State) (enc : Bool) (j : BitVec 512) (x : Option Session) : Bool :=
  if jOp j = 1 then inStack (jIn j) 128
  else
    match x with
    | none => true
    | some x =>
      let d := x.desc
      if jOp j ≠ 2 then true
      else if enc then
        let (rows, stride) := roiShape d
        inStack (jIn j) (inBytes d) && s.outOk j && (!bit j 24 || inStack (jRoi j) (rows * stride)) &&
        (!bit j 25 || inStack (jAux j) (hintBytes d))
      else
        (decide (jLen j = 0) || inStack (jIn j) (jLen j)) && decide (jOut j < 2 ^ 48) &&
        (outPlanes d).all (fun p => inStack (jOut j + p.1) p.2) && (!bit j 25 || inStack (jAux j) (taintBytes d))

/-- The refusal of a job (R326); 0 accepts. -/
def State.jobErr (s : State) (e : Nat) (j : BitVec 512) : Code :=
  let enc := isEncoder e
  let x := (s.engine e).session (jSession j)
  let flags := if jOp j = 2 then enc || (!bit j 23 && !bit j 24) else decide (bits j 23 3 = 0)
  if jOp j = 0 || decide (bits j 26 6 ≠ 0) || decide (bits j 112 16 ≠ 0) || decide (bits j 320 192 ≠ 0) || !flags then eOperand
  else if x.isSome != decide (jOp j ≠ 1) then eState
  else if (jobAddrs enc j).any (fun a => decide (a % 128 ≠ 0)) then eAlign
  else if !s.jobFits enc j x then eBounds
  else 0

/-- A job just taken. -/
def Job.new (j : BitVec 512) (t : W64) : Job := ⟨j, t, 0, 0, 0, 0, 0, 0, 0, 0, false⟩

/-- VID_JOB_TAKE: a free, enabled engine looks at its head entry (R322, R324). An entry of another seq makes it wait for
VID_DB; a refused job's record is due at once. -/
def execVidJobTake (eng : EngineId) (s : State) : Res :=
  let e := eng.toNat
  let x := s.engine e
  if 10 ≤ e || !s.up || !bit x.ring 52 || x.job.isSome || x.waiting then .next s
  else
    let a := ringBase x.ring + 64 * (x.head.toNat % 2 ^ ringLog x.ring)
    let j : BitVec 512 := BitVec.ofNat 512 (s.num a 64)
    if bits j 0 16 ≠ x.head.toNat then
      .next ((s.modEngine e fun x => { x with waiting := true }).count evVidRingWait (.engine e) none 1)
    else
      let job := Job.new j s.time
      let err := if (s.poisonIn a 64).isSome then eStackUe else s.jobErr e j
      if err = 0 then .next (s.modEngine e fun x => { x with job := some job })
      else
        .next ((s.modEngine e fun x => { x with
          job := some { job with status := err, finished := true }, refused := satInc x.refused }).count evVidJobRefused
            (.engine e) none 1)

/-- Work on the job in progress of an engine, if it is of this op and not finished. -/
def State.onJob (s : State) (e op : Nat) (enc : Option Bool) (k : State → Job → State) : State :=
  let x := s.engine e
  if 10 ≤ e || !s.up then s
  else
    match x.job with
    | none => s
    | some j =>
      if j.finished || decide (jOp j.entry ≠ op) || enc.any (fun b => b != isEncoder e) then s else k s j

/-- Finish the job of an engine. -/
def State.endJob (s : State) (e : Nat) (j : Job) : State :=
  s.modEngine e fun x => { x with job := some { j with finished := true } }

/-- Replace a session of an engine. -/
def State.setSession (s : State) (e k : Nat) (x : Option Session) : State :=
  s.modEngine e fun y => { y with sessions := tput y.sessions k x }

/-! ### Sessions (R321, R328-R331) -/

/-- Bytes of a frame store of a w by h session (R330). -/
def storeBytes (w h depth10 : Nat) : Nat :=
  let w64 := roundUp w 64
  let h64 := roundUp h 64
  roundUp (w64 * (1 + depth10)) 128 * h64 * 3 / 2 + w64 / 16 * (h64 / 16) * 16

/-- A coded picture size of R317. -/
def sizeOk (w h : Nat) : Bool :=
  decide (64 ≤ w) && decide (w ≤ 4096) && decide (64 ≤ h) && decide (h ≤ 2304) && decide (w % 2 = 0) && decide (h % 2 = 0) &&
  decide (w * h ≤ 8912896)

/-- Declared blocks per second of a session (R321). -/
def sessionRate (enc : Bool) (d : BitVec 1024) : Nat :=
  if enc then blocksOf (dOutW d) (dOutH d) * bits d 232 8 else blocksOf (bits d 16 16) (bits d 32 16) * bits d 48 8

/-- Input width and height of an encode session after rotation (R329). -/
def inSize (d : BitVec 1024) : Nat × Nat :=
  if bits d 6 2 % 2 = 1 then (bits d 32 16, bits d 16 16) else (bits d 16 16, bits d 32 16)

/-- A scaling ratio in [1/8, 2]. -/
def ratioOk (out in_ : Nat) : Bool := decide (in_ ≤ 8 * out) && decide (out ≤ 2 * in_)

/-- Frame stores a session needs, and bytes of one (R330). -/
def storesOf (enc : Bool) (d : BitVec 1024) : Nat × Nat :=
  if enc then (bits d 266 2 + 1, storeBytes (dOutW d) (dOutH d) (bits d 2 1))
  else (bits d 112 5, storeBytes (bits d 16 16) (bits d 32 16) (bits d 2 1))

/-- Steps 1 and 2 of R328 for an encode session. -/
def encodeErr (d : BitVec 1024) : Code :=
  let codec := bits d 0 2
  let q := bits d 136 8
  let (w, h) := inSize d
  if !(codec = 1 || decide (codec = 2)) || decide (3 < bits d 3 3) then eFormat
  else if [(12, 4), (130, 6), (225, 7), (270, 2), (352, 672)].any (fun r => decide (bits d r.1 r.2 ≠ 0)) ||
      decide (bits d 232 8 = 0) || decide (240 < bits d 232 8) ||
      (if codec = 1 then decide (q = 0) else decide (51 < q)) || decide (bits d 128 2 = 3) || decide (bits d 240 2 = 3) ||
      (decide (bits d 240 2 ≠ 0) && decide (bits d 242 8 < 2)) || decide (bits d 268 2 = 3) ||
      !ratioOk (dOutW d) w || !ratioOk (dOutH d) h then eOperand
  else 0

/-- Steps 1 and 2 of R328 for a decode session. -/
def decodeErr (d : BitVec 1024) : Code :=
  if bits d 0 2 = 0 then eFormat
  else if [(5, 11), (56, 8), (117, 11), (208, 816)].any (fun r => decide (bits d r.1 r.2 ≠ 0)) || decide (bits d 48 8 = 0) ||
      decide (240 < bits d 48 8) || decide (bits d 112 5 < 2) || decide (17 < bits d 112 5) then eOperand
  else 0

/-- Reference area of a session: address and bytes. -/
def refArea (enc : Bool) (d : BitVec 1024) : Nat × Nat :=
  if enc then (bits d 272 48, bits d 320 32) else (bits d 128 48, bits d 176 32)

/-- The refusal of OPEN (R328); 0 accepts. -/
def State.openErr (s : State) (e : Nat) (d : BitVec 1024) : Code :=
  let enc := isEncoder e
  let first := if enc then encodeErr d else decodeErr d
  let (w, h) := if enc then (dOutW d, dOutH d) else (bits d 16 16, bits d 32 16)
  let (pitch, chroma) := if enc then (bits d 80 16, bits d 96 32) else (bits d 64 16, bits d 80 32)
  let (ra, rl) := refArea enc d
  let (n, f) := storesOf enc d
  let load := ((s.engine e).sessions.map fun x => match x.2 with
    | some y => sessionRate enc y.desc
    | none => 0).sum + sessionRate enc d
  if first ≠ 0 then first
  else if !sizeOk w h then eBounds
  else if pitch % 128 ≠ 0 || decide (chroma % 128 ≠ 0) || decide (ra % 128 ≠ 0) then eAlign
  else if rl < n * f || !inStack ra rl then eBounds
  else if (if enc then 4000000 else 8000000) < load then eBusy
  else 0

/-- The frame stores of a session hold what its engine left there. -/
def State.useStores (s : State) (enc : Bool) (d : BitVec 1024) : State :=
  let (ra, _) := refArea enc d
  let (n, f) := storesOf enc d
  s.unspecify ra (ra + n * f)

/-- VID_OPEN. -/
def execVidOpen (eng : EngineId) (s : State) : Res :=
  let e := eng.toNat
  .next (s.onJob e 1 none fun s j =>
    let d : BitVec 1024 := BitVec.ofNat 1024 (s.num (jIn j.entry) 128)
    let err := if (s.poisonIn (jIn j.entry) 128).isSome then eStackUe else s.openErr e d
    if err ≠ 0 then s.endJob e { j with status := err }
    else ((s.setSession e (jSession j.entry) (some (Session.new d))).useStores (isEncoder e) d).endJob e j)

/-- VID_CLOSE. -/
def execVidClose (eng : EngineId) (s : State) : Res :=
  let e := eng.toNat
  .next (s.onJob e 3 none fun s j => (s.setSession e (jSession j.entry) none).endJob e j)

/-! ### Encoding (R333-R338, R343-R345) -/

/-- A region-of-interest map holds only offsets from -15 to 15 (R334). -/
def State.roiOk (s : State) (a : Nat) (d : BitVec 1024) : Bool :=
  let (rows, stride) := roiShape d
  (List.range rows).all fun r => (List.range (ceilDiv (dOutW d) 16)).all fun k =>
    let b := (s.byte (a + r * stride + k)).toNat
    decide (b / 32 = 0) && decide (b ≠ 16)

/-- The next picture of an encode session is a key picture: the first, one of the key flag, or one after key_int others (R329, R338). -/
def Session.keyNext (x : Session) (flag : Bool) : Bool :=
  let ki := bits x.desc 250 16
  !x.hasRef || flag || (decide (ki ≠ 0) && decide (ki ≤ x.sinceKey))

/-- Buffers an encode job reads. -/
def encReads (d : BitVec 1024) (j : BitVec 512) : List (Nat × Nat) :=
  (jIn j, inBytes d) ::
  ((if bit j 24 then [(jRoi j, (roiShape d).1 * (roiShape d).2)] else []) ++ (if bit j 25 then [(jAux j, hintBytes d)] else []))

/-- Bytes of an engine written to an address of any device. -/
def State.vidWrite (s : State) (a : Nat) (bs : List Byte) : State :=
  if bs.isEmpty then s
  else if a / 2 ^ 48 = s.own then s.storePlain (a % 2 ^ 48) bs
  else s.sendLines .posted (a / 2 ^ 48) (a % 2 ^ 48) bs

/-- What an encode job reads: its coded picture, and its maps where it has them (R333, R334, R337). -/
def State.encodeInput (s : State) (d : BitVec 1024) (j : BitVec 512) : FrameIn :=
  let rd (a i : Nat) : Nat := (s.byte (a + i)).toNat
  .picture j (codedPlanes (rd (jIn j)) d) (if bit j 24 then roiOffsets (rd (jRoi j)) d else [])
    (if bit j 25 then hintVecs (rd (jAux j)) d else [])

/-- The reference vectors of a session after a coded picture: a key picture ends the use of those before it. -/
def Session.nextRefs (x : Session) (p : PictureCode) : List (List (Option Vec)) :=
  let own := p.blocks.map fun b => b.preds.head?.map Prod.snd
  if p.key then [own] else (own :: x.refs).take (max 1 (bits x.desc 266 2))

/-- VID_FRAME_ENCODE: the picture is coded, or dropped where its bitstream is too long, its map is wrong or its input
poisoned (R333-R338, R345). -/
def execVidFrameEncode (eng : EngineId) (s : State) : Res :=
  let e := eng.toNat
  .next (s.onJob e 2 (some true) fun s j =>
    match (s.engine e).session (jSession j.entry) with
    | none => s.endJob e { j with status := eState }
    | some x =>
      let d := x.desc
      let j := { j with picture := BitVec.ofNat 32 x.pictures }
      if bit j.entry 24 && !s.roiOk (jRoi j.entry) d then s.endJob e { j with status := eOperand }
      else if (encReads d j.entry).any fun r => (s.poisonIn r.1 r.2).isSome then
        (((s.count evVidOutFull (.engine e) none 1).setSession e (jSession j.entry)
          (some { x with pictures := x.pictures + 1 })).endJob e { j with status := eStackUe })
      else
        let key := x.keyNext (bit j.entry 23)
        let f := if key then 0 else x.sinceKey + 1
        let cyc := if sweeps d && decide (0 < f) then (f - 1) % bits d 242 8 else 0
        let past := x.past ++ [s.encodeInput d j.entry]
        let code := codePicture d past key cyc x.refs
        let bs := pictureBytes d past (codedUnits d f cyc code)
        let j := { j with
          cycle := BitVec.ofNat 16 cyc, bytes := BitVec.ofNat 32 bs.length, kind := if key then 0 else if sweeps d then 2 else 1,
          q := meanQuant code, blocksA := BitVec.ofNat 32 (code.blocks.filter BlockCode.intra).length }
        let s := (s.useStores true d).count evVidBlocks (.engine e) none (blocksOf (dOutW d) (dOutH d))
        let y := { x with pictures := x.pictures + 1, past := past }
        if jLen j.entry < bs.length then
          ((((s.vidWrite (jOut j.entry) ((Config.cutStream d past).take (jLen j.entry))).count evVidOutFull (.engine e) none 1).setSession
            e (jSession j.entry) (some y)).endJob e { j with status := eBounds })
        else
          ((s.vidWrite (jOut j.entry) bs).setSession e (jSession j.entry)
            (some { y with sinceKey := f, hasRef := true, refs := x.nextRefs code })).endJob e j)

/-! ### Decoding (R339-R344) -/

/-- What a decode job reads: its bitstream and the offsets of its poisoned bytes (R345). -/
def State.decodeInput (s : State) (j : BitVec 512) : FrameIn :=
  .unit j (s.bytes (jIn j) (jLen j)) ((List.range (jLen j)).filter fun i => (s.poisonIn (jIn j + i) 1).isSome)

/-- What a session does with a unit: its sequence header after it, what it then waits for, and whether it decodes a picture (R319). -/
def Session.admits (x : Session) (u : UnitRead) : Option SeqHeader × Discard × Bool :=
  let bad := u.seqBad || u.seq.any (seqRefused x.desc)
  let seq := if bad then x.seq else u.seq.or x.seq
  let want := if bad then .header else if x.want = .header && u.seq.isSome then .key else x.want
  let go := !bad && (decide (want = .nothing) || (decide (want = .key) && u.key && u.frame))
  (seq, if go then .nothing else want, go && u.frame)

/-- The error a decode job reports and the errors it counts: a refused sequence header, then errors of the data (R319, R339). Data
that is discarded shows none; a unit without any sequence header refers to a missing one. -/
def Session.decodeErrs (x : Session) (u : UnitRead) : Code × Nat :=
  let (seq, _, shown) := x.admits u
  let n := if u.seqBad then 1
    else if shown then (if seq.isNone || u.frameBad then 1 else (decodeParts false u.parts).2) else 0
  (if !u.seqBad && u.seq.any (seqRefused x.desc) then eVidLevel else if n ≠ 0 then eVidSyntax else 0, n)

/-- VID_FRAME_DECODE: one unit is decoded with what the bitstream shows; no error faults anything (R339-R345). ic is the time
the job has taken, at most that of R322. -/
def execVidFrameDecode (eng : EngineId) (ic : Nat) (s : State) : Res :=
  let e := eng.toNat
  .next (s.onJob e 2 (some false) fun s j =>
    match (s.engine e).session (jSession j.entry) with
    | none => s.endJob e { j with status := eState }
    | some x =>
      let d := x.desc
      let past := x.past ++ [s.decodeInput j.entry]
      let u := Config.readUnit d past
      let (seq, want, shown) := x.admits u
      let (err, errs) := x.decodeErrs u
      let status := if jLen j.entry ≠ 0 && (s.poisonIn (jIn j.entry) (jLen j.entry)).isSome then eStackUe else err
      let j := { j with
        status := status, bytes := BitVec.ofNat 32 (min u.consumed (jLen j.entry)), picture := BitVec.ofNat 32 x.pictures, q := u.q }
      let s := ((s.useStores false d).count evVidSyntaxErr (.engine e) none errs).count evVidBusyIc (.engine e) none
        (min ic (blocksOf (bits d 16 16) (bits d 32 16) * 224 + 40000))
      let y := { x with past := past, seq := seq, want := want }
      match if shown then seq else none with
      | none => (s.setSession e (jSession j.entry) (some y)).endJob e { j with kind := 3 }
      | some q =>
        let p := decodePicture d past q u x.pics
        let (done, damaged) := decodedBlocks u p
        let s := (outRows d past u p).foldl (fun s r => s.storePlain (jOut j.entry + r.1) r.2) s
        let s := if bit j.entry 25 then s.storePlain (jAux j.entry) (taintMap p) else s
        let s := (s.count evVidBlocks (.engine e) none done).count evVidConcealBlocks (.engine e) none damaged
        (s.setSession e (jSession j.entry) (some { y with
          pictures := x.pictures + 1, hasRef := true, pics := (p :: x.pics).take (bits d 112 5) })).endJob e { j with
            kind := if u.key then 0 else 1, blocksA := BitVec.ofNat 32 damaged,
            blocksB := BitVec.ofNat 32 (p.taint.filter id).length })

/-! ### Completion (R344) -/

/-- The completion record of a job with ring index i, written at time t. -/
def Job.record (j : Job) (i : BitVec 16) (t : W64) : List Byte :=
  leBytes 64 (i.toNat + jOp j.entry * 2 ^ 16 + jSession j.entry * 2 ^ 18 + bits j.entry 32 32 * 2 ^ 32 + j.status.toNat * 2 ^ 64 +
    j.cycle.toNat * 2 ^ 80 + j.bytes.toNat * 2 ^ 96 + j.picture.toNat * 2 ^ 128 + j.kind.toNat * 2 ^ 160 + j.q.toNat * 2 ^ 168 +
    j.blocksA.toNat * 2 ^ 176 + j.blocksB.toNat * 2 ^ 208 + j.tStart.toNat * 2 ^ 240 + t.toNat * 2 ^ 304)

/-- VID_JOB_COMPLETE: the record of a finished job is written, the head moves on, and the engine's cause may be raised. -/
def execVidJobComplete (eng : EngineId) (s : State) : Res :=
  let e := eng.toNat
  let x := s.engine e
  match x.job with
  | none => .next s
  | some j =>
    if 10 ≤ e || !s.up || !j.finished then .next s
    else
      let s := s.storePlain (ringBase x.cpl + 64 * (x.head.toNat % 2 ^ ringLog x.cpl)) (j.record x.head s.time)
      let s := s.modEngine e fun x => { x with
        job := none, head := x.head + 1, lastErr := if j.status = 0 then x.lastErr else j.status }
      let s := s.count evVidJobs (.engine e) none 1
      let ticks := (s.time.toNat - j.tStart.toNat) * 9 / 5
      let s := if isEncoder e || decide (jOp j.entry ≠ 2) then
          (s.count evVidBusyIc (.engine e) none (s.freeW.toNat % (ticks + 1))).takeFree
        else s
      .next (if bit j.entry 22 then s.raise (64 + e) else s)

end Sys2Proof.Machine
end

