-- ==== Sys2Proof/Machine/Boot.lean ====
section
/-! DEFINITION. Boot authentication, the power-on sequence and the kinds of reset (R418-R451, log 49, DEDUCED). -/

namespace Sys2Proof.Machine

/-! ### Images (R433-R436) -/

/-- Key slot k is provisioned. -/
def State.keyFused (_s : State) (k : Nat) : Bool := decide (k < 4) && Config.keyProvisioned k

/-- The check of an image of a kind in `size` bytes, which `get` reads by offset and length; 0 accepts (R435). -/
def State.imageCheck (s : State) (kind size : Nat) (get : Nat → Nat → List Byte) : Code :=
  let n (o k : Nat) : Nat := leNat (get o k)
  let len := n 8 4
  let zero (o k : Nat) : Bool := (get o k).all fun b => decide (b = 0)
  let key := n 5 1
  if n 0 4 ≠ imageMagic || n 4 1 ≠ kind || !zero 0x00C 52 || !zero 0x070 272 || !zero 0x1E0 32 || len = 0 ||
      16776704 < len || size < 512 + len then eBootImage
  else if !s.keyFused key || s.revoked key ||
      (sha384 (get 512 97)) ≠ (leBytes 48 (Config.keyDigest key).toNat).reverse then eBootSig
  else if sha384 (get 512 len) ≠ get 0x040 48 then eBootImage
  else if n 512 1 ≠ 4 ||
      !ecdsaOk (beNat (get 513 48), beNat (get 561 48)) (sha384 (get 0 0x180)) (beNat (get 0x180 48)) (beNat (get 0x1B0 48))
    then eBootSig
  else if n 6 2 < s.sec.floor.toNat then eBootRollback
  else 0

/-- The check of a flash region of 16 MiB. -/
def State.flashCheck (s : State) (base kind : Nat) : Code :=
  s.imageCheck kind 0x1000000 fun o k => s.flashBytes (base + o) k

/-- The security version of an image slot. -/
def State.slotSvn (s : State) (b : Bool) : BitVec 16 := BitVec.ofNat 16 (leNat (s.flashBytes (slotBase b + 6) 2))

/-- The boot ROM tries slot A, then slot B, and enters recovery if neither passes (R436). -/
def State.bootRom (s : State) : State :=
  let a := s.flashCheck 0 1
  let run (b : Bool) (e : Code) : State :=
    { s with boot := { s.boot with imageOk := true, slot := b, svn := s.slotSvn b, err := e, phase := .image } }.deriveKeys
  if a = 0 then run false 0
  else if s.flashCheck 0x1000000 1 = 0 then run true a
  else { s with boot := { s.boot with imageOk := false, err := a, phase := .recovery } }

/-- Step 5 of R437: rails good; the link trains once PERST# is released (R443). -/
def State.railsUp (s : State) : State :=
  let s := { s with hif := { s.hif with linkUp := s.pins.pwrGood && !s.pins.perst } }
  if s.pins.pwrGood && s.boot.phase = .image then { s with boot := { s.boot with phase := .rails } } else s

/-! ### What resets leave (R447, R448) -/

/-- The machine with power gone: fuses, flash and what lies outside remain. -/
def State.dark (s : State) : State :=
  let s := s.breakUpdate
  { State.reset with
    pending := s.pending, freeCtr := s.freeCtr, out := s.out
    repairs := s.repairs.filter fun e => decide (e.1 / 128 % 4 = 0)
    boot := { State.reset.boot with flash := s.boot.flash }
    sec := { State.reset.sec with revoked := s.sec.revoked, floor := s.sec.floor }
    pins := { State.reset.pins with pwrEn := s.pins.pwrEn, perst := s.pins.perst, prsnt := s.pins.prsnt } }

/-- A cold reset by PWR_EN: the standby domain, COB_TIME and MOD_PINS keep running, and the image stays verified (R447). A
rejection of slot A shows again in err. -/
def State.coldReset (s : State) : State :=
  let s := s.breakUpdate
  let b := s.boot
  let slotA := if b.slot then s.flashCheck 0 1 else 0
  { s.dark with
    time := s.time, timeHi := s.timeHi
    hif := { Hif.reset with eidSmb := s.hif.eidSmb }
    sec := { State.reset.sec with revoked := s.sec.revoked, floor := s.sec.floor, bootKey := s.sec.bootKey }
    pins := { s.pins with pwrEn := false, pwrGood := false, corePower := false }
    boot := { State.reset.boot with
      flash := b.flash, imageOk := b.imageOk, slot := b.slot, svn := b.svn, lastReset := 1
      phase := if b.imageOk then .image else .recovery
      err := if b.phase = .failed then slotA else b.err } }

/-- A warm reset: COB_TIME, fault records and the counts since cold reset stay; the boot ROM starts again (R447, R448). -/
def State.warmReset (s : State) : State :=
  let s1 := { s.dark with
    time := s.time, timeHi := s.timeHi
    clusters := s.clusters.map fun (e : Nat × Cluster) => (e.1, { Cluster.reset with failCount := e.2.failCount })
    vaults := s.vaults.map fun (e : Nat × Vault) => (e.1, { Vault.reset with ce := e.2.ce, ue := e.2.ue })
    ports := s.ports.map fun (e : Nat × Port) => (e.1, { Port.reset with retries := e.2.retries, downs := e.2.downs })
    weir := { Weir.reset with reasonNs := s.weir.reasonNs }
    hif := { Hif.reset with eidSmb := s.hif.eidSmb }
    pins := { s.pins with corePower := s.pins.pwrEn }
    flt := { State.reset.flt with
      latch := s.flt.latch, records := s.flt.records, read := s.flt.read, next := s.flt.next, overrun := s.flt.overrun }
    boot := { State.reset.boot with flash := s.breakUpdate.boot.flash, lastReset := 2 } }
  s1.bootRom.railsUp

/-! ### Supply and side-band pins (R420, R421, R427, R437) -/

/-- VIN_RISE: the standby domain starts, SLOT_ID is sampled, the boot ROM runs. Where PWR_EN is high already the rails follow
(log 49, DEDUCED). -/
def execVinRise (slotId : BitVec 4) (s : State) : Res :=
  if s.pins.standby then .next s
  else
    let d := s.dark
    let s1 := { d with pins := { d.pins with
      standby := true, slotId := slotId, corePower := d.pins.pwrEn, pwrGood := d.pins.pwrEn } }
    .next s1.bootRom.railsUp

/-- VIN_UNDERVOLT: every rail is off, standby included. -/
def execVinUndervolt (s : State) : Res := .next (if s.pins.standby then s.dark else s)

/-- VIN_OVERVOLT: every rail is off, standby included. -/
def execVinOvervolt (s : State) : Res := .next (if s.pins.standby then s.dark else s)

/-- PWR_EN_RISE: core and stack rails turn on, PWR_GOOD is released if they are in regulation, THERM_TRIP# too (R421). -/
def execPwrEnRise (good : Bool) (s : State) : Res :=
  if s.pins.pwrEn then .next s
  else if !s.pins.standby then .next { s with pins := { s.pins with pwrEn := true } }
  else
    .next { s with pins := { s.pins with pwrEn := true, corePower := true, pwrGood := good, thermTrip := false } }.railsUp

/-- PWR_EN_FALL: a cold reset that keeps the standby domain. -/
def execPwrEnFall (s : State) : Res :=
  if !s.pins.pwrEn then .next s
  else if !s.pins.standby then .next { s with pins := { s.pins with pwrEn := false } }
  else .next s.coldReset

/-- RAIL_OUT_OF_REGULATION: PWR_GOOD is low until PWR_EN falls. -/
def execRailOutOfRegulation (s : State) : Res := .next { s with pins := { s.pins with pwrGood := false } }

/-- PERST_ASSERT: SLOT_ID is sampled; with PWR_EN high a warm reset (R420, R421, R447). -/
def execPerstAssert (slotId : BitVec 4) (s : State) : Res :=
  let s1 := { s with pins := { s.pins with perst := true, slotId := if s.pins.standby then slotId else s.pins.slotId } }
  .next (if s1.pins.standby && s1.pins.pwrEn then s1.warmReset else s1)

/-- PERST_RELEASE: the host link trains if PWR_GOOD is released (R443). -/
def execPerstRelease (s : State) : Res :=
  .next { s with pins := { s.pins with perst := false } }.railsUp

/-! ### Start-up steps 6 to 10 (R437-R442) -/

/-- The start-up fails at its step (R442). -/
def State.bootFail (s : State) (e : Code) : State := { s with boot := { s.boot with phase := .failed, err := e } }
/-- A hardware failure, recorded with the part it names (R440, R442, log 49, DEDUCED). -/
def State.hwFail (s : State) (kind idx : Nat) : State :=
  (s.latchFault ⟨eBootHw, BitVec.ofNat 8 kind, BitVec.ofNat 16 idx, none, 0, 0⟩).bootFail eBootHw
/-- A step runs only if none before it failed. -/
def State.andThen (s : State) (f : State → State) : State := if s.boot.phase = .failed then s else f s
/-- A step is reached. -/
def State.enter (s : State) (p : Phase) : State := { s with boot := { s.boot with phase := p } }

/-- Number of set bits among the n low ones. -/
def ones (n : Nat) {w : Nat} (x : BitVec w) : Nat := ((List.range n).map fun i => b2n (bit x i)).sum

/-- Step 6: the repair data is verified, its fuse and soft entries and tier marks take effect. -/
def State.stepRepair (s : State) (i : StartupInput) : State :=
  let s := s.enter .repair
  let e := s.flashCheck 0x2000000 2
  if e ≠ 0 then s.bootFail e
  else
    let s := { s with repairs := i.repairs.foldl (fun (t : Table W64) (x : Nat × W64) =>
      if x.1 / 128 % 4 = 1 ∨ (x.1 / 128 % 4 = 0 ∧ tget 0 t x.1 = 0) then tput t x.1 x.2 else t) s.repairs }
    i.marks.foldl (fun s m => s.modVault m.1.toNat fun v => { v with failed := v.failed ||| m.2 }) s

/-- Lanes of a kind of a vault's tier that fail in training. -/
def badLanes (i : StartupInput) (v t : Nat) (bond : Bool) : List Nat :=
  (i.lanes.filter fun x => decide (x.vault.toNat = v) && decide (x.tier.toNat = t) && decide (x.bond = bond)).map fun x => x.lane.toNat

/-- The lane map of a tier: each failing lane, the first four of a kind, on a spare of its kind (R281, R282, R439). -/
def laneMap (i : StartupInput) (v t : Nat) : List W64 :=
  let kind (bond : Bool) : List W64 := ((badLanes i v t bond).take 4).zipIdx.map fun e =>
    BitVec.ofNat 64 (3 + t * 2 ^ 2 + e.1 * 2 ^ 10 + (e.2 + 4 * b2n bond) * 2 ^ 23)
  kind false ++ kind true

/-- Step 7: lane maps, tiers with more failing lanes of a kind than spares, the zero-filled stack. -/
def State.stepStack (s : State) (i : StartupInput) : State :=
  let s := s.enter .stack
  let s := { s with mem := [], unspec := [], poison := [] }
  let tiers := firstOnly [] (i.lanes.map fun x => (x.vault.toNat, x.tier.toNat))
  let s := tiers.foldl (fun s vt =>
    let s := { s with repairs := (laneMap i vt.1 vt.2).zipIdx.foldl (fun r e =>
      tput r ((vt.1 * 8 + vt.2) * 512 + 256 + e.2) e.1) s.repairs }
    if (badLanes i vt.1 vt.2 false).length ≤ 4 ∧ (badLanes i vt.1 vt.2 true).length ≤ 4 then s
    else (s.modVault vt.1 fun v => { v with failed := setBits v.failed vt.2 1 1 }).latchFault
      ⟨eStackTier, 6, BitVec.ofNat 16 vt.1, none, nameW 11 vt.1, BitVec.ofNat 64 vt.2⟩) s
  match s.vaults.find? fun (e : Nat × Vault) => decide (2 ≤ ones 6 e.2.failed) with
  | some e => s.hwFail 6 e.1
  | none => s

/-- CORE_SPARE of a cluster that the scan found so: the one failing core is spare, else the designated one. -/
def spareOf (i : StartupInput) (c : Nat) : W64 :=
  let fail := ((i.scanFail.find? fun e => decide (e.1.toNat = c)).map fun e => e.2.toNat).getD 0
  let des := ((i.spare.find? fun e => decide (e.1.toNat = c)).map fun e => e.2.toNat).getD 16
  let sp := ((List.range 17).find? fun k => decide (fail / 2 ^ k % 2 = 1)).getD (min 16 des)
  BitVec.ofNat 64 (sp + fail * 32)

/-- Physical cores of a CORE_SPARE word that failed. -/
def failMask (x : W64) : BitVec 17 := BitVec.ofNat 17 (bits x 5 17)

/-- Step 8: the scan, sparing and logical numbers (R440). -/
def State.stepSparing (s : State) (i : StartupInput) : State :=
  let s := s.enter .sparing
  let s := (List.range 32).foldl (fun s c => s.modCluster c fun x => { x with coreSpare := spareOf i c }) s
  match (List.range 32).find? fun c => decide (2 ≤ ones 17 (failMask (s.cluster c).coreSpare)) with
  | some c => s.hwFail 1 c
  | none => s

/-- Self-test of a cluster's cores: one that fails changes places with the spare, once (R441). -/
def State.respare (s : State) (c : Nat) (fail : BitVec 17) (again : Bool) : State :=
  let x := s.cluster c
  let sp := bits x.coreSpare 0 5
  let bad := setBits fail sp 1 0
  match (List.range 17).find? fun k => bit bad k with
  | none => s
  | some k =>
    let mask := failMask x.coreSpare ||| bad
    let s := s.modCluster c fun x => { x with coreSpare := BitVec.ofNat 64 (k + mask.toNat * 32 + 2 ^ 22) }
    if 2 ≤ ones 17 mask ∨ again then s.hwFail 1 c else s

/-- Step 9: self-test (R441). -/
def State.stepSelfTest (s : State) (i : StartupInput) : State :=
  let s := s.enter .selftest
  let s := i.selfFail.foldl (fun s e => s.andThen fun s => s.respare e.1.toNat e.2 (i.retestFail.contains e.1)) s
  let s := s.andThen fun s => match i.cacheFail with
    | some c => s.hwFail 1 c.toNat
    | none => s
  let s := s.andThen fun s =>
    let s := (List.range 32).foldl (fun s c =>
      s.startNoise c (match i.noise.find? fun e => decide (e.1.toNat = c) with
        | some e => e.2
        | none => [])) s
    i.sensorFail.foldl (fun s x =>
      ((s.modSensor x fun y => { y with failed := true }).latchFault ⟨eSensor, 7, BitVec.ofNat 16 x, none, nameW 11 x, 0⟩).raise 83) s
  let s := s.andThen fun s => match i.monitorFail with
    | some n => s.hwFail (s.islandSrc n.toNat).1 (s.islandSrc n.toNat).2
    | none => s
  s.andThen fun s =>
    let s := i.videoFail.foldl (fun s e => s.modEngine e.toNat fun x => { x with withheld := true }) s
    { s with weir := { s.weir with staticP := i.staticP, staticI := i.staticI } }

/-- Step 10: every fault so far is recorded. -/
def State.postRecords (s : State) : State := forN s.flt.latch.length (fun _ s => s.record) s

/-- A thermal trip ends the start-up (R450). -/
def State.tripBoot (s : State) : State :=
  let s := s.bootFail eThermalTrip
  { s with pins := { s.pins with corePower := false, thermTrip := true } }

/-- STARTUP_CONTINUE: steps 6 to 10, once the image is verified and PWR_GOOD released; a failure stops them (R442). -/
def execStartupContinue (inp : StartupInput) (s : State) : Res :=
  if s.boot.phase ≠ .rails || !s.pins.pwrGood || !s.pins.corePower then .next s
  else if inp.tripped then .next s.tripBoot
  else
    let s := (((s.stepRepair inp).andThen fun s => s.stepStack inp).andThen fun s => s.stepSparing inp).andThen fun s =>
      s.stepSelfTest inp
    .next ((s.postRecords).andThen fun s => s.enter .ready)

/-- HOST_ACK: accepted in READY only, else refused and counted (R444). -/
def State.hostAck (s : State) : State := if s.boot.phase = .ready then s.enter .running else s.regRefused

/-- HOST_ACK. -/
def execHostAck (s : State) : Res := .next (if s.hostUp then s.hostAck else s)

/-! ### Recovery and image update (R445, R446) -/

/-- BOOT_RCV_CTL takes the fields of a write that starts an operation. -/
def State.setRcv (s : State) (len : BitVec 25) (slot : Bool) : State :=
  { s with boot := { s.boot with rcvLen := len, rcvSlot := slot } }

/-- The operation ends. -/
def State.rcvEnd (s : State) (e : Code) : State := { s with boot := { s.boot with rcvDone := true, rcvErr := e } }

/-- Bytes of a list from an offset, 0 beyond its end. -/
def sliceOf (l : List Byte) (o n : Nat) : List Byte :=
  let x := (l.drop o).take n
  x ++ List.replicate (n - x.length) 0

/-- Put an image into a slot of flash. -/
def State.writeSlot (s : State) (b : Bool) (img : List Byte) : State :=
  s.writeFlash (slotBase b) img

/-- The operation fetch: refused outside recovery and RUNNING, and for the running slot; a candidate that passes R435 is
written, and in recovery the device restarts as by a warm reset. -/
def State.rcvFetch (s : State) (size : BitVec 25) (slot : Bool) (image : List Byte) : State :=
  let len := size.toNat
  let e := s.imageCheck 1 len (sliceOf image)
  if s.boot.phase ≠ .recovery ∧ s.boot.phase ≠ .running then s.rcvEnd eBoot
  else if len = 0 then s.rcvEnd 0
  else if 16777216 < len then s.rcvEnd eBounds
  else if s.boot.phase = .running ∧ slot = s.boot.slot then s.rcvEnd eBusy
  else if e ≠ 0 then s.rcvEnd e
  else
    let s := (s.writeSlot slot (sliceOf image 0 len)).rcvEnd 0
    if s.boot.phase = .recovery then s.warmReset else s

/-- BOOT_RCV_FETCH; `image` holds the bytes the host placed at BOOT_RCV_ADDR. -/
def execBootRcvFetch (len : BitVec 25) (slot : Bool) (image : List Byte) (s : State) : Res :=
  .next (if s.hostUp then s.runOp (.rcvFetch len slot) (fun s => s.setRcv len slot) fun s => s.rcvFetch len slot image else s)

/-- BOOT_RCV_OP_REFUSED (R483). -/
def execBootRcvOpRefused (len : BitVec 25) (slot : Bool) (s : State) : Res :=
  .next (if s.hostUp then s.badOp .rcv fun s => (s.setRcv len slot).rcvEnd eHandle else s)

/-! ### Function-level reset (R449) -/

/-- Blocks of remote streams in this device's contexts are abandoned; each stream faults with E_RESET, and its slots stay
reserved with their registers zero. -/
def State.abandonRemote (s : State) : State :=
  let far := s.ctxs.filter fun e => e.2.used && decide (e.2.dev.toNat ≠ s.own)
  let busy := far.filter fun e => !e.2.blocks.isEmpty || decide (e.2.wait ≠ .idle)
  let who := firstOnly [] (busy.map fun e => (e.2.dev, e.2.strm))
  let s := who.foldl (fun s w =>
    let c := ((busy.find? fun e => decide (e.2.dev = w.1) && decide (e.2.strm = w.2)).map fun e => e.1 / 8).getD 0
    s.faultFar w.1 w.2 c eReset (nameW 5 (coreHandle s.own c).toNat)) s
  { s with ctxs := s.ctxs.map fun (e : Nat × Ctx) => (e.1,
      if e.2.used && decide (e.2.dev.toNat ≠ s.own) then
        { e.2 with pc := 0, sreg := [], pred := [], vreg := [], vsr := 0, wait := .idle, stopping := false, blocks := [], pausing := false, granted := none }
      else e.2) }

/-- The steps of a function-level reset in order. -/
def State.functionReset (s : State) : State :=
  let s := (List.range 64).foldl (fun s i =>
    if (s.strm (BitVec.ofNat 6 i)).state = .empty then s else s.killStream (BitVec.ofNat 6 i)) s
  let s := (s.mis.filter fun m => decide (m.home.toNat ≠ s.own)).foldl (fun s m => s.giveBack m) s
  let s := (s.mis.filter fun m => m.here).foldl (fun s m => s.removeMi m) s
  let s := s.abandonRemote
  ({ s with boot := { s.boot with flrAt := some s.time } }).flrCheck

/-- FUNCTION_LEVEL_RESET: the steps of R449. Outside RUNNING nothing runs that they stop, so that in READY it completes at once
(R450). -/
def execFunctionLevelReset (s : State) : Res := .next (if s.hostUp then s.functionReset else s)

end Sys2Proof.Machine
end

