-- ==== Sys2Proof/Machine/Delta.lean ====
section
/-! DEFINITION. DELTA_GEN_LOAD to GENERATION_EMPTY, COPY_BUFFER_FILL and BLOCK_DECODE (R242-R256, log 41, DEDUCED). -/

namespace Sys2Proof.Machine

/-! ### Requests -/

/-- The registers of a codebook request take the values written (R256). -/
def State.setDelta (s : State) (slot : BitVec 3) (gen : BitVec 16) (mask : W32) : State :=
  { s with dev := { s.dev with deltaSlot := slot, deltaGen := gen, deltaMask := mask } }

/-- A codebook request ends: done, err, the refusing clusters and cause 85 (R412, R483). -/
def State.deltaEnd (s : State) (err : Code) (refused : W32) : State :=
  ({ s with dev := { s.dev with deltaDone := true, deltaErr := err, deltaRefused := refused } }).raise 85

/-- Width b and vector length d of a codebook image header (R243). -/
def bookB (h : BitVec 512) : Nat := bits h 8 4
/-- Vector length of a codebook image header. -/
def bookD (h : BitVec 512) : Nat := 2 ^ bits h 12 3
/-- Bytes of the element array. -/
def bookLen (h : BitVec 512) : Nat := ceilDiv (2 ^ bookB h * bookD h * fmtBits (bits h 0 5)) 8

/-- The check of a codebook image (R245); 0 accepts. -/
def State.bookErr (s : State) : Code :=
  let a := s.dev.deltaSrc.toNat
  let h : BitVec 512 := BitVec.ofNat 512 (s.num a 64)
  if a % 128 ≠ 0 || !inStack a 64 then eAlign
  else if (s.poisonIn a 64).isSome then eStackUe
  else if !matIn (bits h 0 5) || decide (bits h 5 3 ≠ 0) || decide (bookB h < 2) || decide (12 < bookB h) ||
      decide (4 < bits h 12 3) || decide (bits h 15 497 ≠ 0) then eFormat
  else if 32768 < bookLen h || !inStack a (64 + bookLen h) then eBounds
  else if (s.poisonIn a (64 + bookLen h)).isSome then eStackUe
  else 0

/-- The codebook of the image at deltaSrc, loading under a tag. -/
def State.newBook (s : State) (gen : BitVec 16) : GenSlot :=
  let a := s.dev.deltaSrc.toNat
  let h : BitVec 512 := BitVec.ofNat 512 (s.num a 64)
  let f := bits h 0 5
  ⟨.loading, gen, BitVec.ofNat 5 f, bookB h, bookD h,
    (List.range (2 ^ bookB h * bookD h)).map fun j => let (b, n) := elemSpan f (a + 64) j; elemOf f j (s.num b n), 0⟩

/-- A layer slot names a tag. -/
def LayerSlot.names (l : LayerSlot) (gen : BitVec 16) : Bool :=
  ([l.g0, l.g1] ++ l.pending.toList).any fun g => decide (g.st ≠ .empty) && decide (g.gen = gen)

/-- Put a codebook into generation slot k (0 or 1); the other generation, if any, holds the earlier load (R244). -/
def LayerSlot.place (l : LayerSlot) (k : Bool) (g : GenSlot) : LayerSlot :=
  if k then { l with g1 := g, older := decide (l.g0.st = .empty) }
  else { l with g0 := g, older := decide (l.g1.st ≠ .empty) }

/-- Copies of a generation in the cores of a cluster become invalid (R245). -/
def State.dropCopies (s : State) (cl slot : Nat) (gens : List (BitVec 16)) : State :=
  { s with cores := s.cores.map fun e =>
      if e.1 / 16 = cl then
        (e.1, { e.2 with copyBuf := e.2.copyBuf.filter fun x => !(decide (x.1.toNat = slot) && gens.contains x.2) })
      else e }

/-- Generation slot k: g1 where k is set. -/
def LayerSlot.at (l : LayerSlot) (k : Bool) : GenSlot := if k then l.g1 else l.g0
/-- Replace generation slot k. -/
def LayerSlot.set (l : LayerSlot) (k : Bool) (g : GenSlot) : LayerSlot := if k then { l with g1 := g } else { l with g0 := g }

/-- Of the generation slots in one state, the one that holds the earlier load; none where none is in it. -/
def LayerSlot.oldest (l : LayerSlot) (st : GenState) : Option Bool :=
  if (l.at l.older).st = st then some l.older
  else if (l.at (!l.older)).st = st then some (!l.older)
  else none

/-- A cluster's second step of a load request (R245): none if it refuses with E_BUSY. Of two RETIRING slots the load takes the
older; with both slots LOADING it waits for the older, which retires when its copy is done (log 41, DESIGN CHOICE). -/
def LayerSlot.accept (l : LayerSlot) (g : GenSlot) : Option LayerSlot :=
  if l.names g.gen || l.pending.isSome then none
  else if l.g0.st = .empty then some (l.place false g)
  else if l.g1.st = .empty then some (l.place true g)
  else
    match l.oldest .retiring, l.oldest .resident with
    | some k, _ => some { l with pending := some g, want := k }
    | none, some k => some { (l.set k { l.at k with st := .retiring }) with pending := some g, want := k }
    | none, none => some { l with pending := some g, want := l.older }

/-- Run f in every cluster of a mask; bit c of the result tells that cluster c refused. -/
def State.eachCluster (s : State) (mask : W32) (f : State → Nat → Option State) : State × W32 :=
  (List.range 32).foldl (fun (p : State × W32) c =>
    if bit mask c then
      match f p.1 c with
      | some s => (s, p.2)
      | none => (p.1, p.2 ||| BitVec.ofNat 32 (2 ^ c))
    else p) (s, 0)

/-- The layer slot of a cluster. -/
def State.layer (s : State) (cl slot : Nat) : LayerSlot := tget LayerSlot.empty (s.cluster cl).delta slot
/-- Replace a layer slot. -/
def State.setLayer (s : State) (cl slot : Nat) (l : LayerSlot) : State :=
  s.modCluster cl fun c => { c with delta := tput c.delta slot l }

/-- A load request is carried out (R245). -/
def State.deltaLoad (s : State) (slot : BitVec 3) (gen : BitVec 16) (mask : W32) : State :=
  if mask = 0 then s.deltaEnd 0 0
  else if s.bookErr ≠ 0 then s.deltaEnd s.bookErr 0
  else
    let g := s.newBook gen
    let (s, refused) := s.eachCluster mask fun s c =>
      ((s.layer c slot.toNat).accept g).map fun l => (s.setLayer c slot.toNat l).dropCopies c slot.toNat [gen]
    s.deltaEnd (if refused = 0 then 0 else eBusy) refused

/-- DELTA_GEN_LOAD (R245). -/
def execDeltaGenLoad (slot : BitVec 3) (gen : BitVec 16) (mask : W32) (s : State) : Res :=
  .next (if s.boot.phase ≠ .running then s
    else s.runOp (.deltaLoad slot gen mask) (fun s => s.setDelta slot gen mask) fun s => s.deltaLoad slot gen mask)

/-- Mark a tag RETIRING in a layer slot (R246); none where the slot does not name it. -/
def LayerSlot.retire (l : LayerSlot) (gen : BitVec 16) : Option LayerSlot :=
  let on (g : GenSlot) : GenSlot := if g.st ≠ .empty ∧ g.gen = gen then { g with st := .retiring } else g
  if l.names gen then some { l with g0 := on l.g0, g1 := on l.g1, pending := l.pending.map on } else none

/-- A retire request is carried out (R246). -/
def State.deltaRetire (s : State) (slot : BitVec 3) (gen : BitVec 16) (mask : W32) : State :=
  let (s, refused) := s.eachCluster mask fun s c =>
    ((s.layer c slot.toNat).retire gen).map fun l => s.setLayer c slot.toNat l
  s.deltaEnd (if refused = 0 then 0 else eHandle) refused

/-- DELTA_GEN_RETIRE (R246). -/
def execDeltaGenRetire (slot : BitVec 3) (gen : BitVec 16) (mask : W32) (s : State) : Res :=
  .next (if s.boot.phase ≠ .running then s
    else s.runOp (.deltaRetire slot gen mask) (fun s => s.setDelta slot gen mask) fun s => s.deltaRetire slot gen mask)

/-- DELTA_GEN_OP_REFUSED: op 0b11 completes at once refused (R483). -/
def execDeltaGenOpRefused (slot : BitVec 3) (gen : BitVec 16) (s : State) : Res :=
  .next (if s.boot.phase ≠ .running then s
    else s.badOp .delta fun s => (s.setDelta slot gen s.dev.deltaMask).deltaEnd eHandle 0)

/-! ### Generation slots -/

/-- PENDING_LOAD_TAKE: a pending load takes its generation slot, RETIRING, once its pins are 0 (R245). -/
def execPendingLoadTake (cl : ClusterId) (slot : BitVec 3) (s : State) : Res :=
  let l := s.layer cl.toNat slot.toNat
  match l.pending with
  | none => .next s
  | some g =>
    let old := l.at l.want
    if old.st = .retiring ∧ old.pins = 0 then
      let s := s.setLayer cl.toNat slot.toNat { (l.place l.want g) with pending := none }
      .next (s.dropCopies cl.toNat slot.toNat [old.gen, g.gen])
    else .next s

/-- CODEBOOK_COPY_DONE: the older LOADING generation is copied and RESIDENT (R245), or RETIRING where a pending load waits
for its slot (log 41, DESIGN CHOICE). -/
def execCodebookCopyDone (cl : ClusterId) (slot : BitVec 3) (s : State) : Res :=
  let l := s.layer cl.toNat slot.toNat
  match l.oldest .loading with
  | none => .next s
  | some k =>
    let st : GenState := if l.pending.isSome ∧ l.want = k then .retiring else .resident
    .next (s.setLayer cl.toNat slot.toNat (l.set k { l.at k with st := st }))

/-- Generation slot k becomes EMPTY: RETIRING, no pins, and no pending load waits for it (R246). -/
def LayerSlot.gone (l : LayerSlot) (k : Bool) : Bool :=
  decide ((l.at k).st = .retiring) && decide ((l.at k).pins = 0) && !(l.pending.isSome && decide (l.want = k))

/-- GENERATION_EMPTY: RETIRING generations with no pins and no load waiting for their slot become EMPTY (R246). -/
def execGenerationEmpty (cl : ClusterId) (slot : BitVec 3) (s : State) : Res :=
  let l := s.layer cl.toNat slot.toNat
  if !(l.gone false || l.gone true) then .next s
  else
    let g0 := if l.gone false then GenSlot.empty else l.g0
    let g1 := if l.gone true then GenSlot.empty else l.g1
    .next (s.setLayer cl.toNat slot.toNat { l with
      g0 := g0, g1 := g1, older := if g0.st = .empty then decide (g1.st ≠ .empty) else if g1.st = .empty then false else l.older })

/-! ### Copies and blocks -/

/-- The tile of a core that draws VQ blocks now. -/
def State.vqTile (s : State) (c : Nat) : Option (Tile × MI) :=
  match s.workTile c with
  | some (t, m) => if isVq m.desc && m.mayRun t && s.up then some (t, m) else none
  | none => none

/-- Slot and tag of a VQ macro-instruction as copy buffers bear them. -/
def MI.bookKey (m : MI) : BitVec 3 × BitVec 16 := (BitVec.ofNat 3 (vqSlot m.recs), vqGen m.recs)

/-- The buffers once the lookups use the one with a key: it stands last, the other first (R251). -/
def useCopy (bs : List (BitVec 3 × BitVec 16)) (k : BitVec 3 × BitVec 16) : List (BitVec 3 × BitVec 16) :=
  (bs.filter (fun x => decide (x ≠ k))).drop ((bs.filter fun x => decide (x ≠ k)).length - 1) ++ [k]

/-- COPY_BUFFER_FILL: the buffer that matches the tile is used, else the lookup unit fills its other buffer from the cluster
store (R251); a tile of a LOADING generation waits (R244). -/
def execCopyBufferFill (core : CoreId) (s : State) : Res :=
  let c := core.toNat
  match s.vqTile c with
  | none => .next s
  | some (_, m) =>
    if (s.vqBook (c / 16) m).isNone then .next s
    else .next (s.modCore c fun k => { k with copyBuf := useCopy k.copyBuf m.bookKey })

/-- The next load of a tile whose block is not decoded. -/
def State.nextBlockLoad (s : State) (m : MI) (t : Tile) : Option Nat :=
  ((List.range (m.loadCount s t)).drop t.loads).find? fun l => (m.needBlock s t l).isSome && !t.decoded.contains l

/-- A core has a block request waiting (R252): its next block is not decoded, its generation is RESIDENT, and a coded block has
its copy buffer; the lines of a block of another device are here (R362). -/
def State.blockWaits (s : State) (c : Nat) : Bool :=
  match s.vqTile c with
  | none => false
  | some (t, m) =>
    match s.nextBlockLoad m t with
    | none => false
    | some l =>
      let (bi, idx) := (m.needBlock s t l).getD (0, 0)
      let (a, len) := s.vqBlock m bi idx
      (s.vqBook (c / 16) m).isSome && (s.allHere m || (s.farLines [(a, 64 * len)]).all fun n =>
        (s.farLine (m.use (.block t.idx l)) n).any fun x => x.got.isSome) &&
        (decide ((s.gbyte (s.vqBlock m bi idx).1).toNat ≠ 1) || (s.core c).copyBuf.contains m.bookKey)

/-- The core whose block the decoders of a cluster take next: round-robin from the core after the last one served (R252). -/
def State.decodeNext (s : State) (cl : Nat) : Option Nat :=
  ((List.range 16).map fun j => 16 * cl + ((s.cluster cl).decTurn.toNat + j) % 16).find? s.blockWaits

/-- BLOCK_DECODE: the decoders take the core's next VQ block (R242, R252-R255). A header that fails faults the
macro-instruction. A core whose turn it is not waits, as a coded block waits for its copy buffer and one of another device for
its lines. -/
def execBlockDecode (core : CoreId) (s : State) : Res :=
  let c := core.toNat
  match s.vqTile c with
  | none => .next s
  | some (t, m) =>
    match s.nextBlockLoad m t with
    | none => .next s
    | some l =>
      match s.fetchFor m c (.block t.idx l) fun s =>
        let (a, len) := s.vqBlock m ((m.needBlock s t l).getD (0, 0)).1 ((m.needBlock s t l).getD (0, 0)).2
        [(a, 64 * len)] with
      | .wait s => .next s
      | .failed s e w => .next (s.tileFault c m t e w)
      | .ready s =>
      let (bi, idx) := (m.needBlock s t l).getD (0, 0)
      let (a, len) := s.vqBlock m bi idx
      let coded := decide ((s.gbyte a).toNat = 1)
      if s.decodeNext (c / 16) ≠ some c then .next s
      else
        let s := s.modCluster (c / 16) fun x => { x with decTurn := BitVec.ofNat 4 (c % 16 + 1) }
        match s.gpoison a (64 * len) with
        | some ln => .next (s.tileFault c m t eStackUe (poisonName ln))
        | none =>
          match s.vqHeaderErr m bi idx with
          | some (e, w) => .next (s.tileFault c m t e w)
          | none =>
            let who := s.miStrm m
            let raw := 2048 * (loadG m.desc m.recs / 32) * fmtBits (effFmtB m.desc m.recs) / 8
            let s := s.count (if coded then evDeltaBlocksCoded else evDeltaBlocksRaw) (.cluster (c / 16)) who 1
            let s := s.count evDeltaBytesIn (.cluster (c / 16)) who (64 * len)
            let s := s.count evDeltaLowRatio (.cluster (c / 16)) who (b2n (coded && decide (4 * raw < 5 * (64 * len))))
            let s := if coded then s.modCore c fun k => { k with copyBuf := useCopy k.copyBuf m.bookKey } else s
            .next (s.modTile c t fun x => { x with decoded := x.decoded ++ [l] })

end Sys2Proof.Machine
end

