-- ==== Sys2Proof/Machine/Events.lean ====
section
/-! DEFINITION. Writes of event selectors and counts, freeze and clear (R468-R473). -/

namespace Sys2Proof.Machine

/-- Levels of counters. -/
inductive EvLevel where
  | core | cluster | cobbler
  deriving DecidableEq, Repr

/-- Level of a counter by its number. -/
def levelOf (k : Nat) : EvLevel := if k < 4096 then .core else if k < 4608 then .cluster else .cobbler

/-- An instance field in range, or the sum over all. -/
def instOk (inst n : Nat) : Bool := decide (inst < n) || decide (inst = 0x3FF)

/-- Whether a level may take a selector: event, instance and stream filter (R469, R472). Code 0 counts nothing and every
level takes it (log 50, DEDUCED). -/
def selOk (l : EvLevel) (v : W64) : Bool :=
  let inst := bits v 20 10
  let devHeld := bit v 11 && decide (5 ≤ bits v 8 3)
  decide (bits v 12 7 ≤ 64) &&
  (decide (bits v 0 8 = 0) ||
    (match l, evDomain (bits v 0 8) with
     | _, none => false
     | .core, some d => decide (d = .core) || decide (d = .island) || (decide (d = .held) && !devHeld)
     | .cluster, some d =>
       decide (d = .cluster) || ((decide (d = .core) || (decide (d = .held) && !devHeld)) && instOk inst 16)
     | .cobbler, some .device => true
     | .cobbler, some .held => devHeld || instOk inst 512
     | .cobbler, some .core => instOk inst 512
     | .cobbler, some .cluster => instOk inst 32
     | .cobbler, some .port => instOk inst 32
     | .cobbler, some .engine => instOk inst 10
     | .cobbler, some .island => instOk inst 620))

/-- EVT_SEL of counter k; at reset any stream, nothing counted. -/
def State.evtSel (s : State) (k : Nat) : W64 := tget 0x40000 s.evt.sel k
/-- EVT_CNT of counter k. -/
def State.evtCnt (s : State) (k : Nat) : BitVec 49 := tget 0 s.evt.cnt k

/-- A write of EVT_SEL. -/
def State.writeSel (s : State) (k : Nat) (v : W64) : State :=
  if selOk (levelOf k) v then
    { s with evt := { s.evt with sel := tput s.evt.sel k (BitVec.ofNat 64 (bits v 0 30)) } }
  else s.regRefused

/-- A write of EVT_CNT: the count, and a 1 clears ovf. -/
def State.writeCnt (s : State) (k : Nat) (v : W64) : State :=
  let ovf := bit (s.evtCnt k) 48 && !bit v 48
  { s with evt := { s.evt with cnt := tput s.evt.cnt k (BitVec.ofNat 49 (bits v 0 48 + 2 ^ 48 * b2n ovf)) } }

/-- EVT_SEL_WRITE. -/
def execEvtSelWrite (c : CounterId) (v : W64) (s : State) : Res :=
  .next (if s.boot.phase = .running then s.writeSel (counterNo c) v else s)

/-- EVT_CNT_WRITE. -/
def execEvtCntWrite (c : CounterId) (v : W64) (s : State) : Res :=
  .next (if s.boot.phase = .running then s.writeCnt (counterNo c) v else s)

/-- Stop or restart every counter. -/
def State.freezeEvt (s : State) (on : Bool) : State := { s with evt := { s.evt with freeze := on } }
/-- Every count and ovf becomes 0. -/
def State.clearEvt (s : State) : State := { s with evt := { s.evt with cnt := [], pend := [] } }

/-- EVT_FREEZE. -/
def execEvtFreeze (on : Bool) (s : State) : Res := .next (if s.boot.phase = .running then s.freezeEvt on else s)

/-- EVT_CLEAR. -/
def execEvtClear (s : State) : Res := .next (if s.boot.phase = .running then s.clearEvt else s)

end Sys2Proof.Machine
end

