-- ==== Sys2Proof/Machine/Sched.lean ====
section
/-! DEFINITION. The schedule engine: SCHED_LR_READ and SCHED_WRITE (R307-R312). -/

namespace Sys2Proof.Machine

/-! ### fp32 steps (R308) -/

/-- One fp32 operation, rounded nearest-even with the flush of R190. -/
def f32op (xs : List Nat) (g : List Num → Num) : Nat := (fpElem 1 .near xs g).code
/-- An integer converted to fp32. -/
def f32int (n : Nat) : Nat := encodeElem 1 .near false (.num false n 1 0)
/-- Product of fp32 words. -/
def f32mul (a b : Nat) : Nat := f32op [a, b] fun v => (arg0 v).mul (arg1 v)
/-- Sum of fp32 words. -/
def f32add (a b : Nat) : Nat := f32op [a, b] fun v => (arg0 v).add (arg1 v)
/-- Difference of fp32 words. -/
def f32sub (a b : Nat) : Nat := f32op [a, b] fun v => (arg0 v).add (arg1 v).opp
/-- Quotient of fp32 words. -/
def f32div (a b : Nat) : Nat := f32op [a, b] fun v => (arg0 v).div (arg1 v)
/-- 1.0 in fp32. -/
abbrev f32one : Nat := 0x3F800000
/-- 0.5 in fp32. -/
abbrev f32half : Nat := 0x3F000000
/-- Function fn of v.sfu on an fp32 word. -/
def f32fn (fn a : Nat) : Nat := (sfuElem 1 fp32F fn (sfuFn fn) a).code

/-! ### Evaluation -/

/-- The restart loop: u, L and cycle after it. -/
def schedLoop (mult : Nat) : Nat → Nat → Nat → Nat → Nat × Nat × Nat
  | 0, u, l, c => (u, l, c)
  | n + 1, u, l, c => if l ≤ u then schedLoop mult n (u - l) (min (l * mult) (2 ^ 48)) (c + 1) else (u, l, c)

/-- u, L and cycle of a step after the warm-up. -/
def schedCycle (restart : Bool) (mult u period : Nat) : Nat × Nat × Nat :=
  if !restart then (u, period, 0)
  else if mult = 1 then (u % period, period, u / period)
  else schedLoop mult 64 u period 0

/-- lr and cycle of the schedule (R308). A kind above 4 or a restart loop of mult 0, which only an image can bring in, gives a
rate and a cycle that depend on the registers alone and on nothing the manual states (log 45, DESIGN CHOICE). -/
def schedEval (r : StreamRegs) : Nat × Nat :=
  let kind := bits r.schedProg 0 3
  let warm := bits r.schedProg 32 32
  let peak := bits r.schedParam 0 32
  let floor := bits r.schedParam 32 32
  let period := bits r.schedShape 0 32
  let gamma := bits r.schedShape 32 32
  let t := r.schedStep.toNat
  let free := Config.schedFree r.schedProg r.schedParam r.schedShape r.schedStep
  if t < warm then (f32mul peak (f32div (f32int (t + 1)) (f32int warm)), 0)
  else if period ≠ 0 && (decide (4 < kind) ||
      (decide (kind ≠ 0) && bit r.schedProg 3 && decide (bits r.schedProg 4 4 = 0) && decide (period ≤ t - warm))) then
    (free.1.toNat, free.2.toNat)
  else
    let flat := decide (kind = 0) || decide (period = 0)
    let (u, l, cyc) := if flat then (0, 0, 0) else schedCycle (bit r.schedProg 3) (bits r.schedProg 4 4) (t - warm) period
    let p := min u l
    let frac := f32div (f32int p) (f32int l)
    let d :=
      if flat then f32one
      else if kind = 1 then f32sub f32one frac
      else if kind = 2 then f32mul f32half (f32add f32one (f32fn 5 frac))
      else if kind = 3 then f32fn 0 (f32mul (f32int p) (f32fn 1 gamma))
      else f32fn 3 (f32add f32one frac)
    (f32mul peak (f32add floor (f32mul (f32sub f32one floor) d)), min cyc 0xFFFF)

/-- The value of SCHED_LR of stream i. -/
def State.schedLr (s : State) (i : StreamId) : W64 :=
  let r := s.sreg i
  let (lr, cyc) := schedEval r
  BitVec.ofNat 64 (lr + cyc * 2 ^ 32 + r.schedErr.toNat * 2 ^ 48)

/-- SCHED_LR_READ: a read evaluates the schedule; the host is answered, a context takes the value by its load (S_LD). -/
def execSchedLrRead (agent : Agent) (strm : StreamId) (s : State) : Res :=
  if s.boot.phase ≠ .running then .next s
  else
    let s1 := s.countDev evSchedEvals
    match agent with
    | .host => .next (s1.reply (.value (s.schedLr strm)))
    | .ctx _ => .next s1

/-! ### Writes (R310) -/

/-- An fp32 word is finite and at least 0 (-0 counts as 0). -/
def f32NonNeg (c : Nat) : Bool :=
  let v := decodeElem 1 c
  v.isFin && (v.isZero || !v.neg)

/-- The schedule registers are ones R310 allows. -/
def schedOk (prog param shape : W64) : Bool :=
  let one := decodeElem 1 f32one
  let floor := bits param 32 32
  let gamma := bits shape 32 32
  decide (bits prog 0 3 ≤ 4) && !(bit prog 3 && decide (bits prog 4 4 = 0)) && f32NonNeg (bits param 0 32) &&
  (f32NonNeg floor && (decodeElem 1 floor).le one) &&
  (decide (bits prog 0 3 ≠ 3) ||
    (f32NonNeg gamma && !(decodeElem 1 gamma).isZero && (decodeElem 1 gamma).le one))

/-- A write of a schedule register: reserved bits of SCHED_PROG are ignored (R483). -/
def State.writeSched (s : State) (i : StreamId) (which : SchedReg) (v : W64) : State :=
  let r := s.sreg i
  let r2 := match which with
    | .prog => { r with schedProg := setBits (setBits v 8 24 0) 0 8 (bits v 0 8) }
    | .param => { r with schedParam := v }
    | .shape => { r with schedShape := v }
  if schedOk r2.schedProg r2.schedParam r2.schedShape then s.setSreg i { r2 with schedErr := 0 }
  else (s.setSreg i { r with schedErr := eOperand }).countDev evSchedBadWrite

/-- SCHED_WRITE. -/
def execSchedWrite (strm : StreamId) (which : SchedReg) (v : W64) (s : State) : Res :=
  .next (if s.boot.phase = .running then s.writeSched strm which v else s)

end Sys2Proof.Machine
end

