-- ==== Sys2Proof/Machine/Regs.lean ====
section
/-! DEFINITION. The register map: what each offset holds, and what a read or a write of it does (R480-R486, log 50, DEDUCED). The debug
window stands in Debug.lean. -/

namespace Sys2Proof.Machine

/-! ### Offsets (R480) -/

/-- The slot that a byte offset of BAR0 names, in its block. -/
inductive Slot where
  | dev (o : Nat)
  | stream (i : StreamId) (o : Nat)
  | cluster (c o : Nat)
  | core (c o : Nat)
  | array (o : Nat)
  | store (n k : Nat)
  | debug (c : Nat) (pc : Bool)
  | none
  deriving DecidableEq, Repr

/-- Slot of an 8-byte aligned offset. -/
def slotOf (o : Nat) : Slot :=
  if o < 0x1000 then .dev o
  else if o < 0x10000 then .none
  else if o < 0x14000 then .stream (BitVec.ofNat 6 ((o - 0x10000) / 0x100)) (o % 0x100)
  else if o < 0x20000 then .none
  else if o < 0x40000 then .cluster ((o - 0x20000) / 0x1000) (o % 0x1000)
  else if o < 0x60000 then .core ((o - 0x40000) / 0x100) (o % 0x100)
  else if o < 0x6D000 then .array (o - 0x60000)
  else if o < 0x70000 then .none
  else if o < 0x74000 then .store ((o - 0x70000) / 64) (o % 64 / 8)
  else if o < 0x100000 then .none
  else if o < 0x102000 then .debug ((o - 0x100000) / 16) (decide (o % 16 = 8))
  else .none

/-- Index of an array register whose n entries of stride d begin at b. -/
def arrIdx (o b d n : Nat) : Option Nat := if b ≤ o ∧ o < b + d * n ∧ (o - b) % d = 0 then some ((o - b) / d) else none

/-- A word of a list of fields (lowest bit, value), each value within its field. -/
def fields (l : List (Nat × Nat)) : W64 := BitVec.ofNat 64 ((l.map fun f => f.2 * 2 ^ f.1).sum)

/-! ### What the slots hold (R481, R486) -/

/-- Whether a port bit, a mark and so on is set, as a field. -/
def flag (lo : Nat) (b : Bool) : Nat × Nat := (lo, b2n b)

/-- mstate of FAB_STATUS. -/
def mCode : MState → Nat
  | .out => 0 | .joining => 1 | .live => 2 | .leaving => 3
/-- link of FAB_PORT_STATUS. -/
def linkCode : Link → Nat
  | .down => 0 | .training => 1 | .up4 => 2 | .up2 => 3
/-- Generation states of DELTA_SLOT. -/
def genCode : GenState → Nat
  | .empty => 0 | .loading => 1 | .resident => 2 | .retiring => 3

/-- FAULT# is asserted while cause 82 is pending (R421). -/
def State.faultPin (s : State) : Bool := bit s.hif.pend 82

/-- Device registers. -/
def State.devSlot (s : State) (o : Nat) : Option W64 :=
  match o with
  | 0x000 => some 0x0020020005120001
  | 0x008 => some s.time
  | 0x010 => some (fields [(0, phaseCode s.boot.phase), flag 4 s.boot.slot, (5, s.boot.lastReset.toNat), (16, s.boot.err.toNat),
      (32, s.boot.svn.toNat)])
  | 0x018 => some 0
  | 0x020 => some s.boot.rcvAddr
  | 0x028 => some (fields [(0, s.boot.rcvLen.toNat), flag 25 s.boot.rcvSlot, flag 28 (s.busy .rcv), flag 29 s.boot.rcvDone, (32, s.boot.rcvErr.toNat)])
  | 0x030 => some (fields [(0, s.pins.slotId.toNat), flag 4 s.faultPin, flag 5 (decide (s.pins.cblOff ≠ 0)), (32, s.pins.prsnt.toNat)])
  | 0x038 => some (fields [flag 0 s.evt.freeze])
  | 0x040 => some (fields [(0, s.sec.levee.toNat)])
  | 0x048 => some (fields [flag 0 s.sec.dbgEn])
  | 0x050 => some (fields [(0, s.sec.floor.toNat), flag 16 s.sec.floorDone])
  | 0x058 => some s.flt.ring
  | 0x060 => some (fields [(0, s.flt.next.toNat), (32, s.flt.overrun.toNat)])
  | 0x080 => some (fields [(0, s.dev.gdefSrc.toNat)])
  | 0x088 => some (fields [(0, s.dev.gdefIndex.toNat)])
  | 0x090 => some (fields [flag 0 (s.busy .gdef), flag 1 s.dev.gdefDone, (16, s.dev.gdefErr.toNat)])
  | 0x0A0 => some (fields [(0, s.dev.deltaSrc.toNat)])
  | 0x0A8 => some (fields [(0, s.dev.deltaSlot.toNat), (16, s.dev.deltaGen.toNat), (32, s.dev.deltaMask.toNat)])
  | 0x0B0 => some (fields [flag 0 (s.busy .delta), flag 1 s.dev.deltaDone, (16, s.dev.deltaErr.toNat), (32, s.dev.deltaRefused.toNat)])
  | 0x0C0 => some (fields [(0, s.dev.kvSrc.toNat)])
  | 0x0C8 => some (fields [(0, s.dev.kvPool.toNat)])
  | 0x0D0 =>
    let p := s.pool s.dev.kvPool.toNat
    some (fields [flag 0 (s.busy .pool), flag 1 s.dev.kvDone, (16, s.dev.kvErr.toNat), (32, p.epoch.toNat), (48, p.users.toNat)])
  | 0x100 => some (fields [(0, s.dev.ilv.toNat)])
  | 0x108 => some (fields [(0, s.dev.stkCtl.toNat)])
  | 0x110 => some (fields [(0, s.dev.rprVault.toNat), (9, s.dev.rprTier.toNat), (12, s.dev.rprStore.toNat),
      (14, s.dev.rprIndex.toNat), flag 24 (s.busy .rpr), flag 25 s.dev.rprDone, (32, s.dev.rprErr.toNat)])
  | 0x118 => some s.dev.rprData
  | 0x180 => some s.fab.cfg
  | 0x188 => some 0
  | 0x190 => some (fields [(0, mCode s.fab.mstate), flag 2 s.fab.isHw, flag 3 s.fab.done, (16, s.fab.hw.toNat), (32, s.fab.err.toNat)])
  | 0x198 => some (fields [(0, s.fab.epoch.toNat), (32, s.liveSet.length)])
  | 0x1A0 => some (fields [(0, s.fab.rtIndex.toNat), flag 18 s.fab.rtDone, (32, s.fab.rtErr.toNat)])
  | 0x1A8 => some (s.fab.rtData &&& 0x1FFFFFFFF)
  | 0x200 => some s.weir.cap
  | 0x208 => some s.weir.cfg
  | 0x210 => some (fields [(0, s.weir.kmax.toNat), (6, s.weir.reason.toNat), flag 10 s.weir.trip, (32, s.weir.exc / 1000),
      (48, s.weir.elogHead.toNat)])
  | 0x218 => some s.weir.meter
  | 0x220 => some s.weir.elog
  | _ => none

/-- Stream registers. -/
def State.streamSlot (s : State) (i : StreamId) (o : Nat) : Option W64 :=
  let x := s.strm i
  let r := s.sreg i
  match o with
  | 0x00 => some (fields [(0, sCode x.state), flag 3 (decide (x.state = .draining) && x.drainPaused), flag 4 x.dirty,
      (8, s.outstanding i), (16, x.lastErr.toNat), (32, x.estate.toNat)])
  | 0x08 => some (fields [(0, x.cstream.toNat)])
  | 0x10 => some (fields [(0, bits r.job 0 33),
      (48, if x.state = .empty ∨ s.jobOf i = 0 then 0 else (s.job (s.jobOf i)).hw.toNat)])
  | 0x18 => some (fields [flag 0 r.paceMatch, (8, (s.job (s.jobOf i)).floor.toNat)])
  | 0x20 => some x.energy
  | 0x28 => some x.errArg
  | 0x40 => some r.schedProg
  | 0x48 => some r.schedParam
  | 0x50 => some r.schedShape
  | 0x58 => some (fields [(0, r.schedStep.toNat)])
  | 0x60 => some (s.schedLr i)
  | 0x80 => some (fields [(8, r.treePool.toNat), (16, r.treeSlot.toNat)])
  | 0x88 => some r.treeArg0
  | 0x90 => some r.treeArg1
  | 0x98 => some (r.treeStatus ||| fields [flag 0 (s.busy (.tree i))])
  | 0xC0 => some r.cmdRing
  | 0xC8 => some r.cplRing
  | 0xD0 => some (fields [(0, r.cmdHead.toNat), (16, r.cmdTail.toNat), (32, r.cplWr.toNat), (48, r.cplHead.toNat)])
  | _ => none

/-- LAST_CTR of the macro-instruction that holds a counter slot, if one does. -/
def lastCtr (m : Option MI) : W64 :=
  match m with
  | none => 0
  | some m => fields [(0, m.claimed % 2 ^ 40), (40, m.strm.toNat), flag 46 true, flag 47 m.waiting, (48, bits m.ticket 0 16)]

/-- LAST_RET. -/
def lastRet (m : Option MI) : W64 :=
  match m with
  | none => 0
  | some m => fields [(0, m.retired % 2 ^ 40), (40, m.parts % 32), (45, m.tm % 512)]

/-- The macro-instruction in slot i of a cluster's Last, or of the device's. -/
def State.inSlot (s : State) (cl : Option Nat) (i : Nat) : Option MI :=
  s.mis.find? fun m => !m.unpublished && m.here && decide (m.slot = i) &&
    (match cl with
     | some c => !m.atDevice && decide (m.cluster = c)
     | none => m.atDevice)

/-- Counter number of a register of a block whose counters begin at k, whose selectors lie from b on and whose counts 0x80 (for
clusters) or 0x40 (for cores) further. -/
def evtOf (o b n : Nat) : Option Nat := arrIdx o b 8 n

/-- Cluster registers. -/
def State.clusterSlot (s : State) (c o : Nat) : Option W64 :=
  let x := s.cluster c
  match o with
  | 0x000 => some (fields [(0, x.riffleCfg.toNat)])
  | 0x008 => some (fields [(0, x.lastCfg.toNat)])
  | 0x010 => some (fields [flag 0 x.healthy, flag 1 x.rctFail, flag 2 x.aptFail, (4, x.pool.length), (16, x.failCount.toNat)])
  | 0x018 => some 0
  | 0x020 => some (fields [(0, x.cchCfg.toNat)])
  | 0x028 => some (fields [(0, x.awlCfg.toNat)])
  | 0x030 => some x.coreSpare
  | 0x038 => some (fields [(0, s.safeCore c)])
  | _ =>
    match arrIdx o 0x100 8 8, arrIdx o 0x140 8 8, evtOf o 0x200 16, evtOf o 0x280 16, arrIdx o 0x400 8 64, arrIdx o 0x600 8 64 with
    | some j, _, _, _, _, _ =>
      let l := s.layer c j
      let p := l.pending.getD .empty
      some (fields [(0, genCode l.g0.st), (2, genCode l.g1.st), flag 4 l.pending.isSome, flag 5 l.older, (16, l.g0.gen.toNat),
        (32, l.g1.gen.toNat), (48, p.gen.toNat)])
    | _, some j, _, _, _, _ => some (fields [(0, (s.layer c j).g0.pins.toNat), (16, (s.layer c j).g1.pins.toNat)])
    | _, _, some n, _, _, _ => some (s.evtSel (4096 + 16 * c + n))
    | _, _, _, some n, _, _ => some ((s.evtCnt (4096 + 16 * c + n)).setWidth 64)
    | _, _, _, _, some i, _ => some (lastCtr (s.inSlot (some c) i))
    | _, _, _, _, _, some i => some (lastRet (s.inSlot (some c) i))
    | _, _, _, _, _, _ => none

/-- Core registers. -/
def State.coreSlot (s : State) (c o : Nat) : Option W64 :=
  let k := s.core c
  match evtOf o 0x40 8, evtOf o 0x80 8 with
  | some n, _ => some (s.evtSel (8 * c + n))
  | _, some n => some ((s.evtCnt (8 * c + n)).setWidth 64)
  | _, _ => if o = 0 then some (fields [(0, k.katFail.toNat), (8, k.katSeq.toNat), (32, k.passSeq.toNat)]) else none

/-- Number of open sessions of a video engine. -/
def Engine.open (x : Engine) : Nat := (x.sessions.filter fun e => e.2.isSome).length

/-- Registers of a video engine. -/
def State.vidSlot (s : State) (e k : Nat) : Option W64 :=
  let x := s.engine e
  match k with
  | 0x00 => some x.ring
  | 0x08 => some x.cpl
  | 0x10 => some 0
  | 0x18 => some (fields [(0, x.head.toNat), flag 16 x.job.isSome, flag 17 x.waiting, (18, x.open % 16), flag 22 (decide (x.open = 16)),
      (32, x.lastErr.toNat), (48, x.refused.toNat)])
  | _ => none

/-- Registers of a DMA channel. -/
def State.dmaSlot (s : State) (d k : Nat) : Option W64 :=
  let x := s.chan d
  match k with
  | 0x00 => some x.ring
  | 0x08 => some x.wb
  | 0x10 => some (fields [(0, x.head.toNat), flag 16 x.halted, (32, x.err.toNat)])
  | _ => none

/-- STK_VAULT_STATUS. -/
def vaultWord (v : Vault) : W64 :=
  fields [flag 0 v.hot, (1, v.failed.toNat), (7, v.suspect.toNat), (16, v.ce.toNat), (32, v.ceTier.toNat), (48, v.ue.toNat)]

/-- FAB_PORT_STATUS; a port without a cable reads link 0 (R424). -/
def State.portWord (s : State) (p : Nat) : W64 :=
  let x := s.port p
  fields [(0, if bit s.pins.prsnt p then linkCode x.link else 0), (2, x.nbr.toNat), flag 18 x.nbrValid, flag 19 x.foreign,
    (32, x.retries.toNat), (48, x.downs.toNat)]

/-- WEIR_SENSOR. -/
def sensorWord (x : Sensor) : W64 := fields [(0, x.temp.toNat), flag 12 x.failed, flag 13 x.above]

/-- FAB_LIVE word i. -/
def State.liveWord (s : State) (i : Nat) : W64 :=
  fields ((List.range 64).map fun b => flag b (tget false s.fab.live (64 * i + b)))

/-- Indexed arrays, offsets from 0x0006_0000. -/
def State.arraySlot (s : State) (o : Nat) : Option W64 :=
  if o < 0x0800 then some (lastCtr (s.inSlot none (o / 8)))
  else if o < 0x1000 then some (lastRet (s.inSlot none ((o - 0x800) / 8)))
  else if o < 0x2000 then some (vaultWord (s.vault ((o - 0x1000) / 8)))
  else if o < 0x2280 then s.vidSlot ((o - 0x2000) / 0x40) (o % 0x40)
  else if o < 0x3000 then none
  else if o < 0x3200 then
    (let p := (o - 0x3000) / 16
     if o % 16 = 0 then some (fields [flag 0 (s.port p).enable]) else some (s.portWord p))
  else if o < 0x3240 then some (s.inwin ((o - 0x3200) / 8))
  else if o < 0x4000 then none
  else if o < 0x6000 then some (s.liveWord ((o - 0x4000) / 8))
  else if o < 0x62C0 then some (fields [(0, (s.irqEntry ((o - 0x6000) / 8)).toNat)])
  else if o < 0x6300 then none
  else if o = 0x6300 then some (BitVec.ofNat 64 (bits s.hif.pend 0 64))
  else if o = 0x6308 then some (BitVec.ofNat 64 (bits s.hif.pend 64 24))
  else if o < 0x6400 then none
  else if o < 0x6500 then s.dmaSlot ((o - 0x6400) / 0x20) (o % 0x20)
  else if o = 0x6500 then some s.hif.win
  else if o < 0x8000 then none
  else if o < 0xA000 then some (sensorWord (s.sensor ((o - 0x8000) / 8)))
  else if o < 0xA080 then some (tget 0 s.weir.reasonNs ((o - 0xA000) / 8))
  else if o < 0xB000 then none
  else if o < 0xB020 then
    (let k := (o - 0xB000) / 8
     some (fields [flag 0 (Config.keyProvisioned k), flag 1 (s.revoked k)]))
  else if o < 0xC000 then none
  else if o < 0xC100 then some (s.evtSel (4608 + (o - 0xC000) / 8))
  else if o < 0xC200 then some (s.evtCnt (4608 + (o - 0xC100) / 8) |>.setWidth 64)
  else none

/-- The content of a slot; none where no register lies. -/
def State.slot (s : State) : Slot → Option W64
  | .dev o => s.devSlot o
  | .stream i o => s.streamSlot i o
  | .cluster c o => s.clusterSlot c o
  | .core c o => s.coreSlot c o
  | .array o => s.arraySlot o
  | .store n k => some (BitVec.ofNat 64 (bits (tget 0 s.flt.records n) (64 * k) 64))
  | .debug _ _ => none
  | .none => none

/-! ### Reads (R44, R481, R459) -/

/-- An access by its offset: 4 or 8 bytes, aligned (R402, R481). -/
structure RegAcc where
  off : Nat
  size8 : Bool
  deriving DecidableEq, Repr

/-- The low half is accessed. -/
def RegAcc.lo (a : RegAcc) : Bool := a.size8 || decide (a.off % 8 = 0)
/-- The high half is accessed. -/
def RegAcc.hi (a : RegAcc) : Bool := a.size8 || decide (a.off % 8 = 4)
/-- The slot accessed. -/
def RegAcc.slot (a : RegAcc) : Slot := slotOf (a.off / 8 * 8)
/-- Natural alignment. -/
def RegAcc.aligned (a : RegAcc) : Bool := decide (a.off % (if a.size8 then 8 else 4) = 0)

/-- The part of a slot's word that an access reads. -/
def RegAcc.part (a : RegAcc) (w : W64) : W64 :=
  if a.size8 then w else BitVec.ofNat 64 (bits w (if a.off % 8 = 4 then 32 else 0) 32)

/-- A read: its value and what it changes. The high word of COB_TIME is the frozen one if a low word was read before. -/
def State.regRead (s : State) (a : RegAcc) : W64 × State :=
  let v := a.part ((s.slot a.slot).getD 0)
  match a.slot with
  | .dev 0x008 =>
    if a.size8 then (v, s)
    else if a.lo then (v, { s with timeHi := some (BitVec.ofNat 32 (bits s.time 32 32)) })
    else
      match s.timeHi with
      | some h => (h.setWidth 64, { s with timeHi := none })
      | none => (v, s)
  | .stream _ 0x60 => (v, s.countDev evSchedEvals)
  | .array o =>
    if 0x1000 ≤ o ∧ o < 0x2000 ∧ a.hi then (v, s.modVault ((o - 0x1000) / 8) fun x => { x with ceTier := 0 }) else (v, s)
  | .store n _ => (v, { s with flt := { s.flt with read := tput s.flt.read n true } })
  | _ => (v, s)

/-! ### Writes (R481-R483) -/

/-- A write of a slot: its word and the halves it reaches. -/
structure Wr where
  v : W64
  lo : Bool
  hi : Bool
  deriving DecidableEq, Repr

/-- The slot's word after the write, where `old` holds its RW fields. -/
def Wr.over (w : Wr) (old : W64) : W64 :=
  BitVec.ofNat 64 (bits (if w.lo then w.v else old) 0 32 + bits (if w.hi then w.v else old) 32 32 * 2 ^ 32)

/-- Bit k is written as 1. -/
def Wr.has (w : Wr) (k : Nat) : Bool := (if k < 32 then w.lo else w.hi) && bit w.v k

/-- The 32-bit register after the write. -/
def Wr.over32 (w : Wr) (old : W32) : W32 := BitVec.ofNat 32 (bits (w.over (old.setWidth 64)) 0 32)

/-- The state that a meaning leaves. -/
def stateOr (s : State) (r : Res) : State :=
  match r with
  | .next t => t
  | _ => s

/-- UNIT_GDEF_CTL: an op starts its operation (R28, R29). -/
def State.writeGdefCtl (s : State) (v : W64) : State :=
  let i : BitVec 16 := BitVec.ofNat 16 (bits v 0 16)
  match bits v 16 2 with
  | 0 => s.setGdef i
  | 1 => s.startOp (.gdefDefine i) fun s => s.setGdef i
  | 2 => s.startOp (.gdefRemove i) fun s => s.setGdef i
  | _ => stateOr s (execUnitGdefOpRefused i s)

/-- DELTA_GEN_CTL: the mask half stands beside slot, op and gen. A refused write changes no field (R256, R483). -/
def State.writeDeltaCtl (s : State) (w : Wr) : State :=
  let mask : W32 := BitVec.ofNat 32 (bits (if w.hi then w.v else (s.dev.deltaMask.setWidth 64 : W64) <<< 32) 32 32)
  if !w.lo then { s with dev := { s.dev with deltaMask := mask } }
  else
    let slot : BitVec 3 := BitVec.ofNat 3 (bits w.v 0 3)
    let gen : BitVec 16 := BitVec.ofNat 16 (bits w.v 16 16)
    match bits w.v 3 2 with
    | 0 => s.setDelta slot gen mask
    | 1 => s.startOp (.deltaLoad slot gen mask) fun s => s.setDelta slot gen mask
    | 2 => s.startOp (.deltaRetire slot gen mask) fun s => s.setDelta slot gen mask
    | _ => s.badOp .delta fun s => (s.setDelta slot gen mask).deltaEnd eHandle 0

/-- KV_POOL_CTL. -/
def State.writePoolCtl (s : State) (who : Agent) (v : W64) : State :=
  let p : Byte := BitVec.ofNat 8 (bits v 0 8)
  match bits v 8 2 with
  | 0 => s.setPool p
  | 1 => s.startOp (.poolDefine p) fun s => s.setPool p
  | 2 => s.startOp (.poolRemove p) fun s => s.setPool p
  | _ => s.startOp (.poolAdvance who p) fun s => s.setPool p

/-- STK_RPR_CTL; a write refused for being busy changes no field, done included (R483). -/
def State.writeRprCtl (s : State) (v : W64) : State :=
  let vault : VaultId := BitVec.ofNat 9 (bits v 0 9)
  let tier : BitVec 3 := BitVec.ofNat 3 (bits v 9 3)
  let store : BitVec 2 := BitVec.ofNat 2 (bits v 12 2)
  let index : BitVec 7 := BitVec.ofNat 7 (bits v 14 7)
  let op : BitVec 3 := BitVec.ofNat 3 (bits v 21 3)
  let done (s : State) : State := if bit v 25 then { s with dev := { s.dev with rprDone := false } } else s
  if op = 0 then (done s).setRpr vault tier store index
  else if s.busy .rpr then s.regRefused
  else if 6 ≤ op.toNat ∨ ((op = 2 ∨ op = 3) ∧ store ≠ 1) then
    stateOr s (execStkRprOpRefused vault tier store index op (done s))
  else (done s).startOp (.rprOp op vault tier store index) fun s => s.setRpr vault tier store index

/-- FAB_RT_CTL. -/
def State.writeRtCtl (s : State) (v : W64) : State :=
  let i : BitVec 16 := BitVec.ofNat 16 (bits v 0 16)
  let s := if bit v 18 then { s with fab := { s.fab with rtDone := false } } else s
  match bits v 16 2 with
  | 0 => { s with fab := { s.fab with rtIndex := i } }
  | 1 => stateOr s (execFabRtRead i s)
  | 2 => stateOr s (execFabRtWrite i s)
  | _ => stateOr s (execFabRtOpRefused i s)

/-- BOOT_RCV_CTL: the operation fetch is carried out by the row BOOT_RCV_FETCH, which brings the bytes the host placed (log 50,
DEDUCED). -/
def State.writeRcvCtl (s : State) (v : W64) : State :=
  let len : BitVec 25 := BitVec.ofNat 25 (bits v 0 25)
  let slot := bit v 25
  let done (s : State) : State := if bit v 29 then { s with boot := { s.boot with rcvDone := false } } else s
  match bits v 26 2 with
  | 0 => (done s).setRcv len slot
  | 1 => if s.busy .rcv then s.regRefused else (done s).startOp (.rcvFetch len slot) fun s => s.setRcv len slot
  | _ => s.badOp .rcv fun s => ((done s).setRcv len slot).rcvEnd eHandle

/-- KV_TREE_CTL: slot lies across both halves. -/
def State.writeTreeCtl (s : State) (i : StreamId) (w : Wr) : State :=
  let r := s.sreg i
  let v := w.over (fields [(8, r.treePool.toNat), (16, r.treeSlot.toNat)])
  let pool : Byte := BitVec.ofNat 8 (bits v 8 8)
  let slot : W32 := BitVec.ofNat 32 (bits v 16 32)
  let op : BitVec 3 := if w.lo then BitVec.ofNat 3 (bits v 0 3) else 0
  if op = 0 then s.setTree i pool slot
  else if op.toNat < 6 then s.startOp (.treeOp op i pool slot) fun s => s.setTree i pool slot
  else stateOr s (execKvTreeOpRefused i pool slot op s)

/-- A write of DBG_CTL: en, which levee bit 0 locks; clearing it clears every halt (R461, R487). -/
def State.writeDbgCtl (s : State) (v : W64) : State :=
  if bit s.sec.levee 0 then s.leveeDenied
  else if bit v 0 then { s with sec := { s.sec with dbgEn := true } }
  else { s with
    sec := { s.sec with dbgEn := false }
    cores := s.cores.map fun (e : Nat × Core) => (e.1, { e.2 with halt := false }) }

/-- A write of FLT_RING: a size out of range is refused. -/
def State.writeFltRing (s : State) (v : W64) : State :=
  if bits v 0 4 < 4 ∨ 12 < bits v 0 4 then s.regRefused
  else { s with flt := { s.flt with ring := v &&& 0xFFFFFFFFFFFFF01F } }

/-- A write of BOOT_RCV_ADDR: refused if misaligned. -/
def State.writeRcvAddr (s : State) (v : W64) : State :=
  if bits v 0 12 ≠ 0 then s.regRefused else { s with boot := { s.boot with rcvAddr := v } }

/-- Device registers. FAB_RT_DATA keeps the reserved bits written, for which FAB_RT_CTL.err gives E_OPERAND, and reads them as 0
(log 50, DESIGN CHOICE: R8 and R483 have a 1 written to a reserved bit ignored). -/
def State.writeDev (s : State) (who : Agent) (o : Nat) (w : Wr) : State :=
  let lo (k : State) : State := if w.lo then k else s
  match o with
  | 0x018 => if w.has 0 then s.hostAck else s
  | 0x020 => s.writeRcvAddr (w.over s.boot.rcvAddr)
  | 0x028 => lo (s.writeRcvCtl w.v)
  | 0x038 =>
    let s := lo (s.freezeEvt (bit w.v 0))
    if w.has 1 then s.clearEvt else s
  | 0x040 => lo (s.writeLevee who w.v)
  | 0x048 => lo (s.writeDbgCtl w.v)
  | 0x050 => lo (s.writeFloor w.v)
  | 0x058 => s.writeFltRing (w.over s.flt.ring)
  | 0x080 => { s with dev := { s.dev with gdefSrc := BitVec.ofNat 48 (bits (w.over (s.dev.gdefSrc.setWidth 64)) 0 48) } }
  | 0x088 => lo (s.writeGdefCtl w.v)
  | 0x090 => if w.has 1 then { s with dev := { s.dev with gdefDone := false } } else s
  | 0x0A0 => { s with dev := { s.dev with deltaSrc := BitVec.ofNat 48 (bits (w.over (s.dev.deltaSrc.setWidth 64)) 0 48) } }
  | 0x0A8 => s.writeDeltaCtl w
  | 0x0B0 => if w.has 1 then { s with dev := { s.dev with deltaDone := false } } else s
  | 0x0C0 => { s with dev := { s.dev with kvSrc := BitVec.ofNat 48 (bits (w.over (s.dev.kvSrc.setWidth 64)) 0 48) } }
  | 0x0C8 => lo (s.writePoolCtl who w.v)
  | 0x0D0 => if w.has 1 then { s with dev := { s.dev with kvDone := false } } else s
  | 0x100 => lo (s.writeIlv (BitVec.ofNat 32 (bits w.v 0 32)))
  | 0x108 => { s with dev := { s.dev with stkCtl := w.over32 s.dev.stkCtl &&& 0xFFFF00FF } }
  | 0x110 => lo (s.writeRprCtl w.v)
  | 0x118 => { s with dev := { s.dev with rprData := w.over s.dev.rprData } }
  | 0x180 => stateOr s (execFabCfgWrite (w.over s.fab.cfg) s)
  | 0x188 =>
    let s := if w.has 0 then stateOr s (execFabJoin s) else s
    if w.has 1 then stateOr s (execFabLeave s) else s
  | 0x190 => if w.has 3 then { s with fab := { s.fab with done := false } } else s
  | 0x1A0 => lo (s.writeRtCtl w.v)
  | 0x1A8 => { s with fab := { s.fab with rtData := w.over s.fab.rtData } }
  | 0x200 => s.writeCap (w.over s.weir.cap)
  | 0x208 => s.writeWeirCfg (w.over s.weir.cfg)
  | 0x210 => if w.has 10 then { s with weir := { s.weir with trip := false } } else s
  | 0x220 => s.writeElog (w.over s.weir.elog)
  | _ => s

/-- Stream registers. -/
def State.writeStream (s : State) (i : StreamId) (o : Nat) (w : Wr) : State :=
  let r := s.sreg i
  match o with
  | 0x10 => s.writeJob i false (w.over r.job)
  | 0x18 => if w.lo then s.writeJob i true w.v else s
  | 0x40 => s.writeSched i .prog (w.over r.schedProg)
  | 0x48 => s.writeSched i .param (w.over r.schedParam)
  | 0x50 => s.writeSched i .shape (w.over r.schedShape)
  | 0x58 => s.setSreg i { r with schedStep := BitVec.ofNat 48 (bits (w.over (r.schedStep.setWidth 64)) 0 48) }
  | 0x80 => s.writeTreeCtl i w
  | 0x88 => s.setSreg i { r with treeArg0 := w.over r.treeArg0 }
  | 0x90 => s.setSreg i { r with treeArg1 := w.over r.treeArg1 }
  | 0x98 => if w.has 1 then s.setSreg i { r with treeStatus := setBits r.treeStatus 1 1 0 } else s
  | 0xC0 => s.writeCmdRing i (w.over r.cmdRing)
  | 0xC8 => s.writeCplRing i (w.over r.cplRing)
  | _ => s

/-- A counter register of number k: a selector or a count. -/
def State.writeEvt (s : State) (k : Nat) (cnt : Bool) (w : Wr) : State :=
  if cnt then s.writeCnt k (w.over (BitVec.ofNat 64 (bits (s.evtCnt k) 0 48)))
  else s.writeSel k (w.over (s.evtSel k))

/-- Cluster registers. -/
def State.writeCluster (s : State) (c o : Nat) (w : Wr) : State :=
  match o with
  | 0x000 => s.modCluster c fun x => { x with riffleCfg := w.over32 x.riffleCfg &&& 0xFFFF03FF }
  | 0x008 => s.modCluster c fun x => { x with lastCfg := w.over32 x.lastCfg &&& 0xFFF }
  | 0x010 => s.modCluster c fun x => { x with rctFail := x.rctFail && !w.has 1, aptFail := x.aptFail && !w.has 2 }
  | 0x018 => if w.has 0 then stateOr s (execNoiseRestart (BitVec.ofNat 5 c) s) else s
  | 0x020 => s.modCluster c fun x => { x with cchCfg := w.over32 x.cchCfg &&& 0x1F }
  | 0x028 => s.modCluster c fun x => { x with awlCfg := w.over32 x.awlCfg &&& 0x3FF03 }
  | 0x038 => if w.lo then s.clearFences c (BitVec.ofNat 16 (bits w.v 0 16)) else s
  | _ =>
    match evtOf o 0x200 16, evtOf o 0x280 16 with
    | some n, _ => s.writeEvt (4096 + 16 * c + n) false w
    | _, some n => s.writeEvt (4096 + 16 * c + n) true w
    | _, _ => s

/-- Core registers. -/
def State.writeCore (s : State) (c o : Nat) (w : Wr) : State :=
  match evtOf o 0x40 8, evtOf o 0x80 8 with
  | some n, _ => s.writeEvt (8 * c + n) false w
  | _, some n => s.writeEvt (8 * c + n) true w
  | _, _ =>
    if o = 0 ∧ w.lo = true then s.modCore c fun k => { k with katFail := k.katFail &&& ~~~(BitVec.ofNat 4 (bits w.v 0 4)) } else s

/-- FAB_PORT_CTL: enable 0 takes the port down and keeps it down; retrain (R353). -/
def State.writePortCtl (s : State) (p : Nat) (v : W64) : State :=
  let on := bit v 0
  let s := s.modPort p fun x => { x with enable := on }
  let s := if on then stateOr s (execPortTrain (BitVec.ofNat 5 p) s)
    else if (s.port p).link = .down then s else (s.portDown p).joinCheck.settle
  if bit v 1 then stateOr s (execFabPortRetrain (BitVec.ofNat 5 p) s) else s

/-- FAB_INWIN, which levee bit 2 locks. -/
def State.writeInwin (s : State) (k : Nat) (v : W64) : State :=
  if bit s.sec.levee 2 then s.leveeDenied
  else { s with fab := { s.fab with inwin := tput s.fab.inwin k (BitVec.ofNat 64 (bits v 0 55)) } }

/-- Indexed arrays. -/
def State.writeArray (s : State) (o : Nat) (w : Wr) : State :=
  if 0x1000 ≤ o ∧ o < 0x2000 then
    (if w.lo then s.modVault ((o - 0x1000) / 8) fun x =>
      { x with suspect := x.suspect &&& ~~~(BitVec.ofNat 6 (bits w.v 7 6)) } else s)
  else if 0x2000 ≤ o ∧ o < 0x2280 then
    (let e := (o - 0x2000) / 0x40
     match o % 0x40 with
     | 0x00 => s.writeVidRing e (w.over (s.engine e).ring)
     | 0x08 => s.writeVidCpl e (w.over (s.engine e).cpl)
     | 0x10 => if w.lo then stateOr s (execVidDb (BitVec.ofNat 4 e) s) else s
     | _ => s)
  else if 0x3000 ≤ o ∧ o < 0x3200 then
    (if o % 16 = 0 ∧ w.lo = true then s.writePortCtl ((o - 0x3000) / 16) w.v else s)
  else if 0x3200 ≤ o ∧ o < 0x3240 then
    (let k := (o - 0x3200) / 8
     s.writeInwin k (w.over (s.inwin k)))
  else if 0x6000 ≤ o ∧ o < 0x62C0 then
    (let k := (o - 0x6000) / 8
     { s with hif := { s.hif with irqMap := tput s.hif.irqMap k (w.over32 (s.irqEntry k) &&& 0xFFF) } })
  else if o = 0x6300 then s.clearPend false (w.over 0)
  else if o = 0x6308 then s.clearPend true (w.over 0)
  else if 0x6400 ≤ o ∧ o < 0x6500 then
    (let d := (o - 0x6400) / 0x20
     match o % 0x20 with
     | 0x00 => s.writeDmaRing d (w.over (s.chan d).ring)
     | 0x08 => s.writeDmaWb d (w.over (s.chan d).wb)
     | 0x10 => if w.has 17 then stateOr s (execDmaRestart (BitVec.ofNat 3 d) s) else s
     | _ => s)
  else if o = 0x6500 then s.writeWin (w.over s.hif.win)
  else if 0xB000 ≤ o ∧ o < 0xB020 then (if w.lo then s.writeKey ((o - 0xB000) / 8) (bit w.v 1) else s)
  else if 0xC000 ≤ o ∧ o < 0xC100 then s.writeEvt (4608 + (o - 0xC000) / 8) false w
  else if 0xC100 ≤ o ∧ o < 0xC200 then s.writeEvt (4608 + (o - 0xC100) / 8) true w
  else s

/-- A write of a slot by an agent, in a phase in which the slot answers. -/
def State.slotWrite (s : State) (who : Agent) (p : Slot) (w : Wr) : State :=
  match p with
  | .dev o => s.writeDev who o w
  | .stream i o => s.writeStream i o w
  | .cluster c o => s.writeCluster c o w
  | .core c o => s.writeCore c o w
  | .array o => s.writeArray o w
  | _ => s

/-- The write that an access makes. -/
def RegAcc.wr (a : RegAcc) (v : W64) : Wr :=
  if a.size8 then ⟨v, true, true⟩
  else if a.off % 8 = 4 then ⟨BitVec.ofNat 64 (bits v 0 32 * 2 ^ 32), false, true⟩
  else ⟨BitVec.ofNat 64 (bits v 0 32), true, false⟩

/-! ### Contexts (R126, R461, R480, R487) -/

/-- A context's read through the register window. -/
def State.ctxRegRead (s : State) (a : RegAcc) : W64 × State := s.regRead a

/-- A context's write through the register window; the debug window drops it, counted (R487). -/
def State.ctxRegWrite (s : State) (cx : CtxId) (a : RegAcc) (v : W64) : State :=
  match a.slot with
  | .debug _ _ => s.regRefused
  | p => s.slotWrite (.ctx cx) p (a.wr v)

end Sys2Proof.Machine
end

