-- ==== Sys2Proof/Machine/Sequencer.lean ====
section
/-! DEFINITION. The sequencer instructions (R22-R25, R103-R106, R118, R123-R133, R150, R153). -/

namespace Sys2Proof.Machine

/-! ### Arithmetic, comparisons, predicates (R124-R126) -/

/-- s.alu (R125, R126). -/
def aluResult (fn : AluFn) (a b : W64) : W64 :=
  match fn with
  | .add => a + b
  | .sub => a - b
  | .and => a &&& b
  | .or => a ||| b
  | .xor => a ^^^ b
  | .sll => a <<< (b.toNat % 64)
  | .srl => a >>> (b.toNat % 64)
  | .sra => a.sshiftRight (b.toNat % 64)
  | .mul => a * b
  | .mulh => BitVec.ofInt 64 (a.toInt * b.toInt / 2 ^ 64)
  | .mulhu => BitVec.ofNat 64 (a.toNat * b.toNat / 2 ^ 64)
  | .min => if a.toInt < b.toInt then a else b
  | .max => if a.toInt < b.toInt then b else a
  | .minu => if a.toNat < b.toNat then a else b
  | .maxu => if a.toNat < b.toNat then b else a
  | .divu => if b = 0 then BitVec.allOnes 64 else a / b
  | .remu => if b = 0 then a else a % b

/-- s.shi (R125). -/
def shiResult (k : ShiftKind) (a : W64) (n : Nat) : W64 :=
  match k with
  | .left => a <<< n
  | .logical => a >>> n
  | .arithmetic => a.sshiftRight n

/-- s.mov16 (R124): 16-bit position hw takes imm, the rest kept or cleared. -/
def mov16Result (old : W64) (hw : Nat) (keep : Bool) (imm : BitVec 16) : W64 :=
  setBits (if keep then old else 0) (16 * hw) 16 imm.toNat

/-- S_ALU. -/
def execSAlu (cx : CtxId) (p : Pred) (fn : AluFn) (d a b : Reg) (s : State) : Res :=
  .next (s.issueReg cx p fun c => c.setS d (aluResult fn (c.s a) (c.s b)))

/-- S_ADDI. -/
def execSAddi (cx : CtxId) (p : Pred) (d a : Reg) (imm : BitVec 12) (s : State) : Res :=
  .next (s.issueReg cx p fun c => c.setS d (c.s a + sext64 imm))

/-- S_ANDI. -/
def execSAndi (cx : CtxId) (p : Pred) (d a : Reg) (imm : BitVec 12) (s : State) : Res :=
  .next (s.issueReg cx p fun c => c.setS d (c.s a &&& sext64 imm))

/-- S_ORI. -/
def execSOri (cx : CtxId) (p : Pred) (d a : Reg) (imm : BitVec 12) (s : State) : Res :=
  .next (s.issueReg cx p fun c => c.setS d (c.s a ||| sext64 imm))

/-- S_XORI. -/
def execSXori (cx : CtxId) (p : Pred) (d a : Reg) (imm : BitVec 12) (s : State) : Res :=
  .next (s.issueReg cx p fun c => c.setS d (c.s a ^^^ sext64 imm))

/-- S_SHI. -/
def execSShi (cx : CtxId) (p : Pred) (kind : ShiftKind) (d a : Reg) (amount : BitVec 6) (s : State) : Res :=
  .next (s.issueReg cx p fun c => c.setS d (shiResult kind (c.s a) amount.toNat))

/-- S_MOV16: format K has no predication (R124). -/
def execSMov16 (cx : CtxId) (hw : BitVec 2) (keep : Bool) (d : Reg) (imm : BitVec 16) (s : State) : Res :=
  .next (s.issueReg cx ⟨false, 0⟩ fun c => c.setS d (mov16Result (c.s d) hw.toNat keep imm))

/-- S_CMP. -/
def execSCmp (cx : CtxId) (p : Pred) (cond : Cond) (d : BitVec 3) (a b : Reg) (s : State) : Res :=
  .next (s.issueReg cx p fun c => c.setP d (condHolds cond (c.s a) (c.s b)))

/-- S_CMPI. -/
def execSCmpi (cx : CtxId) (p : Pred) (cond : Cond) (d : BitVec 3) (a : Reg) (imm : BitVec 9) (s : State) : Res :=
  .next (s.issueReg cx p fun c => c.setP d (condHolds cond (c.s a) (sext64 imm)))

/-- S_POP. -/
def execSPop (cx : CtxId) (p : Pred) (fn : PopFn) (d a b : BitVec 3) (s : State) : Res :=
  .next (s.issueReg cx p fun c => c.setP d (popResult fn (c.p a) (c.p b)))

/-! ### Scalar memory accesses (R126, R261, R273-R276, R361-R366) -/

/-- Bounds at which a scalar access waits: the awl, a tag, a line held by an earlier write (R153, R361, R363). -/
def memBound (q : Nat) : Bool := decide (q = 4) || decide (q = 5) || decide (q = 8)

/-- The naming word of a global address. -/
def addrName (a : W64) : W64 := nameW 8 a.toNat

/-- Device of a global address. -/
def addrDev (a : W64) : Nat := a.toNat / 2 ^ 48
/-- Local part of a global address. -/
def addrLocal (a : W64) : Nat := a.toNat % 2 ^ 48

/-- A remote request of a context: it waits at a held line or for a tag, faults where it cannot be sent, and then waits for
the response or goes on (R361, R363, R366). -/
def State.remoteOp (s : State) (cx : CtxId) (typ : BitVec 8) (a : W64) (code : BitVec 8) (pay : List Byte)
    (who : Requester) (waits : Bool) : State :=
  match s.request typ (addrDev a) (addrLocal a) code 0 pay who with
  | .failed e => s.faultCtx cx e (addrName a)
  | .held q => s.holdAt cx q
  | .sent t s =>
    if waits then s.modCtx cx fun c => { c with wait := .remote (BitVec.ofNat 13 t) }
    else s.advance cx 4

/-- A load's value arrives in s[d]. -/
def State.loaded (s : State) (cx : CtxId) (d : Reg) (v : W64) : State := (s.modCtx cx fun c => c.setS d v).advance cx 4

/-- An awl request of a context: a core at its bound of outstanding requests waits. As a request completes in the step that makes
it, only a per_core_max of 0 is ever met (R153, R277, log 1, DESIGN CHOICE). -/
def State.awlBound (s : State) (cx : CtxId) (k : State → State) : State :=
  if bits (s.cluster (ctxCore cx / 16)).awlCfg 8 10 = 0 then s.holdAt cx 4 else k s

/-- A scalar load of n bytes into s[d], zero-extended (R126). A poisoned line faults (R279). -/
def State.scalarLoad (s : State) (cx : CtxId) (d : Reg) (a : W64) (n : Nat) : State :=
  let loc := addrLocal a
  if a.toNat % n ≠ 0 then s.faultCtx cx eAlign (addrName a)
  else if addrDev a ≠ s.own then
    s.remoteOp cx 0x01 a (BitVec.ofNat 8 n) [] (.ctxLoad cx d (decide (n = 8))) true
  else
    match regionOf loc with
    | .stack =>
      s.awlBound cx fun s =>
        let s := s.awlRead (ctxCore cx / 16) (loc / 128) none
        if s.poisoned (loc / 128) then s.faultCtx cx eStackUe (poisonName (loc / 128))
        else s.loaded cx d (BitVec.ofNat 64 (s.num loc n))
    | .store _ _ => s.loaded cx d (BitVec.ofNat 64 (s.num loc n))
    | .regs off =>
      let (v, s) := s.ctxRegRead ⟨off, decide (n = 8)⟩
      s.loaded cx d v
    | .cch x =>
      if n = 8 then
        s.cchAccess cx x fun s => s.modCtx cx fun c => c.setS d (BitVec.ofNat 64 (s.lineState (x / 128)))
      else s.faultCtx cx eBounds (addrName a)
    | _ => s.faultCtx cx eBounds (addrName a)

/-- A scalar store of the low n bytes of v (R126). -/
def State.scalarStore (s : State) (cx : CtxId) (a : W64) (n : Nat) (v : W64) : State :=
  let loc := addrLocal a
  let c := s.ctx cx
  let bs := leBytes n v.toNat
  if a.toNat % n ≠ 0 then s.faultCtx cx eAlign (addrName a)
  else if addrDev a ≠ s.own then s.remoteOp cx 0x03 a 0 bs (.ctxStore c.dev c.strm cx) false
  else
    match regionOf loc with
    | .stack => s.awlBound cx fun s => (s.awlStore (ctxCore cx / 16) loc bs (s.atHome (loc / 128))).advance cx 4
    | .store _ _ => (s.putBytes loc bs).advance cx 4
    | .regs off => (s.ctxRegWrite cx ⟨off, decide (n = 8)⟩ v).moveOn cx 4
    | .cch x =>
      if n = 8 then s.cchAccess cx x fun s => s.cchStore (x / 128) v
      else s.faultCtx cx eBounds (addrName a)
    | _ => s.faultCtx cx eBounds (addrName a)

/-- S_LD. -/
def execSLd (cx : CtxId) (p : Pred) (d a : Reg) (imm : BitVec 12) (s : State) : Res :=
  .next (s.issueWait cx p memBound false fun s => s.scalarLoad cx d ((s.ctx cx).s a + sext64 imm) 8)

/-- S_LDW. -/
def execSLdw (cx : CtxId) (p : Pred) (d a : Reg) (imm : BitVec 12) (s : State) : Res :=
  .next (s.issueWait cx p memBound false fun s => s.scalarLoad cx d ((s.ctx cx).s a + sext64 imm) 4)

/-- S_ST. -/
def execSSt (cx : CtxId) (p : Pred) (d a : Reg) (imm : BitVec 12) (s : State) : Res :=
  .next (s.issueWait cx p memBound false fun s => s.scalarStore cx ((s.ctx cx).s a + sext64 imm) 8 ((s.ctx cx).s d))

/-- S_STW. -/
def execSStw (cx : CtxId) (p : Pred) (d a : Reg) (imm : BitVec 12) (s : State) : Res :=
  .next (s.issueWait cx p memBound false fun s => s.scalarStore cx ((s.ctx cx).s a + sext64 imm) 4 ((s.ctx cx).s d))

/-- A 64-bit atomic at global address a with operand v (R125, R275); compare-and-swap compares with s[d]. The windows are not
reached by s.amo (R261). -/
def State.scalarAmo (s : State) (cx : CtxId) (fn : AmoFn) (d : Reg) (a v : W64) : State :=
  let loc := addrLocal a
  let cmp := (s.ctx cx).s d
  let pay := leBytes 8 v.toNat ++ (if fn = .cas then leBytes 8 cmp.toNat else [])
  let old : W64 := BitVec.ofNat 64 (s.num loc 8)
  if a.toNat % 8 ≠ 0 then s.faultCtx cx eAlign (addrName a)
  else if addrDev a ≠ s.own then s.remoteOp cx 0x05 a (amoCode fn) pay (.ctxAtomic cx d) true
  else
    match regionOf loc with
    | .stack =>
      s.awlBound cx fun s =>
        if s.badLine (loc / 128) then
          ((s.awlAccept (ctxCore cx / 16)).countHome evStackRdLines (loc / 128) (b2n (s.cline (loc / 128)).isNone)).faultCtx cx eStackUe
            (poisonName (loc / 128))
        else (s.awlAtomic (ctxCore cx / 16) loc fn cmp v none).loaded cx d old
    | .store _ _ => (s.putBytes loc (leBytes 8 (amoNew fn old cmp v).toNat)).loaded cx d old
    | _ => s.faultCtx cx eBounds (addrName a)

/-- S_AMO. -/
def execSAmo (cx : CtxId) (p : Pred) (fn : AmoFn) (d a b : Reg) (s : State) : Res :=
  .next (s.issueWait cx p memBound false fun s => s.scalarAmo cx fn d ((s.ctx cx).s a) ((s.ctx cx).s b))

/-! ### Jumps (R124-R126) -/

/-- Target of a branch (R124). -/
def Ctx.branch (c : Ctx) (off : BitVec 22) : W64 := c.pc + 4 * sext64 off

/-- S_BR. -/
def execSBr (cx : CtxId) (p : Pred) (off : BitVec 22) (s : State) : Res :=
  .next (s.issue cx p 4 fun s => s.goto cx ((s.ctx cx).branch off))

/-- S_CALL. -/
def execSCall (cx : CtxId) (p : Pred) (off : BitVec 22) (s : State) : Res :=
  .next (s.issue cx p 4 fun s =>
    let t := (s.ctx cx).branch off
    (s.modCtx cx fun c => c.setS 31 (c.pc + 4)).goto cx t)

/-- The local address that a register names on this device: a local address, or this device's own global one (log 51, DEDUCED). -/
def State.localOf (s : State) (a : W64) : Option Nat :=
  if addrDev a = 0 || addrDev a = s.own then some (addrLocal a) else none

/-- Words of the checked program of a context, on the device of its stream. -/
def State.codeWords (s : State) (c : Ctx) : List W32 :=
  wordsOf ((List.range c.codeLen.toNat).map fun i => s.gbyte (c.dev.toNat * 2 ^ 48 + c.codeBase.toNat + i))

/-- What is wrong with a jump or block address (R126); 0 if it is an instruction start of the checked program, or its end. -/
def State.targetErr (s : State) (c : Ctx) (t : W64) : Code :=
  if t.toNat % 4 ≠ 0 then eAlign
  else
    match s.localOf t with
    | none => eBounds
    | some a =>
      if a < c.codeBase.toNat || c.codeEnd.toNat < a then eBounds
      else if a = c.codeEnd.toNat || (startsOf false 0 (s.codeWords c)).contains (a - c.codeBase.toNat) then 0
      else eEncoding

/-- S_JR. -/
def execSJr (cx : CtxId) (p : Pred) (a : Reg) (s : State) : Res :=
  .next (s.issue cx p 4 fun s =>
    let c := s.ctx cx
    let e := s.targetErr c (c.s a)
    if e ≠ 0 then s.faultCtx cx e c.offsetName else s.goto cx (BitVec.ofNat 64 (addrLocal (c.s a))))

/-! ### Macro-instructions (R22, R126, R150, R153) -/

/-- A context of a stream of another device. -/
def State.isFar (s : State) (c : Ctx) : Bool := decide (c.dev.toNat ≠ s.own)

/-- A context asks its stream's device and waits for the answer (log 28, DESIGN CHOICE). -/
def State.ask (s : State) (cx : CtxId) (what : Asked) (q : Ask) : State :=
  let c := s.ctx cx
  (s.modCtx cx fun c => { c with wait := .asked what }).send (.notice c.dev.toNat (.ask (BitVec.ofNat 16 s.own) c.strm cx q))

/-- The ticket an instruction gets: its stream's next one, counting from 0 (R126), or the one that the stream's device
granted. -/
def State.ticketFor (s : State) (c : Ctx) (own : W64) : W64 := if s.isFar c then c.granted.getD 0 else own

/-- After a ticket has been given: n changes the counts of this device's stream. -/
def State.ticketGiven (s : State) (c : Ctx) (n : Stream → Stream) : State := if s.isFar c then s else s.modStrm c.strm n

/-- A refused s.mi faults; a ticket it was granted is given back. -/
def State.faultMi (s : State) (cx : CtxId) (code : Code) (name : W64) : State :=
  let c := s.ctx cx
  let s := s.faultCtx cx code name
  match c.granted with
  | some t => s.send (.notice c.dev.toNat (.miEnd c.strm t))
  | none => s

/-- A macro-instruction as s.mi issues it: descriptor and records are copied (R134). -/
def State.newMi (s : State) (cx : CtxId) (handle : W32) (ls : List (Nat × Nat)) (d : Desc) : MI :=
  let c := s.ctx cx
  let rs := s.readRecs d
  { strm := c.strm, ticket := s.ticketFor c (s.strm c.strm).nextMi, home := c.dev, here := true, seed := c.seed,
    cstream := c.cstream, core := BitVec.ofNat 9 (ctxCore cx), handle := handle, leaves := ls, desc := d, recs := rs,
    atDevice := false, cluster := 0, slot := 0, tm := 0, tk := 0, nm := 0, nn := 0, chunks := 0, parts := 0, team := 0,
    total := 0, next := 0, returned := [], out := [], claimed := 0, retired := 0, waiting := false, scanned := false,
    stopped := false, faulted := false, pub := none, units := [], hist := [], present := [], pins := [],
    pool := if hasRole rs rolePool then some (poolIdx rs) else none, mergeSlots := [], mergeDone := [], teamRows := [],
    prio := s.prioOf c.dev c.strm }

/-- The loader's verdict on the descriptor that s[b] names (R150). -/
def State.miRefusal (s : State) (cx : CtxId) (a : W64) (ls : List (Nat × Nat)) : Refused :=
  match s.localOf a with
  | some loc => s.loaderErr (ctxCore cx) loc ls
  | none => if a.toNat % 32 ≠ 0 then some (eAlign, addrName a) else some (eBounds, addrName a)

/-- The issue of a macro-instruction that the loader has accepted: publication, ticket, counts. -/
def State.acceptMi (s : State) (cx : CtxId) (d : Reg) (m : MI) (sh : Shape) : State :=
  let c := s.ctx cx
  let s := match m.pool with
    | some p => s.modPool p fun x => { x with users := x.users + 1 }
    | none => s
  let s := (s.publish m sh).ticketGiven c fun x => { x with nextMi := x.nextMi + 1 }
  ((s.countCtx cx evMiIssued 1).countDead m.handle).loaded cx d m.ticket

/-- A macro-instruction issued to an empty group completes at once without work (R22). -/
def State.emptyMi (s : State) (cx : CtxId) (d : Reg) (handle : W32) : State :=
  let c := s.ctx cx
  let t := s.ticketFor c (s.strm c.strm).nextMi
  let s := s.ticketGiven c fun x => { x with nextMi := x.nextMi + 1 }
  let s := (s.countCtx cx evEmptyGroupIssue 1).countCtx cx evMiIssued 1
  let s := ((s.countCtx cx evMiRetired 1).countDead handle).loaded cx d t
  if s.isFar c then s.send (.notice c.dev.toNat (.miEnd c.strm t)) else s

/-- s.mi of descriptor address a to a unit: the handle, fenced cores, the bounds, then the loader (R19, R126, R150, R153,
R455). Whether it waits at a bound before or after the loader judges the descriptor is not said; it waits first (log 51,
DESIGN CHOICE). A context that pauses stops here (R119). -/
def State.issueMi (s : State) (cx : CtxId) (d : Reg) (handle : W32) (a : W64) : State :=
  let c := s.ctx cx
  let ls := s.leavesOf handle
  if c.pausing then s.modCtx cx Ctx.halted
  else if s.handleErr handle ≠ 0 then s.faultMi cx (s.handleErr handle) (nameW 5 handle.toNat)
  else if s.anyFenced ls then (s.askedFar ls).faultMi cx eCoreFenced 0
  else
    let s := s.askedFar ls
    if !s.isFar c && decide (16 ≤ s.outstanding c.strm) then s.holdAt cx 0
    else if !ls.isEmpty && (s.freeSlot (s.lastOf ls)).isNone then s.holdAt cx (if (s.lastOf ls).isSome then 1 else 2)
    else
      match s.miRefusal cx a ls with
      | some (e, w) =>
        (s.count evLoaderRefused (.cluster (ctxCore cx / 16)) (s.ctxStrm cx) 1).faultMi cx e w
      | none =>
        if s.isFar c && c.granted.isNone then s.ask cx .ticket (.mi ls)
        else if ls.isEmpty then s.emptyMi cx d handle
        else
          let desc : Desc := BitVec.ofNat 256 (s.num (addrLocal a) 32)
          let m := s.newMi cx handle ls desc
          match s.shape (ctxCore cx) desc m.recs ls with
          | some sh => s.acceptMi cx d m sh
          | none => s

/-- S_MI. -/
def execSMi (cx : CtxId) (p : Pred) (d a b : Reg) (s : State) : Res :=
  .next (s.issueWait cx p (fun q => decide (q ≤ 2)) true fun s =>
    s.issueMi cx d (BitVec.ofNat 32 (bits ((s.ctx cx).s a) 0 32)) ((s.ctx cx).s b))

/-- S_MWAIT: a ticket not yet given faults; one that is outstanding is waited for; a retired one lets the context go on. A
stream's device answers a context of another device. -/
def execSMwait (cx : CtxId) (p : Pred) (a : Reg) (s : State) : Res :=
  .next (s.issueWait cx p (fun _ => false) true fun s =>
    let c := s.ctx cx
    let t := c.s a
    if s.isFar c then (if c.granted.isSome then s.advance cx 4 else s.ask cx .work (.mwait t))
    else if (s.strm c.strm).nextMi.toNat ≤ t.toNat then s.faultCtx cx eHandle 0
    else if (s.workMis c.strm).any fun m => decide (m.1 = t) then s.waitFor cx (.mwait t)
    else s.advance cx 4)

/-! ### Blocks (R22, R103, R105, R126) -/

/-- The arguments a block gets from the context that dispatches it (R105). -/
def Ctx.args (c : Ctx) : List W64 := [c.s 1, c.s 2, c.s 3, c.s 4]

/-- What s.disp counts and returns once the block has its ticket. -/
def State.dispatched (s : State) (cx : CtxId) (d : Reg) (handle : W32) (ls : List (Nat × Nat)) (t : W64) : State :=
  let s := if ls.isEmpty then s.countCtx cx evEmptyGroupIssue 1 else s
  ((s.countCtx cx evDispIssued 1).countDead handle).loaded cx d t

/-- The dispatch of a block of this device's stream at local address a to a leaf set. -/
def State.dispatch (s : State) (cx : CtxId) (d : Reg) (handle : W32) (ls : List (Nat × Nat)) (a : W64) : State :=
  let c := s.ctx cx
  let t := (s.strm c.strm).nextDisp
  let s := s.modStrm c.strm fun x => { x with
    nextDisp := x.nextDisp + 1, disps := if ls.isEmpty then x.disps else x.disps ++ [⟨t, handle, ls⟩] }
  let s := s.dispatched cx d handle ls t
  let s := (s.farDevs ls).foldl (fun s v =>
    s.send (.notice v (.dispatch c.dev c.strm t a c.args (blocksOn v ls) c.codeBase c.codeLen))) s
  s.takeDispatch c.dev c.strm t a c.args (blocksOn s.own ls) c.codeBase c.codeLen

/-- s.disp: the handle, the block address, fenced cores, then the block contexts (R19, R103, R126, R455, log 51, DEDUCED). The
device of the stream makes the dispatch. -/
def State.issueDisp (s : State) (cx : CtxId) (d : Reg) (handle : W32) (a : W64) : State :=
  let c := s.ctx cx
  let ls := s.leavesOf handle
  let addr : W64 := BitVec.ofNat 64 (addrLocal a)
  match s.isFar c, c.granted with
  | true, some t => s.dispatched cx d handle ls t
  | far, _ =>
    if s.handleErr handle ≠ 0 then s.faultCtx cx (s.handleErr handle) (nameW 5 handle.toNat)
    else if s.targetErr c a ≠ 0 then s.faultCtx cx (s.targetErr c a) c.offsetName
    else if s.anyFenced ls then (s.askedFar ls).faultCtx cx eCoreFenced 0
    else
      let s := s.askedFar ls
      if far then s.ask cx .block (.disp handle addr c.args ls)
      else if !(ls.all fun l => (s.strm c.strm).leaves.contains l) then s.faultCtx cx eHandle (nameW 5 handle.toNat)
      else s.dispatch cx d handle ls addr

/-- S_DISP. -/
def execSDisp (cx : CtxId) (p : Pred) (d a b : Reg) (s : State) : Res :=
  .next (s.issueWait cx p (fun _ => false) true fun s =>
    s.issueDisp cx d (BitVec.ofNat 32 (bits ((s.ctx cx).s a) 0 32)) ((s.ctx cx).s b))

/-! ### Fences (R22, R131, R133) -/

/-- The block a context runs itself: no fence of it waits for that (log 51, DEDUCED). -/
def Ctx.mine (c : Ctx) : Option W64 := if c.lead then none else c.blocks.head?.map Block.ticket

/-- A remote write or atomic that a fence waits for (R131): fn 0 the context's own, fn 3 all of its stream. -/
def State.fenceWrites (s : State) (cx : CtxId) (fn : FenceFn) : Bool :=
  let c := s.ctx cx
  s.fab.reqs.any fun e =>
    match e.2 with
    | none => false
    | some r =>
      match r.who, fn with
      | .ctxStore _ _ k, .localScope => decide (k = cx)
      | .ctxStore d i _, .system => decide (d = c.dev) && decide (i = c.strm)
      | .macroWrite h i _, .system => decide (h = c.dev) && decide (i = c.strm)
      | .ctxAtomic k _, .system => decide ((s.ctx k).dev = c.dev) && decide ((s.ctx k).strm = c.strm)
      | _, _ => false

/-- Whether a waiting fence's scope holds: the tickets and blocks it waits for are done, and its remote writes
acknowledged. -/
def State.fenceMet (s : State) (cx : CtxId) (fn : FenceFn) (ts bs : List W64) : Bool :=
  let c := s.ctx cx
  (s.isFar c || s.workDone c.strm ts bs) && !s.fenceWrites cx fn

/-- A fence completes: one of scope 2 or 3 publishes the epochs its stream has advanced, on every device (R132, R299). -/
def State.fenceDone (s : State) (cx : CtxId) (fn : FenceFn) : State :=
  let c := s.ctx cx
  let s := if fn = .device ∨ fn = .system then
      (let s := s.publishAll c.dev c.strm
       if s.isFar c then s.send (.notice c.dev.toNat (.fenced c.dev c.strm)) else s)
    else s
  s.advance cx 4

/-- A fence issues: it completes at once if it has nothing to wait for. The scope of one that runs here for another device's
stream is that device's to tell. -/
def State.issueFence (s : State) (cx : CtxId) (fn : FenceFn) (unit : List (Nat × Nat)) : State :=
  let c := s.ctx cx
  if s.isFar c && decide (fn ≠ .localScope) then s.ask cx (.scope fn) (.fence fn c.mine unit)
  else
    let (ts, bs) := s.fenceScope c.strm s.own c.mine fn unit
    if s.fenceMet cx fn ts bs then s.fenceDone cx fn
    else s.waitFor cx (.fence fn ts bs)

/-- S_FENCE: a unit must have a handle that R19 admits and no fenced core (R455); one on an empty group is counted (R22). -/
def execSFence (cx : CtxId) (p : Pred) (fn : FenceFn) (a : Reg) (s : State) : Res :=
  .next (s.issueWait cx p (fun _ => false) true fun s =>
    if fn = .unit then
      (let h : W32 := BitVec.ofNat 32 (bits ((s.ctx cx).s a) 0 32)
       let ls := s.leavesOf h
       if !s.handleOk h then s.faultCtx cx eHandle (nameW 5 h.toNat)
       else if s.anyFenced ls then (s.askedFar ls).faultCtx cx eCoreFenced 0
       else
         (let s := (s.askedFar ls).countDead h
          (if ls.isEmpty then s.countCtx cx evEmptyGroupIssue 1 else s).issueFence cx fn ls))
    else s.issueFence cx fn [])

/-- SEQ_FENCE_COMPLETE: a waiting fence whose scope holds completes. -/
def execSeqFenceComplete (cx : CtxId) (s : State) : Res :=
  match (s.ctx cx).wait with
  | .fence fn ts bs => .next (if s.up && s.fenceMet cx fn ts bs then s.fenceDone cx fn else s)
  | _ => .next s

/-! ### Groups, information, the end (R24, R25, R118, R125) -/

/-- S_GDEF: 0 or the error in s[d] (R24, R126). -/
def execSGdef (cx : CtxId) (p : Pred) (d a b : Reg) (s : State) : Res :=
  .next (s.issue cx p 4 fun s =>
    let c := s.ctx cx
    let i := bits (c.s a) 0 16
    let src := addrLocal (c.s b)
    let s := s.gdefFlush
    let e := s.gdefErr i (s.localOf (c.s b)).isSome src
    (if e = 0 then s.gdefine i src else s).loaded cx d (e.setWidth 64))

/-- S_GUNDEF: 0 or the error in s[d] (R25, R126). -/
def execSGundef (cx : CtxId) (p : Pred) (d a : Reg) (s : State) : Res :=
  .next (s.issue cx p 4 fun s =>
    let i := bits ((s.ctx cx).s a) 0 16
    let s := s.gdefFlush
    let e := s.gundefErr i
    (if e = 0 then s.gundefine i else s).loaded cx d (e.setWidth 64))

/-- The core's island has run on for a time that the manual does not fix (log 51, DEDUCED). -/
def State.runIsland (s : State) (c : Nat) : State :=
  let n := s.freeW.toNat
  (s.modCore c fun x => { x with cycles := x.cycles + n }).takeFree

/-- What s.info reads (R125). -/
def State.infoOf (s : State) (cx : CtxId) (fn : InfoFn) : W64 :=
  let c := s.ctx cx
  match fn with
  | .cycle => BitVec.ofNat 64 (s.core (ctxCore cx)).cycles
  | .device => BitVec.ofNat 64 s.own
  | .stream => BitVec.ofNat 64 c.strm.toNat
  | .core => BitVec.ofNat 64 (ctxCore cx)
  | .rank => BitVec.ofNat 64 c.rank
  | .leaves => BitVec.ofNat 64 c.leafCount

/-- S_INFO. -/
def execSInfo (cx : CtxId) (p : Pred) (fn : InfoFn) (d : Reg) (s : State) : Res :=
  .next (s.issue cx p 4 fun s =>
    let s := if fn = .cycle then s.runIsland (ctxCore cx) else s
    s.loaded cx d (s.infoOf cx fn))

/-- S_END (R118). -/
def execSEnd (cx : CtxId) (p : Pred) (s : State) : Res :=
  .next (s.issue cx p 4 fun s => s.endCtx cx)

end Sys2Proof.Machine
end

