-- ==== Sys2Proof/Machine/Vector.lean ====
section
/-! DEFINITION. The vector instructions (R127, R128, R186-R203, R224, R489). -/

namespace Sys2Proof.Machine

/-- A vector form that LOAD refuses stops; an accepted one answers t (R128). -/
def vecRes (vop : Nat) (cx : CtxId) (p : Pred) (v : VOp) (s t : State) : Res :=
  if s.canIssue cx && (s.ctx cx).on p && !vOk vop v then .refused .undefinedEncoding else .next t

/-- Active lane-halves of an instruction in a register format. -/
def laneOps (c : Ctx) (v : VOp) (fmt : Nat) : Nat := (c.activeLanes v).length * halves fmt

/-- Issue a vector instruction with effect k; it is counted as issued, and so are steps of v.welford, whether or not its
predicate lets it act (R106, R127, R203). -/
def State.issueVec (s : State) (cx : CtxId) (p : Pred) (k : State → State) (steps : Nat := 0) : State :=
  let fresh := s.canIssue cx && (s.fetchPoison cx 8).isNone
  (if fresh then (s.countCtx cx evVecIssue 1).countCtx cx evWelfordSteps steps else s).issue cx p 8 k

/-- Take a vector result that operated on `ops` lane-halves: registers, draws (R221), counts (R203); the context advances. -/
def State.takeOps (s : State) (cx : CtxId) (v : VOp) (ops : Nat) (o : VOut) : State :=
  let c := if v.rnd = 2 then { o.ctx with vsr := o.ctx.vsr + 1 } else o.ctx
  let s := s.setCtx cx c
  let s := ((s.countCtx cx evVecLaneOps ops).countCtx cx evVecFp32Flush o.fl).countCtx cx evVecNanMade o.nans
  s.advance cx 8

/-- Take a result that operated on every half of the active lanes. -/
def State.takeVec (s : State) (cx : CtxId) (v : VOp) (fmt : Nat) (o : VOut) : State :=
  s.takeOps cx v (laneOps (s.ctx cx) v fmt) o

/-- A vector instruction on registers only. -/
def State.runVec (s : State) (cx : CtxId) (p : Pred) (v : VOp) (f : Ctx → VOut) : State :=
  s.issueVec cx p fun s => s.takeVec cx v v.fmt.toNat (f (s.ctx cx))

/-- V_ADD (R127, R188). -/
def execVAdd (cx : CtxId) (p : Pred) (v : VOp) (s : State) : Res :=
  vecRes 0 cx p v s (s.runVec cx p v fun c => c.vAdd v)

/-- V_SUB (R127, R188). -/
def execVSub (cx : CtxId) (p : Pred) (v : VOp) (s : State) : Res :=
  vecRes 1 cx p v s (s.runVec cx p v fun c => c.vSub v)

/-- V_MUL (R127, R188). -/
def execVMul (cx : CtxId) (p : Pred) (v : VOp) (s : State) : Res :=
  vecRes 2 cx p v s (s.runVec cx p v fun c => c.vMul v)

/-- V_FMA (R127, R188). -/
def execVFma (cx : CtxId) (p : Pred) (v : VOp) (s : State) : Res :=
  vecRes 3 cx p v s (s.runVec cx p v fun c => c.vFma v)

/-- V_MIN (R188). -/
def execVMin (cx : CtxId) (p : Pred) (v : VOp) (s : State) : Res :=
  vecRes 4 cx p v s (s.runVec cx p v fun c => c.vMin v)

/-- V_MAX (R188). -/
def execVMax (cx : CtxId) (p : Pred) (v : VOp) (s : State) : Res :=
  vecRes 5 cx p v s (s.runVec cx p v fun c => c.vMax v)

/-- V_UN (R127, R189, R190). -/
def execVUn (cx : CtxId) (p : Pred) (v : VOp) (s : State) : Res :=
  vecRes 6 cx p v s (s.runVec cx p v fun c => c.vUn v)

/-- V_CMP (R127, R190). -/
def execVCmp (cx : CtxId) (p : Pred) (v : VOp) (s : State) : Res :=
  vecRes 7 cx p v s (s.runVec cx p v fun c => c.vCmp v)

/-- V_SEL (R186). -/
def execVSel (cx : CtxId) (p : Pred) (v : VOp) (s : State) : Res :=
  vecRes 8 cx p v s (s.runVec cx p v fun c => c.vSel v)

/-- V_LOG (R189). -/
def execVLog (cx : CtxId) (p : Pred) (v : VOp) (s : State) : Res :=
  vecRes 9 cx p v s (s.runVec cx p v fun c => c.vLog v)

/-- V_SH (R127, R189). -/
def execVSh (cx : CtxId) (p : Pred) (v : VOp) (s : State) : Res :=
  vecRes 10 cx p v s (s.runVec cx p v fun c => c.vSh v)

/-- V_CVT, one half of each active lane unless both formats are packed (R489). -/
def execVCvt (cx : CtxId) (p : Pred) (v : VOp) (s : State) : Res :=
  vecRes 11 cx p v s (s.issueVec cx p fun s =>
    let n := if packed v.fmt.toNat && packed v.vc.toNat then 2 else 1
    s.takeOps cx v (n * ((s.ctx cx).activeLanes v).length) ((s.ctx cx).vCvt v))

/-- V_RED (R128). -/
def execVRed (cx : CtxId) (p : Pred) (v : VOp) (s : State) : Res :=
  vecRes 13 cx p v s (s.runVec cx p v fun c => c.vRed v)

/-- V_BCAST (R127). -/
def execVBcast (cx : CtxId) (p : Pred) (v : VOp) (s : State) : Res :=
  vecRes 14 cx p v s (s.runVec cx p v fun c => c.vBcast v)

/-- V_EXT, which operates on one lane (R127). -/
def execVExt (cx : CtxId) (p : Pred) (v : VOp) (s : State) : Res :=
  vecRes 15 cx p v s (s.issueVec cx p fun s =>
    s.takeOps cx v (halves v.fmt.toNat) ((s.ctx cx).vExt v))

/-- V_IOTA (R127). -/
def execVIota (cx : CtxId) (p : Pred) (v : VOp) (s : State) : Res :=
  vecRes 20 cx p v s (s.runVec cx p v fun c => c.vIota v)

/-- V_PERM (R127). -/
def execVPerm (cx : CtxId) (p : Pred) (v : VOp) (s : State) : Res :=
  vecRes 23 cx p v s (s.runVec cx p v fun c => c.vPerm v)

/-- Lane-ic that the active lanes of one v.sfu wait for one another (R193, R196): a unit serves its lanes one after the other,
both halves of a packed lane together (log 52, DEDUCED). -/
def sfuLaneWait (c : Ctx) (v : VOp) : Nat :=
  ((List.range 4).map fun u =>
    let n := ((c.activeLanes v).filter fun l => decide (l / 16 = u)).length
    halves v.fmt.toNat * (n * (n - 1) / 2)).sum

/-- V_SFU (R193-R196): results delivered and the waits among its own lanes are counted. -/
def execVSfu (cx : CtxId) (p : Pred) (v : VOp) (s : State) : Res :=
  vecRes 12 cx p v s (s.issueVec cx p fun s =>
    let n := laneOps (s.ctx cx) v v.fmt.toNat
    ((s.countCtx cx evSfuResults n).countCtx cx evSfuLaneWait (sfuLaneWait (s.ctx cx) v)).takeVec cx v v.fmt.toNat ((s.ctx cx).vSfu v))

/-- V_RNG (R224): words delivered are counted. -/
def execVRng (cx : CtxId) (p : Pred) (v : VOp) (s : State) : Res :=
  vecRes 21 cx p v s (s.issueVec cx p fun s =>
    let n := ((s.ctx cx).activeLanes v).length
    (s.countCtx cx evRngWords n).takeVec cx v v.fmt.toNat ((s.ctx cx).vRng v))

/-- V_WELFORD (R197-R199): steps are counted. -/
def execVWelford (cx : CtxId) (p : Pred) (v : VOp) (s : State) : Res :=
  vecRes 22 cx p v s (s.issueVec cx p (fun s => s.takeVec cx v v.fmt.toNat ((s.ctx cx).vWelford v))
    (b2n (decide (v.fn = 0))))

/-! ### Local store accesses (R127, R128, R189) -/

/-- Local address of n bytes at global address a, if they lie in the local store of this context's core. -/
def State.ownStore (s : State) (cx : CtxId) (a : W64) (n : Nat) : Option Nat :=
  let la := bits a 0 48
  match regionOf la with
  | .store c off => if bits a 48 16 = s.own ∧ c = ctxCore cx ∧ off + n ≤ 0x180000 then some la else none
  | _ => none

/-- Bytes of a memory element. -/
def elemBytes (fmt : Nat) : Nat := fmtBits fmt / 8

/-- A vector load from local address a: vd in every active lane, converted (R189). -/
def State.loadLanes (s : State) (cx : CtxId) (v : VOp) (a : Nat) : VOut :=
  let c := s.ctx cx
  let src := v.fmt.toNat
  let dst := regFmt v.fn
  let n := elemBytes src
  let one (l h : Nat) : ElemOut :=
    convElem src dst (c.vrnd v l h) (s.num (a + n * (if packed dst then 2 * l + h else l)) n)
  c.mapLanes v fun l =>
    if packed dst then
      let x := one l 0
      let y := one l 1
      ⟨putHalf dst (putHalf dst 0 0 x.code) 1 y.code, false, b2n x.nan + b2n y.nan⟩
    else
      let x := one l 0
      ⟨BitVec.ofNat 32 x.code, false, b2n x.nan⟩

/-- The memory elements a vector store writes: address and element. -/
def State.storeElems (s : State) (cx : CtxId) (v : VOp) (a : Nat) : List (Nat × ElemOut) :=
  let c := s.ctx cx
  let src := regFmt v.fn
  let dst := v.fmt.toNat
  let n := elemBytes dst
  (c.activeLanes v).flatMap fun l =>
    (List.range (halves src)).map fun h =>
      (a + n * (if packed src then 2 * l + h else l),
        convElem src dst (c.vrnd v l h) (getHalf src (c.lane v.vd l) h))

/-- Write elements of n bytes in list order. -/
def State.putElems (s : State) (n : Nat) (es : List (Nat × ElemOut)) : State :=
  es.foldl (fun s e => s.putBytes e.1 (leBytes n e.2.code)) s

/-- Base address of v.ld and v.st. -/
def Ctx.vecBase (c : Ctx) (v : VOp) : W64 := c.s v.va + 64 * sext64 v.imm

/-- Bytes a v.ld or v.st covers. -/
def vecSpan (v : VOp) : Nat := 64 * halves (regFmt v.fn) * elemBytes v.fmt.toNat

/-- V_LD (R127, R128, R189). -/
def execVLd (cx : CtxId) (p : Pred) (v : VOp) (s : State) : Res :=
  vecRes 16 cx p v s (s.issueVec cx p fun s =>
    let a := (s.ctx cx).vecBase v
    if a.toNat % 64 ≠ 0 then s.faultCtx cx eAlign (nameW 8 a.toNat)
    else
      match s.ownStore cx a (vecSpan v) with
      | none => s.faultCtx cx eBounds (nameW 8 a.toNat)
      | some la => s.takeVec cx v (regFmt v.fn) (s.loadLanes cx v la))

/-- V_ST (R127, R128, R189). -/
def execVSt (cx : CtxId) (p : Pred) (v : VOp) (s : State) : Res :=
  vecRes 17 cx p v s (s.issueVec cx p fun s =>
    let a := (s.ctx cx).vecBase v
    if a.toNat % 64 ≠ 0 then s.faultCtx cx eAlign (nameW 8 a.toNat)
    else
      match s.ownStore cx a (vecSpan v) with
      | none => s.faultCtx cx eBounds (nameW 8 a.toNat)
      | some la =>
        let es := s.storeElems cx v la
        let s := s.putElems (elemBytes v.fmt.toNat) es
        s.takeVec cx v (regFmt v.fn) ⟨s.ctx cx, 0, (es.map fun e => b2n e.2.nan).sum⟩)

/-- Address of the element of lane l in a gather or scatter (R127). -/
def Ctx.elemAddr (c : Ctx) (v : VOp) (l : Nat) : W64 :=
  c.s v.va + BitVec.ofInt 64 ((c.lane v.vb l).toInt * elemBytes v.fmt.toNat)

/-- First active lane whose element lies outside the core's local store. -/
def State.badLane (s : State) (cx : CtxId) (v : VOp) : Option Nat :=
  let c := s.ctx cx
  (c.activeLanes v).find? fun l => (s.ownStore cx (c.elemAddr v l) (elemBytes v.fmt.toNat)).isNone

/-- V_GATHER (R127, R128, R189). -/
def execVGather (cx : CtxId) (p : Pred) (v : VOp) (s : State) : Res :=
  vecRes 18 cx p v s (s.issueVec cx p fun s =>
    let c := s.ctx cx
    if (c.s v.va).toNat % 64 ≠ 0 then s.faultCtx cx eAlign (nameW 8 (c.s v.va).toNat)
    else
      match s.badLane cx v with
      | some l => s.faultCtx cx eBounds (nameW 8 (c.elemAddr v l).toNat)
      | none =>
        let src := v.fmt.toNat
        let dst := regFmt v.fn
        s.takeVec cx v dst (c.mapLanes v fun l =>
          let x := convElem src dst (c.vrnd v l 0) (s.num (bits (c.elemAddr v l) 0 48) (elemBytes src))
          ⟨BitVec.ofNat 32 x.code, false, b2n x.nan⟩))

/-- V_SCATTER (R127, R128, R192): lanes write in rising order, so the highest lane wins. -/
def execVScatter (cx : CtxId) (p : Pred) (v : VOp) (s : State) : Res :=
  vecRes 19 cx p v s (s.issueVec cx p fun s =>
    let c := s.ctx cx
    if (c.s v.va).toNat % 64 ≠ 0 then s.faultCtx cx eAlign (nameW 8 (c.s v.va).toNat)
    else
      match s.badLane cx v with
      | some l => s.faultCtx cx eBounds (nameW 8 (c.elemAddr v l).toNat)
      | none =>
        let src := regFmt v.fn
        let dst := v.fmt.toNat
        let es := (c.activeLanes v).map fun l =>
          (bits (c.elemAddr v l) 0 48, convElem src dst (c.vrnd v l 0) (c.lane v.vc l).toNat)
        let s := s.putElems (elemBytes dst) es
        s.takeVec cx v src ⟨s.ctx cx, 0, (es.map fun e => b2n e.2.nan).sum⟩)

end Sys2Proof.Machine
end

