-- ==== Sys2Proof/Machine/Debug.lean ====
section
/-! DEFINITION. The debug window (R487, R488) and register accesses (R402, R442, R480-R484). -/

namespace Sys2Proof.Machine

/-! ### One instruction of a context -/

/-- The meaning of a sequencer or vector instruction; none for any other command. -/
def seqExec (i : Instr) (s : State) : Option Res :=
  match i with
  | .sAlu cx p fn d a b => some (execSAlu cx p fn d a b s)
  | .sAddi cx p d a imm => some (execSAddi cx p d a imm s)
  | .sAndi cx p d a imm => some (execSAndi cx p d a imm s)
  | .sOri cx p d a imm => some (execSOri cx p d a imm s)
  | .sXori cx p d a imm => some (execSXori cx p d a imm s)
  | .sShi cx p k d a n => some (execSShi cx p k d a n s)
  | .sMov16 cx hw keep d imm => some (execSMov16 cx hw keep d imm s)
  | .sCmp cx p k d a b => some (execSCmp cx p k d a b s)
  | .sCmpi cx p k d a imm => some (execSCmpi cx p k d a imm s)
  | .sPop cx p fn d a b => some (execSPop cx p fn d a b s)
  | .sLd cx p d a imm => some (execSLd cx p d a imm s)
  | .sLdw cx p d a imm => some (execSLdw cx p d a imm s)
  | .sSt cx p d a imm => some (execSSt cx p d a imm s)
  | .sStw cx p d a imm => some (execSStw cx p d a imm s)
  | .sAmo cx p fn d a b => some (execSAmo cx p fn d a b s)
  | .sBr cx p off => some (execSBr cx p off s)
  | .sCall cx p off => some (execSCall cx p off s)
  | .sJr cx p a => some (execSJr cx p a s)
  | .sMi cx p d a b => some (execSMi cx p d a b s)
  | .sMwait cx p a => some (execSMwait cx p a s)
  | .sDisp cx p d a b => some (execSDisp cx p d a b s)
  | .sFence cx p fn a => some (execSFence cx p fn a s)
  | .sGdef cx p d a b => some (execSGdef cx p d a b s)
  | .sGundef cx p d a => some (execSGundef cx p d a s)
  | .sInfo cx p fn d => some (execSInfo cx p fn d s)
  | .sEnd cx p => some (execSEnd cx p s)
  | .vAdd cx p v => some (execVAdd cx p v s)
  | .vSub cx p v => some (execVSub cx p v s)
  | .vMul cx p v => some (execVMul cx p v s)
  | .vFma cx p v => some (execVFma cx p v s)
  | .vMin cx p v => some (execVMin cx p v s)
  | .vMax cx p v => some (execVMax cx p v s)
  | .vUn cx p v => some (execVUn cx p v s)
  | .vCmp cx p v => some (execVCmp cx p v s)
  | .vSel cx p v => some (execVSel cx p v s)
  | .vLog cx p v => some (execVLog cx p v s)
  | .vSh cx p v => some (execVSh cx p v s)
  | .vCvt cx p v => some (execVCvt cx p v s)
  | .vSfu cx p v => some (execVSfu cx p v s)
  | .vRed cx p v => some (execVRed cx p v s)
  | .vBcast cx p v => some (execVBcast cx p v s)
  | .vExt cx p v => some (execVExt cx p v s)
  | .vLd cx p v => some (execVLd cx p v s)
  | .vSt cx p v => some (execVSt cx p v s)
  | .vGather cx p v => some (execVGather cx p v s)
  | .vScatter cx p v => some (execVScatter cx p v s)
  | .vIota cx p v => some (execVIota cx p v s)
  | .vRng cx p v => some (execVRng cx p v s)
  | .vWelford cx p v => some (execVWelford cx p v s)
  | .vPerm cx p v => some (execVPerm cx p v s)
  | _ => none

/-- The 32-bit word at local address a of the device of a context's stream. -/
def State.codeWord (s : State) (c : Ctx) (a : Nat) : W32 :=
  BitVec.ofNat 32 (leNat ((List.range 4).map fun i => s.gbyte (c.dev.toNat * 2 ^ 48 + a + i)))

/-- The instruction at a context's program counter. -/
def State.fetch (s : State) (cx : CtxId) : Option Instr :=
  let c := s.ctx cx
  decodeAt cx (s.codeWord c c.pc.toNat) (s.codeWord c (c.pc.toNat + 4))

/-! ### The debug window (R487, R488) -/

/-- The debug window answers: BAR0 accesses while DBG_CTL.en is 1, in RUNNING (R484, R487). -/
def State.dbgOpen (s : State) : Bool := s.hostUp && decide (s.boot.phase = .running) && s.sec.dbgEn

/-- A step of the selected context of a halted core: one instruction of it issues, if it is ready, while the core's other
contexts stay halted. An instruction at a bound tries again (R153). -/
def State.dbgStep (s : State) (c : Nat) : Res :=
  let cx := ctxOf c (s.core c).dbgCtx.toNat
  let free := s.modCore c fun x => { x with halt := false }
  if !(s.core c).halt || !free.canRetry cx (fun _ => true) true then .next s
  else
    match s.fetch cx with
    | none => .refused .undefinedEncoding
    | some i =>
      match seqExec i free with
      | some (.next t) => .next (t.modCore c fun x => { x with halt := true })
      | some r => r
      | none => .next s

/-- DBG_HALT: halt stops or resumes issue by every context of a core. -/
def execDbgHalt (core : CoreId) (on : Bool) (s : State) : Res :=
  .next (if s.dbgOpen then s.modCore core.toNat fun x => { x with halt := on } else s)

/-- DBG_STEP: a write of step selects a context and steps it, with halt 1 only. -/
def execDbgStep (core : CoreId) (ctx : BitVec 3) (s : State) : Res :=
  if s.dbgOpen then (s.modCore core.toNat fun x => { x with dbgCtx := ctx }).dbgStep core.toNat else .next s

/-- DBG_CORE_CTL and DBG_CORE_PC of core c. -/
def State.dbgWord (s : State) (c : Nat) (pc : Bool) : W64 :=
  let x := s.core c
  if pc then
    (let cx := s.ctx (ctxOf c x.dbgCtx.toNat)
     if cx.used then cx.pc else 0)
  else fields [flag 0 x.halt, (2, x.dbgCtx.toNat), flag 5 x.halt]

/-- A host write to the debug window: halt and ctx take their fields, then step acts. -/
def State.dbgWrite (s : State) (c : Nat) (pc : Bool) (w : Wr) : Res :=
  if pc || !w.lo then .next s
  else
    let s := s.modCore c fun x => { x with halt := bit w.v 0, dbgCtx := BitVec.ofNat 3 (bits w.v 2 3) }
    if bit w.v 1 then s.dbgStep c else .next s

/-! ### Host accesses through BAR0 (R402, R442, R484) -/

/-- Registers that answer before phase RUNNING (R442). -/
def earlySlot : Slot → Bool
  | .dev o => decide (o ≤ 0x28) || decide (o = 0x58) || decide (o = 0x60)
  | .cluster _ o => decide (o = 0x30)
  | .array o => decide (0x6000 ≤ o ∧ o < 0x62C0) || decide (o = 0x6300) || decide (o = 0x6308)
  | .store _ _ => true
  | _ => false

/-- A write that would set enable in a stream, DMA or video ring register (R442). -/
def ringEnable (p : Slot) (w : Wr) : Bool :=
  match p with
  | .stream _ o => (decide (o = 0xC0) || decide (o = 0xC8)) && w.has 4
  | .array o =>
    (decide (0x6400 ≤ o ∧ o < 0x6500) && decide (o % 0x20 = 0) && w.has 4) ||
    (decide (0x2000 ≤ o ∧ o < 0x2280) && decide (o % 0x40 = 0) && w.has 52)
  | _ => false

/-- A dropped write, counted (R402). -/
def State.dropWrite (s : State) : State := s.countDev evHifBadAccess

/-- A host write in the RUNNING phase, or to a register that answers earlier. -/
def State.hostRegWrite (s : State) (a : RegAcc) (v : W64) : Res :=
  match a.slot with
  | .debug c pc => if s.dbgOpen then s.dbgWrite c pc (a.wr v) else .next s
  | .store _ _ => .next s
  | p => .next (if (s.slot p).isNone then s.dropWrite else s.slotWrite .host p (a.wr v))

/-- A host read in the RUNNING phase, or of a register that answers earlier. -/
def State.hostRegRead (s : State) (a : RegAcc) : State :=
  match a.slot with
  | .debug c pc => s.reply (.value (if s.dbgOpen then a.part (s.dbgWord c pc) else 0))
  | _ =>
    let (v, s) := s.regRead a
    s.reply (.value v)

/-- REGISTER_WRITE (R402, R442, R480-R483): an access by the host, or by a context through the register window. -/
def execRegisterWrite (agent : Agent) (off : BitVec 26) (size8 : Bool) (v : W64) (s : State) : Res :=
  let a : RegAcc := ⟨off.toNat, size8⟩
  match agent with
  | .ctx cx => .next (if s.up && (s.ctx cx).used && a.aligned then s.ctxRegWrite cx a v else s)
  | .host =>
    if !s.hostUp then .next s
    else if !a.aligned then .next s.dropWrite
    else if decide (s.boot.phase ≠ .running) && !earlySlot a.slot then
      .next (if ringEnable a.slot (a.wr v) then s.regRefused else s.dropWrite)
    else s.hostRegWrite a v

/-- REGISTER_READ: the host's read is answered; a context's value is the one its s.ld takes, and here has the read's effect
alone. -/
def execRegisterRead (agent : Agent) (off : BitVec 26) (size8 : Bool) (s : State) : Res :=
  let a : RegAcc := ⟨off.toNat, size8⟩
  match agent with
  | .ctx cx => .next (if s.up && (s.ctx cx).used && a.aligned then (s.ctxRegRead a).2 else s)
  | .host =>
    if !s.hostUp then .next s
    else if !a.aligned then .next (s.countDev evHifBadAccess |>.reply .unsupported)
    else if decide (s.boot.phase ≠ .running) && !earlySlot a.slot then .next (s.reply (.value 0))
    else .next (s.hostRegRead a)

end Sys2Proof.Machine
end

