-- ==== Sys2Proof/Machine/Dispatch.lean ====
section
/-! DEFINITION. One arm per command: its meaning. -/

namespace Sys2Proof.Machine

def exec (i : Instr) (s : State) : Host.Outcome State Fault Refusal :=
  match i with
  | .bind strm entry far => Sys2Proof.Machine.execBind strm entry far s
  | .load strm entry => Sys2Proof.Machine.execLoad strm entry s
  | .start strm entry => Sys2Proof.Machine.execStart strm entry s
  | .pause strm entry => Sys2Proof.Machine.execPause strm entry s
  | .resume strm entry => Sys2Proof.Machine.execResume strm entry s
  | .save strm entry => Sys2Proof.Machine.execSave strm entry s
  | .restore strm entry remote => Sys2Proof.Machine.execRestore strm entry remote s
  | .kill strm entry => Sys2Proof.Machine.execKill strm entry s
  | .fence strm entry => Sys2Proof.Machine.execFence strm entry s
  | .fenceComplete strm => Sys2Proof.Machine.execFenceComplete strm s
  | .drainEnd strm => Sys2Proof.Machine.execDrainEnd strm s
  | .commandTailDoorbell strm v => Sys2Proof.Machine.execCommandTailDoorbell strm v s
  | .completionHeadDoorbell strm v => Sys2Proof.Machine.execCompletionHeadDoorbell strm v s
  | .sAlu cx p fn d a b => Sys2Proof.Machine.execSAlu cx p fn d a b s
  | .sAddi cx p d a imm => Sys2Proof.Machine.execSAddi cx p d a imm s
  | .sAndi cx p d a imm => Sys2Proof.Machine.execSAndi cx p d a imm s
  | .sOri cx p d a imm => Sys2Proof.Machine.execSOri cx p d a imm s
  | .sXori cx p d a imm => Sys2Proof.Machine.execSXori cx p d a imm s
  | .sShi cx p kind d a amount => Sys2Proof.Machine.execSShi cx p kind d a amount s
  | .sMov16 cx hw keep d imm => Sys2Proof.Machine.execSMov16 cx hw keep d imm s
  | .sCmp cx p cond d a b => Sys2Proof.Machine.execSCmp cx p cond d a b s
  | .sCmpi cx p cond d a imm => Sys2Proof.Machine.execSCmpi cx p cond d a imm s
  | .sPop cx p fn d a b => Sys2Proof.Machine.execSPop cx p fn d a b s
  | .sLd cx p d a imm => Sys2Proof.Machine.execSLd cx p d a imm s
  | .sLdw cx p d a imm => Sys2Proof.Machine.execSLdw cx p d a imm s
  | .sSt cx p d a imm => Sys2Proof.Machine.execSSt cx p d a imm s
  | .sStw cx p d a imm => Sys2Proof.Machine.execSStw cx p d a imm s
  | .sAmo cx p fn d a b => Sys2Proof.Machine.execSAmo cx p fn d a b s
  | .sBr cx p off => Sys2Proof.Machine.execSBr cx p off s
  | .sCall cx p off => Sys2Proof.Machine.execSCall cx p off s
  | .sJr cx p a => Sys2Proof.Machine.execSJr cx p a s
  | .sMi cx p d a b => Sys2Proof.Machine.execSMi cx p d a b s
  | .sMwait cx p a => Sys2Proof.Machine.execSMwait cx p a s
  | .sDisp cx p d a b => Sys2Proof.Machine.execSDisp cx p d a b s
  | .sFence cx p fn a => Sys2Proof.Machine.execSFence cx p fn a s
  | .seqFenceComplete cx => Sys2Proof.Machine.execSeqFenceComplete cx s
  | .sGdef cx p d a b => Sys2Proof.Machine.execSGdef cx p d a b s
  | .sGundef cx p d a => Sys2Proof.Machine.execSGundef cx p d a s
  | .sInfo cx p fn d => Sys2Proof.Machine.execSInfo cx p fn d s
  | .sEnd cx p => Sys2Proof.Machine.execSEnd cx p s
  | .vAdd cx p v => Sys2Proof.Machine.execVAdd cx p v s
  | .vSub cx p v => Sys2Proof.Machine.execVSub cx p v s
  | .vMul cx p v => Sys2Proof.Machine.execVMul cx p v s
  | .vFma cx p v => Sys2Proof.Machine.execVFma cx p v s
  | .vMin cx p v => Sys2Proof.Machine.execVMin cx p v s
  | .vMax cx p v => Sys2Proof.Machine.execVMax cx p v s
  | .vUn cx p v => Sys2Proof.Machine.execVUn cx p v s
  | .vCmp cx p v => Sys2Proof.Machine.execVCmp cx p v s
  | .vSel cx p v => Sys2Proof.Machine.execVSel cx p v s
  | .vLog cx p v => Sys2Proof.Machine.execVLog cx p v s
  | .vSh cx p v => Sys2Proof.Machine.execVSh cx p v s
  | .vCvt cx p v => Sys2Proof.Machine.execVCvt cx p v s
  | .vSfu cx p v => Sys2Proof.Machine.execVSfu cx p v s
  | .vRed cx p v => Sys2Proof.Machine.execVRed cx p v s
  | .vBcast cx p v => Sys2Proof.Machine.execVBcast cx p v s
  | .vExt cx p v => Sys2Proof.Machine.execVExt cx p v s
  | .vLd cx p v => Sys2Proof.Machine.execVLd cx p v s
  | .vSt cx p v => Sys2Proof.Machine.execVSt cx p v s
  | .vGather cx p v => Sys2Proof.Machine.execVGather cx p v s
  | .vScatter cx p v => Sys2Proof.Machine.execVScatter cx p v s
  | .vIota cx p v => Sys2Proof.Machine.execVIota cx p v s
  | .vRng cx p v => Sys2Proof.Machine.execVRng cx p v s
  | .vWelford cx p v => Sys2Proof.Machine.execVWelford cx p v s
  | .vPerm cx p v => Sys2Proof.Machine.execVPerm cx p v s
  | .orderWaitMet strm ticket => Sys2Proof.Machine.execOrderWaitMet strm ticket s
  | .tileClaim core => Sys2Proof.Machine.execTileClaim core s
  | .rangeClaim req => Sys2Proof.Machine.execRangeClaim req s
  | .loadFront core inp => Sys2Proof.Machine.execLoadFront core inp s
  | .readout core array row upset => Sys2Proof.Machine.execReadout core array row upset s
  | .teamStatsCombine strm ticket batch row => Sys2Proof.Machine.execTeamStatsCombine strm ticket batch row s
  | .tileRetire core => Sys2Proof.Machine.execTileRetire core s
  | .miRetire strm ticket => Sys2Proof.Machine.execMiRetire strm ticket s
  | .katDue core => Sys2Proof.Machine.execKatDue core s
  | .katForced core => Sys2Proof.Machine.execKatForced core s
  | .katStart at_ => Sys2Proof.Machine.execKatStart at_ s
  | .katVerdict core upsets vecFail => Sys2Proof.Machine.execKatVerdict core upsets vecFail s
  | .riffleRampStep core => Sys2Proof.Machine.execRiffleRampStep core s
  | .riffleSnapshot => Sys2Proof.Machine.execRiffleSnapshot s
  | .seedRefill cl raw => Sys2Proof.Machine.execSeedRefill cl raw s
  | .noiseHealthFail cl raw => Sys2Proof.Machine.execNoiseHealthFail cl raw s
  | .noiseStartupPass raw => Sys2Proof.Machine.execNoiseStartupPass raw s
  | .noiseRestart cl => Sys2Proof.Machine.execNoiseRestart cl s
  | .deltaGenLoad slot gen mask => Sys2Proof.Machine.execDeltaGenLoad slot gen mask s
  | .deltaGenRetire slot gen mask => Sys2Proof.Machine.execDeltaGenRetire slot gen mask s
  | .deltaGenOpRefused slot gen => Sys2Proof.Machine.execDeltaGenOpRefused slot gen s
  | .pendingLoadTake cl slot => Sys2Proof.Machine.execPendingLoadTake cl slot s
  | .codebookCopyDone cl slot => Sys2Proof.Machine.execCodebookCopyDone cl slot s
  | .generationEmpty cl slot => Sys2Proof.Machine.execGenerationEmpty cl slot s
  | .copyBufferFill core => Sys2Proof.Machine.execCopyBufferFill core s
  | .blockDecode core => Sys2Proof.Machine.execBlockDecode core s
  | .stackIlvWrite agent v => Sys2Proof.Machine.execStackIlvWrite agent v s
  | .lineAccess req => Sys2Proof.Machine.execLineAccess req s
  | .awlRequest cl addr op ecc => Sys2Proof.Machine.execAwlRequest cl addr op ecc s
  | .cchPrefetch cx addr => Sys2Proof.Machine.execCchPrefetch cx addr s
  | .cchPrefetchKeep cx addr => Sys2Proof.Machine.execCchPrefetchKeep cx addr s
  | .cchEvictFirst cx addr => Sys2Proof.Machine.execCchEvictFirst cx addr s
  | .cchWriteBack cx addr => Sys2Proof.Machine.execCchWriteBack cx addr s
  | .cchWriteBackInvalidate cx addr => Sys2Proof.Machine.execCchWriteBackInvalidate cx addr s
  | .cchInvalidate cx addr => Sys2Proof.Machine.execCchInvalidate cx addr s
  | .cchCtlBad cx addr v => Sys2Proof.Machine.execCchCtlBad cx addr v s
  | .cchStateRead cx addr d => Sys2Proof.Machine.execCchStateRead cx addr d s
  | .patrolScrubLine vault ecc => Sys2Proof.Machine.execPatrolScrubLine vault ecc s
  | .tierProbe vault tiers ecc => Sys2Proof.Machine.execTierProbe vault tiers ecc s
  | .stkRprRead vault tier store index => Sys2Proof.Machine.execStkRprRead vault tier store index s
  | .stkRprSoftWrite vault tier store index => Sys2Proof.Machine.execStkRprSoftWrite vault tier store index s
  | .stkRprSoftClear vault tier store index => Sys2Proof.Machine.execStkRprSoftClear vault tier store index s
  | .stkRprMarkFailed vault tier store index => Sys2Proof.Machine.execStkRprMarkFailed vault tier store index s
  | .stkRprClearFailed vault tier store index => Sys2Proof.Machine.execStkRprClearFailed vault tier store index s
  | .stkRprOpRefused vault tier store index op => Sys2Proof.Machine.execStkRprOpRefused vault tier store index op s
  | .kvPoolDefine pool => Sys2Proof.Machine.execKvPoolDefine pool s
  | .kvPoolRemove pool => Sys2Proof.Machine.execKvPoolRemove pool s
  | .kvEpochAdvance agent pool => Sys2Proof.Machine.execKvEpochAdvance agent pool s
  | .kvEpochPublish pool => Sys2Proof.Machine.execKvEpochPublish pool s
  | .kvWalk cl strm ticket batch block => Sys2Proof.Machine.execKvWalk cl strm ticket batch block s
  | .kvTreeHash strm pool slot => Sys2Proof.Machine.execKvTreeHash strm pool slot s
  | .kvTreeLookup strm pool slot => Sys2Proof.Machine.execKvTreeLookup strm pool slot s
  | .kvTreeInsert strm pool slot => Sys2Proof.Machine.execKvTreeInsert strm pool slot s
  | .kvTreeRelease strm pool slot => Sys2Proof.Machine.execKvTreeRelease strm pool slot s
  | .kvTreeEvict strm pool slot => Sys2Proof.Machine.execKvTreeEvict strm pool slot s
  | .kvTreeOpRefused strm pool slot op => Sys2Proof.Machine.execKvTreeOpRefused strm pool slot op s
  | .schedLrRead agent strm => Sys2Proof.Machine.execSchedLrRead agent strm s
  | .schedWrite strm which v => Sys2Proof.Machine.execSchedWrite strm which v s
  | .vidDb eng => Sys2Proof.Machine.execVidDb eng s
  | .vidJobTake eng => Sys2Proof.Machine.execVidJobTake eng s
  | .vidOpen eng => Sys2Proof.Machine.execVidOpen eng s
  | .vidFrameEncode eng => Sys2Proof.Machine.execVidFrameEncode eng s
  | .vidFrameDecode eng ic => Sys2Proof.Machine.execVidFrameDecode eng ic s
  | .vidClose eng => Sys2Proof.Machine.execVidClose eng s
  | .vidJobComplete eng => Sys2Proof.Machine.execVidJobComplete eng s
  | .vidRingWrite eng cpl v => Sys2Proof.Machine.execVidRingWrite eng cpl v s
  | .portTrain port => Sys2Proof.Machine.execPortTrain port s
  | .portUp port healthy => Sys2Proof.Machine.execPortUp port healthy s
  | .portDown port => Sys2Proof.Machine.execPortDown port s
  | .flitReceive port fec flit => Sys2Proof.Machine.execFlitReceive port fec flit s
  | .flitReplay port ack => Sys2Proof.Machine.execFlitReplay port ack s
  | .ackTimer port => Sys2Proof.Machine.execAckTimer port s
  | .fabStall port => Sys2Proof.Machine.execFabStall port s
  | .rd pkt => Sys2Proof.Machine.execRd pkt s
  | .rdl pkt => Sys2Proof.Machine.execRdl pkt s
  | .wr pkt => Sys2Proof.Machine.execWr pkt s
  | .wrl pkt => Sys2Proof.Machine.execWrl pkt s
  | .atom pkt => Sys2Proof.Machine.execAtom pkt s
  | .data pkt => Sys2Proof.Machine.execData pkt s
  | .ack pkt => Sys2Proof.Machine.execAck pkt s
  | .err pkt => Sys2Proof.Machine.execErr pkt s
  | .note src n => Sys2Proof.Machine.execNote src n s
  | .packetForward pkt => Sys2Proof.Machine.execPacketForward pkt s
  | .remoteRequestTimeout tag => Sys2Proof.Machine.execRemoteRequestTimeout tag s
  | .referenceNotice dev index inc => Sys2Proof.Machine.execReferenceNotice dev index inc s
  | .fabJoin => Sys2Proof.Machine.execFabJoin s
  | .hello port info => Sys2Proof.Machine.execHello port info s
  | .join dev pin => Sys2Proof.Machine.execJoin dev pin s
  | .membershipNotice epoch change => Sys2Proof.Machine.execMembershipNotice epoch change s
  | .membershipAck dev => Sys2Proof.Machine.execMembershipAck dev s
  | .fabLeave => Sys2Proof.Machine.execFabLeave s
  | .leave dev => Sys2Proof.Machine.execLeave dev s
  | .suspect dev => Sys2Proof.Machine.execSuspect dev s
  | .ping src answer => Sys2Proof.Machine.execPing src answer s
  | .pingTimeout dev => Sys2Proof.Machine.execPingTimeout dev s
  | .fabRtRead index => Sys2Proof.Machine.execFabRtRead index s
  | .fabRtWrite index => Sys2Proof.Machine.execFabRtWrite index s
  | .fabRtOpRefused index => Sys2Proof.Machine.execFabRtOpRefused index s
  | .fabPortRetrain port => Sys2Proof.Machine.execFabPortRetrain port s
  | .fabCfgWrite v => Sys2Proof.Machine.execFabCfgWrite v s
  | .strmJobWrite strm pace v => Sys2Proof.Machine.execStrmJobWrite strm pace v s
  | .cblPrsntChange port level => Sys2Proof.Machine.execCblPrsntChange port level s
  | .cblOverload conn => Sys2Proof.Machine.execCblOverload conn s
  | .weirPeriod inp => Sys2Proof.Machine.execWeirPeriod inp s
  | .currentEval volts amps => Sys2Proof.Machine.execCurrentEval volts amps s
  | .staticPowerRefresh watts amps => Sys2Proof.Machine.execStaticPowerRefresh watts amps s
  | .droopStretch island => Sys2Proof.Machine.execDroopStretch island s
  | .lagNotice job => Sys2Proof.Machine.execLagNotice job s
  | .paceNotice job floor => Sys2Proof.Machine.execPaceNotice job floor s
  | .energyRecordSend job => Sys2Proof.Machine.execEnergyRecordSend job s
  | .energyRecordReceive rec => Sys2Proof.Machine.execEnergyRecordReceive rec s
  | .weirCapWrite v => Sys2Proof.Machine.execWeirCapWrite v s
  | .weirCfgWrite v => Sys2Proof.Machine.execWeirCfgWrite v s
  | .weirElogWrite v => Sys2Proof.Machine.execWeirElogWrite v s
  | .bar2Read off size => Sys2Proof.Machine.execBar2Read off size s
  | .bar2Write off bytes => Sys2Proof.Machine.execBar2Write off bytes s
  | .hifWinWrite v => Sys2Proof.Machine.execHifWinWrite v s
  | .hifRingWrite which v => Sys2Proof.Machine.execHifRingWrite which v s
  | .dmaTailDoorbell chan v => Sys2Proof.Machine.execDmaTailDoorbell chan v s
  | .dmaDescriptor chan desc => Sys2Proof.Machine.execDmaDescriptor chan desc s
  | .dmaDescriptorDone chan host => Sys2Proof.Machine.execDmaDescriptorDone chan host s
  | .dmaRestart chan => Sys2Proof.Machine.execDmaRestart chan s
  | .irqPendClear inst v => Sys2Proof.Machine.execIrqPendClear inst v s
  | .configRequest req => Sys2Proof.Machine.execConfigRequest req s
  | .d3hotEnter => Sys2Proof.Machine.execD3hotEnter s
  | .d0Return => Sys2Proof.Machine.execD0Return s
  | .mctpMessage typ eid body => Sys2Proof.Machine.execMctpMessage typ eid body s
  | .smbusPacket pecOk typ eid body => Sys2Proof.Machine.execSmbusPacket pecOk typ eid body s
  | .spdmRequest req smbus body => Sys2Proof.Machine.execSpdmRequest req smbus body s
  | .ideKm km => Sys2Proof.Machine.execIdeKm km s
  | .ideIntegrityFail stream => Sys2Proof.Machine.execIdeIntegrityFail stream s
  | .vinRise slotId => Sys2Proof.Machine.execVinRise slotId s
  | .vinUndervolt => Sys2Proof.Machine.execVinUndervolt s
  | .vinOvervolt => Sys2Proof.Machine.execVinOvervolt s
  | .pwrEnRise good => Sys2Proof.Machine.execPwrEnRise good s
  | .pwrEnFall => Sys2Proof.Machine.execPwrEnFall s
  | .railOutOfRegulation => Sys2Proof.Machine.execRailOutOfRegulation s
  | .startupContinue inp => Sys2Proof.Machine.execStartupContinue inp s
  | .perstAssert slotId => Sys2Proof.Machine.execPerstAssert slotId s
  | .perstRelease => Sys2Proof.Machine.execPerstRelease s
  | .functionLevelReset => Sys2Proof.Machine.execFunctionLevelReset s
  | .hostAck => Sys2Proof.Machine.execHostAck s
  | .bootRcvFetch len slot image => Sys2Proof.Machine.execBootRcvFetch len slot image s
  | .bootRcvOpRefused len slot => Sys2Proof.Machine.execBootRcvOpRefused len slot s
  | .faultLatch f => Sys2Proof.Machine.execFaultLatch f s
  | .faultRecord => Sys2Proof.Machine.execFaultRecord s
  | .handshakeTimeout a b strm => Sys2Proof.Machine.execHandshakeTimeout a b strm s
  | .clockMonitorTrip island => Sys2Proof.Machine.execClockMonitorTrip island s
  | .lockstepMismatch => Sys2Proof.Machine.execLockstepMismatch s
  | .secdedScrub loc => Sys2Proof.Machine.execSecdedScrub loc s
  | .leveeLockWrite agent v => Sys2Proof.Machine.execLeveeLockWrite agent v s
  | .secKeyRevoke slot => Sys2Proof.Machine.execSecKeyRevoke slot s
  | .secFloorWrite v => Sys2Proof.Machine.execSecFloorWrite v s
  | .secFloorStored => Sys2Proof.Machine.execSecFloorStored s
  | .safeCoreClear cl mask => Sys2Proof.Machine.execSafeCoreClear cl mask s
  | .unitGdefDefine index => Sys2Proof.Machine.execUnitGdefDefine index s
  | .unitGdefRemove index => Sys2Proof.Machine.execUnitGdefRemove index s
  | .unitGdefOpRefused index => Sys2Proof.Machine.execUnitGdefOpRefused index s
  | .evtSelWrite c v => Sys2Proof.Machine.execEvtSelWrite c v s
  | .evtCntWrite c v => Sys2Proof.Machine.execEvtCntWrite c v s
  | .evtFreeze on => Sys2Proof.Machine.execEvtFreeze on s
  | .evtClear => Sys2Proof.Machine.execEvtClear s
  | .dbgHalt core on => Sys2Proof.Machine.execDbgHalt core on s
  | .dbgStep core ctx => Sys2Proof.Machine.execDbgStep core ctx s
  | .registerWrite agent off size8 v => Sys2Proof.Machine.execRegisterWrite agent off size8 v s
  | .nominalPeriodReturn island => Sys2Proof.Machine.execNominalPeriodReturn island s
  | .laneFail port healthy => Sys2Proof.Machine.execLaneFail port healthy s
  | .registerRead agent off size8 => Sys2Proof.Machine.execRegisterRead agent off size8 s

end Sys2Proof.Machine
end

