-- ==== Sys2Proof/Machine/Step.lean ====
section
/-! DEFINITION. One step of the block: the command at the front of the queue, or, on an empty queue, one nanosecond of
the cobbler's clock. -/

namespace Sys2Proof.Machine

/-- An idle step: COB_TIME counts one nanosecond while the standby domain has power (R44, log 1, DESIGN CHOICE). -/
def State.idle (s : State) : State :=
  if s.pins.standby then { s with time := s.time + 1 } else s

/-- Take the command at the front of the queue, first in, first out. -/
def step (s : State) : Host.Outcome State Fault Refusal :=
  match s.pending with
  | [] => .next s.idle
  | c :: rest => exec c { s with pending := rest }

/-- s with the command a table word spells at the front of its queue; a word that spells none leaves s. -/
def State.withFetchWord (s : State) (nbits w : Nat) : State :=
  match decodeTableWord nbits w with
  | some c => { s with pending := c :: s.pending }
  | none => s

end Sys2Proof.Machine
end

