-- ==== Sys2Proof/WellFormed.lean ====
section
/-! DEFINITION. Which commands of Syntax are well formed: the operand forms their rows admit. The step is total on every
command; an ill-formed one changes nothing or is refused where its rule says so. -/

namespace Sys2Proof

/-- What is wrong with a command's operands, one name a check. -/
inductive IllFormed where
  /-- The code of a ring entry is not that of its row (R403, R404). -/
  | entryCode
  /-- A vector form that LOAD refuses (R127, R128). -/
  | vectorForm
  /-- A cache control value that has a row of its own (R273). -/
  | cacheValue
  /-- A line write that is empty or leaves its line (R269). -/
  | lineSpan
  /-- An awl address not aligned to its access (R274). -/
  | awlAlign
  /-- A struck symbol, or a probed line, outside the stack (R258). -/
  | upsetCell
  /-- A tier number above 5 (R263, R281). -/
  | tier
  /-- A refused operation whose code names an operation (R281, R303). -/
  | refusedOp
  /-- A video engine number above 9 (R317). -/
  | engine
  /-- No healthy lane (R349). -/
  | noLane
  /-- A packet whose type is not its row's (R355). -/
  | packetType
  /-- A packet payload of the wrong length (R355). -/
  | packetPayload
  /-- An empty BAR2 access (R401). -/
  | bar2Size
  /-- A configuration address that is not dword aligned (R443). -/
  | configAlign
  /-- A register access not aligned to its size (R482). -/
  | registerAlign
  /-- A recovery image of another length than announced (R445). -/
  | imageLength
  /-- A sensor reading of a sensor that does not exist (R381). -/
  | sensor
  /-- A designated spare above 16 (R440). -/
  | spare
  /-- A claim without a tile shape (R144). -/
  | claimShape
  deriving DecidableEq, Repr

/-- The complaint w unless ok. -/
def illUnless (ok : Bool) (w : IllFormed) : Option IllFormed := if ok then none else some w

/-- Whether a ring entry bears command code n (R403). -/
def entryIs (n : Nat) (entry : BitVec 512) : Bool := decide (entry.toNat % 256 = n)

/-- The complaint about a vector instruction's fields. -/
def vectorIll (vop : Nat) (v : VOp) : Option IllFormed := illUnless (Machine.vOk vop v) .vectorForm

/-- Struck symbols that exist: 6 tiers, 6,144 rows and 64 spare rows, 16 columns and 8 spare groups (R258, R281). -/
def upsetsOk (us : List SymbolUpset) : Bool :=
  us.all fun u => decide (u.tier.toNat < 6) && decide (u.row.toNat < 6208) && decide (u.col.toNat < 24)

/-- The complaint about an awl access. -/
def awlIll (addr : BitVec 48) : AwlOp → Option IllFormed
  | .read size8 => illUnless (decide (addr.toNat % (if size8 then 8 else 4) = 0)) .awlAlign
  | .write size8 _ => illUnless (decide (addr.toNat % (if size8 then 8 else 4) = 0)) .awlAlign
  | .atomic _ _ _ => illUnless (decide (addr.toNat % 8 = 0)) .awlAlign

/-- The complaint about a packet of type t with payload lengths lens. -/
def packetIll (t : Nat) (lens : List Nat) (k : Packet) : Option IllFormed :=
  if k.typ.toNat ≠ t then some .packetType else illUnless (lens.contains k.pay.length) .packetPayload

/-- The complaint about a register access. -/
def registerIll (off : BitVec 26) (size8 : Bool) : Option IllFormed :=
  illUnless (decide (off.toNat % (if size8 then 8 else 4) = 0)) .registerAlign

/-- What is wrong with a command; none for a well-formed one. -/
def Instr.ill : Instr → Option IllFormed
  | .bind _ e _ => illUnless (entryIs 1 e) .entryCode
  | .load _ e => illUnless (entryIs 2 e) .entryCode
  | .start _ e => illUnless (entryIs 3 e) .entryCode
  | .pause _ e => illUnless (entryIs 4 e) .entryCode
  | .resume _ e => illUnless (entryIs 5 e) .entryCode
  | .save _ e => illUnless (entryIs 6 e) .entryCode
  | .restore _ e _ => illUnless (entryIs 7 e) .entryCode
  | .kill _ e => illUnless (entryIs 8 e) .entryCode
  | .fence _ e => illUnless (entryIs 9 e) .entryCode
  | .vAdd _ _ v => vectorIll 0x00 v
  | .vSub _ _ v => vectorIll 0x01 v
  | .vMul _ _ v => vectorIll 0x02 v
  | .vFma _ _ v => vectorIll 0x03 v
  | .vMin _ _ v => vectorIll 0x04 v
  | .vMax _ _ v => vectorIll 0x05 v
  | .vUn _ _ v => vectorIll 0x06 v
  | .vCmp _ _ v => vectorIll 0x07 v
  | .vSel _ _ v => vectorIll 0x08 v
  | .vLog _ _ v => vectorIll 0x09 v
  | .vSh _ _ v => vectorIll 0x0A v
  | .vCvt _ _ v => vectorIll 0x0B v
  | .vSfu _ _ v => vectorIll 0x0C v
  | .vRed _ _ v => vectorIll 0x0D v
  | .vBcast _ _ v => vectorIll 0x0E v
  | .vExt _ _ v => vectorIll 0x0F v
  | .vLd _ _ v => vectorIll 0x10 v
  | .vSt _ _ v => vectorIll 0x11 v
  | .vGather _ _ v => vectorIll 0x12 v
  | .vScatter _ _ v => vectorIll 0x13 v
  | .vIota _ _ v => vectorIll 0x14 v
  | .vRng _ _ v => vectorIll 0x15 v
  | .vWelford _ _ v => vectorIll 0x16 v
  | .vPerm _ _ v => vectorIll 0x17 v
  | .rangeClaim (.take _ _ _ _ _ _ _ _ tm tk _ _ _ _) => illUnless (decide (0 < tm) && decide (0 < tk)) .claimShape
  | .lineAccess q =>
    match q.wr with
    | none => illUnless (upsetsOk q.upsets) .upsetCell
    | some bs => if !upsetsOk q.upsets then some .upsetCell else illUnless (!bs.isEmpty && decide (q.addr.toNat % 128 + bs.length ≤ 128)) .lineSpan
  | .awlRequest _ addr op us => if !upsetsOk us then some .upsetCell else awlIll addr op
  | .cchCtlBad _ _ v => illUnless (decide (5 < v.toNat)) .cacheValue
  | .stkRprRead _ t _ _ => illUnless (decide (t.toNat < 6)) .tier
  | .stkRprSoftWrite _ t _ _ => illUnless (decide (t.toNat < 6)) .tier
  | .stkRprSoftClear _ t _ _ => illUnless (decide (t.toNat < 6)) .tier
  | .stkRprMarkFailed _ t _ _ => illUnless (decide (t.toNat < 6)) .tier
  | .stkRprClearFailed _ t _ _ => illUnless (decide (t.toNat < 6)) .tier
  | .stkRprOpRefused _ _ _ _ op => illUnless (decide (op.toNat = 0) || decide (5 < op.toNat)) .refusedOp
  | .kvTreeOpRefused _ _ _ op => illUnless (decide (op.toNat = 0) || decide (5 < op.toNat)) .refusedOp
  | .vidDb e => illUnless (decide (e.toNat < 10)) .engine
  | .vidJobTake e => illUnless (decide (e.toNat < 10)) .engine
  | .vidOpen e => illUnless (decide (e.toNat < 10)) .engine
  | .vidFrameEncode e => illUnless (decide (e.toNat < 10)) .engine
  | .vidFrameDecode e _ => illUnless (decide (e.toNat < 10)) .engine
  | .vidClose e => illUnless (decide (e.toNat < 10)) .engine
  | .vidJobComplete e => illUnless (decide (e.toNat < 10)) .engine
  | .vidRingWrite e _ _ => illUnless (decide (e.toNat < 10)) .engine
  | .portUp _ h => illUnless (decide (h ≠ 0)) .noLane
  | .rd k => packetIll 0x01 [0] k
  | .rdl k => packetIll 0x02 [0] k
  | .wr k => packetIll 0x03 [4, 8] k
  | .wrl k => packetIll 0x04 [128] k
  | .atom k => packetIll 0x05 [8, 16] k
  | .data k => packetIll 0x10 [0, 4, 8, 128] k
  | .ack k => packetIll 0x11 [0] k
  | .err k => packetIll 0x12 [0] k
  | .bar2Read _ n => illUnless (decide (0 < n)) .bar2Size
  | .bar2Write _ bs => illUnless (!bs.isEmpty) .bar2Size
  | .configRequest req => match req with
    | .read off => illUnless (decide (off.toNat % 4 = 0)) .configAlign
    | _ => none
  | .weirPeriod i => illUnless (i.temps.all fun e => decide (e.1 < 1024)) .sensor
  | .startupContinue i => illUnless (i.spare.all fun e => decide (e.2.toNat ≤ 16)) .spare
  | .bootRcvFetch len _ image => illUnless (decide (image.length = len.toNat)) .imageLength
  | .registerWrite _ off size8 _ => registerIll off size8
  | .registerRead _ off size8 => registerIll off size8
  | .fenceComplete _ => none
  | .drainEnd _ => none
  | .commandTailDoorbell _ _ => none
  | .completionHeadDoorbell _ _ => none
  | .sAlu _ _ _ _ _ _ => none
  | .sAddi _ _ _ _ _ => none
  | .sAndi _ _ _ _ _ => none
  | .sOri _ _ _ _ _ => none
  | .sXori _ _ _ _ _ => none
  | .sShi _ _ _ _ _ _ => none
  | .sMov16 _ _ _ _ _ => none
  | .sCmp _ _ _ _ _ _ => none
  | .sCmpi _ _ _ _ _ _ => none
  | .sPop _ _ _ _ _ _ => none
  | .sLd _ _ _ _ _ => none
  | .sLdw _ _ _ _ _ => none
  | .sSt _ _ _ _ _ => none
  | .sStw _ _ _ _ _ => none
  | .sAmo _ _ _ _ _ _ => none
  | .sBr _ _ _ => none
  | .sCall _ _ _ => none
  | .sJr _ _ _ => none
  | .sMi _ _ _ _ _ => none
  | .sMwait _ _ _ => none
  | .sDisp _ _ _ _ _ => none
  | .sFence _ _ _ _ => none
  | .seqFenceComplete _ => none
  | .sGdef _ _ _ _ _ => none
  | .sGundef _ _ _ _ => none
  | .sInfo _ _ _ _ => none
  | .sEnd _ _ => none
  | .orderWaitMet _ _ => none
  | .tileClaim _ => none
  | .rangeClaim (.serve _ _ _) => none
  | .loadFront _ _ => none
  | .readout _ _ _ _ => none
  | .teamStatsCombine _ _ _ _ => none
  | .tileRetire _ => none
  | .miRetire _ _ => none
  | .katDue _ => none
  | .katForced _ => none
  | .katStart _ => none
  | .katVerdict _ _ _ => none
  | .riffleRampStep _ => none
  | .riffleSnapshot => none
  | .seedRefill _ _ => none
  | .noiseHealthFail _ _ => none
  | .noiseStartupPass _ => none
  | .noiseRestart _ => none
  | .deltaGenLoad _ _ _ => none
  | .deltaGenRetire _ _ _ => none
  | .deltaGenOpRefused _ _ => none
  | .pendingLoadTake _ _ => none
  | .codebookCopyDone _ _ => none
  | .generationEmpty _ _ => none
  | .copyBufferFill _ => none
  | .blockDecode _ => none
  | .stackIlvWrite _ _ => none
  | .cchPrefetch _ _ => none
  | .cchPrefetchKeep _ _ => none
  | .cchEvictFirst _ _ => none
  | .cchWriteBack _ _ => none
  | .cchWriteBackInvalidate _ _ => none
  | .cchInvalidate _ _ => none
  | .cchStateRead _ _ _ => none
  | .patrolScrubLine _ us => illUnless (upsetsOk us) .upsetCell
  | .tierProbe _ l us => illUnless (upsetsOk us && decide (l.toNat < 3145728)) .upsetCell
  | .kvPoolDefine _ => none
  | .kvPoolRemove _ => none
  | .kvEpochAdvance _ _ => none
  | .kvEpochPublish _ => none
  | .kvWalk _ _ _ _ _ => none
  | .kvTreeHash _ _ _ => none
  | .kvTreeLookup _ _ _ => none
  | .kvTreeInsert _ _ _ => none
  | .kvTreeRelease _ _ _ => none
  | .kvTreeEvict _ _ _ => none
  | .schedLrRead _ _ => none
  | .schedWrite _ _ _ => none
  | .portTrain _ => none
  | .portDown _ => none
  | .flitReceive _ _ _ => none
  | .flitReplay _ _ => none
  | .ackTimer _ => none
  | .fabStall _ => none
  | .note _ _ => none
  | .packetForward _ => none
  | .remoteRequestTimeout _ => none
  | .referenceNotice _ _ _ => none
  | .fabJoin => none
  | .hello _ _ => none
  | .join _ _ => none
  | .membershipNotice _ _ => none
  | .membershipAck _ => none
  | .fabLeave => none
  | .leave _ => none
  | .suspect _ => none
  | .ping _ _ => none
  | .pingTimeout _ => none
  | .fabRtRead _ => none
  | .fabRtWrite _ => none
  | .fabRtOpRefused _ => none
  | .fabPortRetrain _ => none
  | .fabCfgWrite _ => none
  | .strmJobWrite _ _ _ => none
  | .cblPrsntChange _ _ => none
  | .cblOverload _ => none
  | .currentEval _ _ => none
  | .staticPowerRefresh _ _ => none
  | .droopStretch _ => none
  | .lagNotice _ => none
  | .paceNotice _ _ => none
  | .energyRecordSend _ => none
  | .energyRecordReceive _ => none
  | .weirCapWrite _ => none
  | .weirCfgWrite _ => none
  | .weirElogWrite _ => none
  | .hifWinWrite _ => none
  | .hifRingWrite _ _ => none
  | .dmaTailDoorbell _ _ => none
  | .dmaDescriptor _ _ => none
  | .dmaDescriptorDone _ _ => none
  | .dmaRestart _ => none
  | .irqPendClear _ _ => none
  | .d3hotEnter => none
  | .d0Return => none
  | .mctpMessage _ _ _ => none
  | .smbusPacket _ _ _ _ => none
  | .spdmRequest _ _ _ => none
  | .ideKm _ => none
  | .ideIntegrityFail _ => none
  | .vinRise _ => none
  | .vinUndervolt => none
  | .vinOvervolt => none
  | .pwrEnRise _ => none
  | .pwrEnFall => none
  | .railOutOfRegulation => none
  | .perstAssert _ => none
  | .perstRelease => none
  | .functionLevelReset => none
  | .hostAck => none
  | .bootRcvOpRefused _ _ => none
  | .faultLatch _ => none
  | .faultRecord => none
  | .handshakeTimeout _ _ _ => none
  | .clockMonitorTrip _ => none
  | .lockstepMismatch => none
  | .secdedScrub _ => none
  | .leveeLockWrite _ _ => none
  | .secKeyRevoke _ => none
  | .secFloorWrite _ => none
  | .secFloorStored => none
  | .safeCoreClear _ _ => none
  | .unitGdefDefine _ => none
  | .unitGdefRemove _ => none
  | .unitGdefOpRefused _ => none
  | .evtSelWrite _ _ => none
  | .evtCntWrite _ _ => none
  | .evtFreeze _ => none
  | .evtClear => none
  | .dbgHalt _ _ => none
  | .dbgStep _ _ => none
  | .nominalPeriodReturn _ => none
  | .laneFail _ _ => none

/-- A command whose operands its row admits. -/
def Instr.wf (i : Instr) : Bool := i.ill.isNone

end Sys2Proof
end

