-- ==== Sys2Proof/Safety.lean ====
section
/-! DEFINITION. What counts as a safe run, and the conditions in whose terms claims are stated. -/

namespace Sys2Proof.Machine

/-- Every one of the next n steps answers a next state: no fault, no refusal. -/
def SafeFor : Nat → State → Prop
  | 0, _ => True
  | n + 1, s => ∃ t, step s = .next t ∧ SafeFor n t

/-- Memory is in canonical form. -/
def State.memOk (s : State) : Prop := Memory.wf s.dflt s.mem = true

/-- The context table lists each slot at most once, in rising order (an invariant of the model's own tables). -/
def State.ctxsOk (s : State) : Prop := (s.ctxs.map Prod.fst).Pairwise (· < ·) ∧ ∀ e ∈ s.ctxs, e.1 < 4096

/-- Memory of t reads as memory of s at every address. -/
def SameBytes (s t : State) : Prop := ∀ a, t.byte a = s.byte a

/-- Memory of t reads as memory of s at every address but the n from a. -/
def SameBytesBut (s t : State) (a n : Nat) : Prop := ∀ x, x < a ∨ a + n ≤ x → t.byte x = s.byte x

/-- Every context but cx is the same in t. -/
def SameCtxsBut (s t : State) (cx : CtxId) : Prop := ∀ c, c ≠ cx → t.ctx c = s.ctx c

/-- Every stream slot but i is the same in t. -/
def SameStrmsBut (s t : State) (i : StreamId) : Prop := ∀ j, j ≠ i → t.strm j = s.strm j

/-- Context cx issues an instruction of n bytes now: the machine runs, the context is ready and asked nothing, and no word
of the instruction lies in a poisoned line (R106, R279). -/
def State.Issues (s : State) (cx : CtxId) (n : W64) : Prop :=
  s.canIssue cx = true ∧ (s.ctx cx).wait = .ready ∧ (s.ctx cx).stopping = false ∧ s.fetchPoison cx n = none

/-- The instruction of n bytes is not the last of its program (R118). -/
def State.MoreAfter (s : State) (cx : CtxId) (n : W64) : Prop := (s.ctx cx).pc + n ≠ (s.ctx cx).codeEnd

/-- The context, predication and size of a sequencer or vector instruction (R123, R127). -/
def seqParts : Instr → Option (CtxId × Pred × W64)
  | .sAlu cx p _ _ _ _ => some (cx, p, 4)
  | .sAddi cx p _ _ _ => some (cx, p, 4)
  | .sAndi cx p _ _ _ => some (cx, p, 4)
  | .sOri cx p _ _ _ => some (cx, p, 4)
  | .sXori cx p _ _ _ => some (cx, p, 4)
  | .sShi cx p _ _ _ _ => some (cx, p, 4)
  | .sCmp cx p _ _ _ _ => some (cx, p, 4)
  | .sCmpi cx p _ _ _ _ => some (cx, p, 4)
  | .sPop cx p _ _ _ _ => some (cx, p, 4)
  | .sLd cx p _ _ _ => some (cx, p, 4)
  | .sLdw cx p _ _ _ => some (cx, p, 4)
  | .sSt cx p _ _ _ => some (cx, p, 4)
  | .sStw cx p _ _ _ => some (cx, p, 4)
  | .sAmo cx p _ _ _ _ => some (cx, p, 4)
  | .sBr cx p _ => some (cx, p, 4)
  | .sCall cx p _ => some (cx, p, 4)
  | .sJr cx p _ => some (cx, p, 4)
  | .sMi cx p _ _ _ => some (cx, p, 4)
  | .sMwait cx p _ => some (cx, p, 4)
  | .sDisp cx p _ _ _ => some (cx, p, 4)
  | .sFence cx p _ _ => some (cx, p, 4)
  | .sGdef cx p _ _ _ => some (cx, p, 4)
  | .sGundef cx p _ _ => some (cx, p, 4)
  | .sInfo cx p _ _ => some (cx, p, 4)
  | .sEnd cx p => some (cx, p, 4)
  | .vAdd cx p _ => some (cx, p, 8)
  | .vSub cx p _ => some (cx, p, 8)
  | .vMul cx p _ => some (cx, p, 8)
  | .vFma cx p _ => some (cx, p, 8)
  | .vMin cx p _ => some (cx, p, 8)
  | .vMax cx p _ => some (cx, p, 8)
  | .vUn cx p _ => some (cx, p, 8)
  | .vCmp cx p _ => some (cx, p, 8)
  | .vSel cx p _ => some (cx, p, 8)
  | .vLog cx p _ => some (cx, p, 8)
  | .vSh cx p _ => some (cx, p, 8)
  | .vCvt cx p _ => some (cx, p, 8)
  | .vSfu cx p _ => some (cx, p, 8)
  | .vRed cx p _ => some (cx, p, 8)
  | .vBcast cx p _ => some (cx, p, 8)
  | .vExt cx p _ => some (cx, p, 8)
  | .vLd cx p _ => some (cx, p, 8)
  | .vSt cx p _ => some (cx, p, 8)
  | .vGather cx p _ => some (cx, p, 8)
  | .vScatter cx p _ => some (cx, p, 8)
  | .vIota cx p _ => some (cx, p, 8)
  | .vRng cx p _ => some (cx, p, 8)
  | .vWelford cx p _ => some (cx, p, 8)
  | .vPerm cx p _ => some (cx, p, 8)
  | _ => none

/-- The bounds at which an instruction may wait, by the qualifier of R153 and 8 for a held line: an s.mi at those of
macro-instructions, tickets and merge slots, a scalar access at the awl, a tag and a line. -/
def MayWaitAt : Instr → Nat → Prop
  | .sMi _ _ _ _ _, q => q ≤ 2
  | .sLd _ _ _ _ _, q => q = 4 ∨ q = 5 ∨ q = 8
  | .sLdw _ _ _ _ _, q => q = 4 ∨ q = 5 ∨ q = 8
  | .sSt _ _ _ _ _, q => q = 4 ∨ q = 5 ∨ q = 8
  | .sStw _ _ _ _ _, q => q = 4 ∨ q = 5 ∨ q = 8
  | .sAmo _ _ _ _ _ _, q => q = 4 ∨ q = 5 ∨ q = 8
  | _, _ => False

/-- The instructions that may ask the device of their stream (log 28, DESIGN CHOICE). -/
def Asks : Instr → Prop
  | .sMi _ _ _ _ _ => True
  | .sMwait _ _ _ => True
  | .sDisp _ _ _ _ _ => True
  | .sFence _ _ _ _ => True
  | _ => False

/-! ### What the statements about contexts say -/

/-- The event registers of s with the counts of t, those that wait for a snapshot among them (R36, R470): events may have been
counted, nothing else of them changed. -/
def Counted (s t : State) : Evt := { s.evt with cnt := t.evt.cnt, pend := t.evt.pend }

/-- From s to t: what m gives beside s, the event counts, and of the contexts only cx, which is x, at pc and ready. -/
def Moves (s m t : State) (cx : CtxId) (pc : W64) (x : Ctx) : Prop :=
  t = { m with ctxs := t.ctxs, evt := Counted s t } ∧ SameCtxsBut s t cx ∧ t.ctx cx = { x with pc := pc, wait := .ready }

/-- From s to t only context cx and the event counts change; cx moves n bytes on and is ready; of cx only what x lists may
differ further. -/
def StepsOn (s t : State) (cx : CtxId) (n : W64) (x : Ctx) : Prop := Moves s s t cx ((s.ctx cx).pc + n) x

/-- o is a next state in which cx has moved past its sequencer instruction and s[d] holds v (s0 still reads 0); every other
register is as before, and beside the counts only what m gives has changed. -/
def ScalarResIn (o : Res) (s : State) (m : State → State) (cx : CtxId) (d : Reg) (v : W64) : Prop :=
  ∃ t, o = .next t ∧ Moves s (m t) t cx ((s.ctx cx).pc + 4) { s.ctx cx with sreg := (t.ctx cx).sreg } ∧
    ∀ r, (t.ctx cx).s r = if r = d ∧ d ≠ 0 then v else (s.ctx cx).s r

/-- The same where nothing else changes. -/
def ScalarRes (o : Res) (s : State) (cx : CtxId) (d : Reg) (v : W64) : Prop := ScalarResIn o s (fun _ => s) cx d v

/-- o is a next state in which cx has moved on and p[d] holds b (p0 still reads 1); every other register is as before. -/
def PredRes (o : Res) (s : State) (cx : CtxId) (d : BitVec 3) (b : Bool) : Prop :=
  ∃ t, o = .next t ∧ StepsOn s t cx 4 { s.ctx cx with pred := (t.ctx cx).pred } ∧
    ∀ r, (t.ctx cx).p r = if r = d ∧ d ≠ 0 then b else (s.ctx cx).p r

/-- What the rows of s.alu say of a result v of x and y (R125, R126). -/
def AluRule (x y v : W64) : AluFn → Prop
  | .add => v.toNat = (x.toNat + y.toNat) % 2 ^ 64
  | .sub => v.toNat = (2 ^ 64 + x.toNat - y.toNat) % 2 ^ 64
  | .and => v = x &&& y
  | .or => v = x ||| y
  | .xor => v = x ^^^ y
  | .sll => v.toNat = x.toNat * 2 ^ (y.toNat % 64) % 2 ^ 64
  | .srl => v.toNat = x.toNat / 2 ^ (y.toNat % 64)
  | .sra => v.toInt = x.toInt / 2 ^ (y.toNat % 64)
  | .mul => v.toNat = x.toNat * y.toNat % 2 ^ 64
  | .mulh => v.toInt = x.toInt * y.toInt / 2 ^ 64
  | .mulhu => v.toNat = x.toNat * y.toNat / 2 ^ 64
  | .min => v.toInt = min x.toInt y.toInt
  | .max => v.toInt = max x.toInt y.toInt
  | .minu => v.toNat = min x.toNat y.toNat
  | .maxu => v.toNat = max x.toNat y.toNat
  | .divu => if y = 0 then v = BitVec.allOnes 64 else v.toNat = x.toNat / y.toNat
  | .remu => if y = 0 then v = x else v.toNat = x.toNat % y.toNat

/-- What the rows of s.cmp say of the outcome b (R125). -/
def CondRule (x y : W64) (b : Bool) : Cond → Prop
  | .eq => b = true ↔ x = y
  | .ne => b = true ↔ x ≠ y
  | .lt => b = true ↔ x.toInt < y.toInt
  | .ge => b = true ↔ y.toInt ≤ x.toInt
  | .ltu => b = true ↔ x.toNat < y.toNat
  | .geu => b = true ↔ y.toNat ≤ x.toNat

/-- What the rows of s.pop say of the outcome b (R125). -/
def PopRule (x y b : Bool) : PopFn → Prop
  | .and => b = (x && y)
  | .or => b = (x || y)
  | .xor => b = (x != y)
  | .andNot => b = (x && !y)
  | .not => b = !x

/-- What the rows of s.amo say of the new value of a location that held x, for operand y and comparison value z (R125). -/
def AmoRule (x y z v : W64) : AmoFn → Prop
  | .add => v.toNat = (x.toNat + y.toNat) % 2 ^ 64
  | .swap => v = y
  | .cas => v = if x = z then y else x
  | .max => v.toInt = max x.toInt y.toInt
  | .min => v.toInt = min x.toInt y.toInt
  | .or => v = x ||| y
  | .and => v = x &&& y

/-! ### Memory accesses -/

/-- The n bytes from local address a hold v, least significant first (R7). -/
def State.Holds (s : State) (a n : Nat) (v : W64) : Prop :=
  ∀ k, k < n → (s.byte (a + k)).toNat = v.toNat / 256 ^ k % 256

/-- A scalar access of n bytes at global address x is aligned and lies in memory of this device (R126, R261). -/
def State.InMemory (s : State) (x : W64) (n : Nat) : Prop :=
  x.toNat % n = 0 ∧ x.toNat / 2 ^ 48 = s.own ∧ inMem (x.toNat % 2 ^ 48) n = true

/-- The core of cx may have an awl request outstanding, which an access to the stack needs (R153, R277). -/
def State.AwlOpen (s : State) (cx : CtxId) : Prop := bits (s.cluster (ctxCore cx / 16)).awlCfg 8 10 ≠ 0

/-- s with the caches, the symbols in error and the error counts of t: what an access may change beside its own effect where
it reaches the stack (R268-R279). -/
def Beneath (s t : State) : State := { s with clusters := t.clusters, vaults := t.vaults, upsets := t.upsets }

/-- s with the memory of t and what a store may change beneath it, a detection at an uncorrectable line among that (R279). -/
def Stored (s t : State) : State := { Beneath s t with mem := t.mem, poison := t.poison, flt := t.flt }

/-- No stored symbol is in error and no tier is marked failed. -/
def State.Sound (s : State) : Prop := s.upsets = [] ∧ ∀ v, (s.vault v).failed = 0

/-- A scalar access of cx to the n bytes from local address a finds the awl open if they lie in the stack. -/
def State.Reaches (s : State) (cx : CtxId) (a n : Nat) : Prop := inStack a n = true → s.AwlOpen cx

/-- i is a scalar access of n bytes at x of the context c in slot cx. -/
def ScalarAccess (c : Ctx) (cx : CtxId) (p : Pred) (fn : AmoFn) (d a b : Reg) (imm : BitVec 12) (x : W64) (n : Nat) (i : Instr) : Prop :=
  (n = 8 ∧ (i = .sLd cx p d a imm ∨ i = .sSt cx p d a imm) ∨ n = 4 ∧ (i = .sLdw cx p d a imm ∨ i = .sStw cx p d a imm)) ∧
    x = c.s a + imm.signExtend 64 ∨
  n = 8 ∧ i = .sAmo cx p fn d a b ∧ x = c.s a

/-- Context cx runs for a stream of this device that a fault of class 1 stops (R108, R454). -/
def State.Faultable (s : State) (cx : CtxId) : Prop :=
  (s.ctx cx).dev.toNat = s.own ∧ s.flt.lockstep = false ∧
  ((s.strm (s.ctx cx).strm).state = .running ∨ (s.strm (s.ctx cx).strm).state = .draining)

/-- o is a next state in which a fault of an instruction of cx has stopped its stream (R108, R109, R475, R476): it is
FAULTED with the code and naming word, its contexts are stopped, its macro-instructions claim nothing more, the fault is
latched with arg, and beside what an event entry changes only what m gives has changed. -/
def FaultsIn (o : Res) (s : State) (m : State → State) (cx : CtxId) (code : Code) (arg name : W64) : Prop :=
  let i := (s.ctx cx).strm
  ∃ t, o = .next t ∧
    t = { m t with streams := t.streams, sregs := t.sregs, ctxs := t.ctxs, mis := t.mis, out := t.out, hif := t.hif, evt := Counted s t, flt := t.flt } ∧
    t.flt = { s.flt with latch := s.flt.latch ++ [(⟨code, 0, BitVec.ofNat 16 (ctxCore cx), some i, arg, 0⟩, 1, s.time)] } ∧
    t.strm i = { s.strm i with state := .faulted, lastErr := code, errArg := name, drainPaused := false, prompt := false } ∧
    SameStrmsBut s t i ∧
    (∀ c, t.ctx c = if (s.ctx c).used = true ∧ (s.ctx c).dev.toNat = s.own ∧ (s.ctx c).strm = i
      then { s.ctx c with wait := .stopped, stopping := false, pausing := false, granted := none } else s.ctx c) ∧
    t.mis = s.mis.map fun x => if x.strm = i ∧ x.home.toNat = s.own then { x with stopped := true, faulted := true } else x

/-- The same where nothing else changes and the record's argument is the naming word. -/
def Faults (o : Res) (s : State) (cx : CtxId) (code : Code) (name : W64) : Prop := FaultsIn o s (fun _ => s) cx code name name

/-- o is a next state in which cx waits as w says, and nothing else has changed but counts. -/
def WaitsFor (o : Res) (s : State) (cx : CtxId) (w : Wait) : Prop :=
  ∃ t, o = .next t ∧ t = { s with ctxs := t.ctxs, evt := Counted s t } ∧ SameCtxsBut s t cx ∧ t.ctx cx = { s.ctx cx with wait := w }

/-- o is a next state in which cx has stopped where it stands, with pc and registers as x has them, for a pause (R119). -/
def Halts (o : Res) (s : State) (cx : CtxId) (x : Ctx) : Prop :=
  ∃ t, o = .next t ∧ t = { s with ctxs := t.ctxs, evt := Counted s t } ∧ SameCtxsBut s t cx ∧
    t.ctx cx = { x with wait := .stopped, stopping := false, pausing := false, granted := none }

/-- o is a next state in which cx has asked the device of its stream q and waits for the answer (log 28, DESIGN CHOICE). -/
def AsksFor (o : Res) (s : State) (cx : CtxId) (w : Asked) (q : Ask) : Prop :=
  let c := s.ctx cx
  ∃ t, o = .next t ∧
    t = { s with ctxs := t.ctxs, evt := Counted s t, out := { s.out with sent := s.out.sent ++ [.notice c.dev.toNat (.ask (BitVec.ofNat 16 s.own) c.strm cx q)] } } ∧
    SameCtxsBut s t cx ∧ t.ctx cx = { c with wait := .asked w }

/-- Context cx may use the answer g that its instruction asked for (log 28, DESIGN CHOICE). -/
def State.Answered (s : State) (cx : CtxId) (g : W64) : Prop :=
  s.awake cx = true ∧ (s.ctx cx).wait = .ready ∧ (s.ctx cx).stopping = false ∧ (s.ctx cx).granted = some g ∧
    (s.ctx cx).dev.toNat ≠ s.own ∧ s.MoreAfter cx 4

/-- Context cx issues a sequencer instruction under a predicate that holds, and another instruction follows. -/
def State.Runs (s : State) (cx : CtxId) (p : Pred) : Prop :=
  s.Issues cx 4 ∧ s.MoreAfter cx 4 ∧ (s.ctx cx).on p = true

/-- The unit a register names by its low 32 bits (R18). -/
def State.unitOf (s : State) (cx : CtxId) (a : Reg) : W32 := BitVec.ofNat 32 (((s.ctx cx).s a).toNat % 2 ^ 32)

/-- Every core of a leaf set is a core of this device that is not fenced (R455). -/
def State.OwnReady (s : State) (ls : List (Nat × Nat)) : Prop := ∀ l ∈ ls, l.1 = s.own ∧ l.2 < 512 ∧ s.coreFenced l.2 = false

/-! ### Vector instructions -/

/-- Context cx issues vector instruction vop in a form LOAD accepts, under a predicate that holds, and another instruction
follows. -/
def State.RunsVec (s : State) (cx : CtxId) (p : Pred) (vop : Nat) (v : VOp) : Prop :=
  s.Issues cx 8 ∧ s.MoreAfter cx 8 ∧ (s.ctx cx).on p = true ∧ vOk vop v = true

/-- The vector instructions by their number (R127). -/
def vecForms (cx : CtxId) (p : Pred) (v : VOp) : List (Nat × Instr) :=
  [(0, .vAdd cx p v), (1, .vSub cx p v), (2, .vMul cx p v), (3, .vFma cx p v), (4, .vMin cx p v), (5, .vMax cx p v),
    (6, .vUn cx p v), (7, .vCmp cx p v), (8, .vSel cx p v), (9, .vLog cx p v), (10, .vSh cx p v), (11, .vCvt cx p v),
    (12, .vSfu cx p v), (13, .vRed cx p v), (14, .vBcast cx p v), (15, .vExt cx p v), (16, .vLd cx p v), (17, .vSt cx p v),
    (18, .vGather cx p v), (19, .vScatter cx p v), (20, .vIota cx p v), (21, .vRng cx p v), (22, .vWelford cx p v),
    (23, .vPerm cx p v)]

/-- o is a next state in which cx has moved past its vector instruction: beside counts and what m gives, only the vector
registers of cx changed, as f says: register, lane, new word; and under stochastic rounding its count of such instructions
rose (R221). -/
def VectorRes (o : Res) (s : State) (m : State → State) (cx : CtxId) (v : VOp) (f : Reg → Nat → W32) : Prop :=
  ∃ t, o = .next t ∧
    Moves s (m t) t cx ((s.ctx cx).pc + 8) { s.ctx cx with vreg := (t.ctx cx).vreg, vsr := (s.ctx cx).vsr + b2n (decide (v.rnd = 2)) } ∧
    ∀ r l, l < 64 → (t.ctx cx).lane r l = f r l

/-- Every active lane l of v[vd] takes f l, every other lane of every register keeps (R127). -/
def Ctx.lanesTo (c : Ctx) (v : VOp) (f : Nat → W32) (r : Reg) (l : Nat) : W32 :=
  if r = v.vd ∧ c.active v l = true then f l else c.lane r l

/-- The same result on registers only. -/
def LanesRes (o : Res) (s : State) (cx : CtxId) (v : VOp) (f : Nat → W32) : Prop :=
  VectorRes o s (fun _ => s) cx v ((s.ctx cx).lanesTo v f)

/-- One rounded floating-point operation g on register elements xs of format fmt: fp32 inputs and result flushed, computed
exactly, rounded once (R188, R190). -/
def roundOnce (fmt : Nat) (rnd : Rnd) (g : List Machine.Num → Machine.Num) (xs : List Nat) : Nat :=
  (flushFor fmt (encodeElem fmt rnd false (g (xs.map fun x => decodeElem fmt (flushFor fmt x).1)))).1

/-- An element code of format fmt, a NaN in its canonical form (R64, R188). -/
def canonNan (fmt c : Nat) : Nat :=
  match ffmt fmt with
  | some F => if F.decode c = .nan then F.nanCode else c
  | none => c

/-- Each element of the words f is what g makes of the same elements of registers rs (R186). -/
def EachElem (c : Ctx) (v : VOp) (rs : List Reg) (f : Nat → W32) (g : Nat → Nat → List Nat → Nat) : Prop :=
  ∀ l h, l < 64 → h < halves v.fmt.toNat → getHalf v.fmt.toNat (f l) h =
    g l h (rs.map fun r => getHalf v.fmt.toNat (c.lane r l) h) % 2 ^ (32 / halves v.fmt.toNat)

/-- Neighbours combined upward: node i of level k over leaves 2^k i to 2^k (i + 1) - 1, the even one first (R128, R199). -/
def pairTree {α : Type} (f : α → α → α) (leaf : Nat → α) : Nat → Nat → α
  | 0, i => leaf i
  | k + 1, i => f (pairTree f leaf k (2 * i)) (pairTree f leaf k (2 * i + 1))

/-- A leaf of v.red: the element of an active lane, flushed in fp32, or nothing (R128, R190). -/
def Ctx.redLeaf (c : Ctx) (v : VOp) (h l : Nat) : RedNode :=
  let x := if v.fmt = 0x0F then ((c.lane v.va l).toNat, false) else flushFor v.fmt.toNat (getHalf v.fmt.toNat (c.lane v.va l) h)
  if c.active v l then ⟨some x.1, l, if x.2 then [l] else [], 0⟩ else ⟨none, l, [], 0⟩

/-! ### Ring commands -/

/-- Stream, entry and code of a ring command (R110). -/
def ringCmd : Instr → Option (StreamId × BitVec 512 × Nat)
  | .bind i e _ => some (i, e, 1)
  | .load i e => some (i, e, 2)
  | .start i e => some (i, e, 3)
  | .pause i e => some (i, e, 4)
  | .resume i e => some (i, e, 5)
  | .save i e => some (i, e, 6)
  | .restore i e _ => some (i, e, 7)
  | .kill i e => some (i, e, 8)
  | .fence i e => some (i, e, 9)
  | _ => none

/-- The ingress of stream i is free to take a command: its ring holds one, no FENCE is pending, the machine runs, and the
completion ring has space (R111, R399, R403, R406). -/
def State.Fetches (s : State) (i : StreamId) : Prop := s.ringIdle i = false ∧ s.cplBlocked i = false

/-- The entry names this command and sets no reserved bit (R110, R404). -/
def EntryFor (e : BitVec 512) (code : Nat) : Prop :=
  e.toNat % 256 = code ∧ ∃ used, cmdUsed code = some used ∧ reservedBit used e = none

/-- The ring has moved past the command at its head. -/
def State.taken (s : State) (i : StreamId) : State :=
  s.modSreg i fun r => { r with cmdHead := r.cmdHead + 1, cplWaiting := false }

/-- m after the completion entry of entry e, taken in s, is posted: its code, status, state found, state after, tag, index and
value (R115, R405). -/
def Completed (s : State) (i : StreamId) (e : BitVec 512) (code : Nat) (m : State) (status : Code) (value : W64) : State :=
  m.complete i (s.strm i).state code status (BitVec.ofNat 32 (e.toNat / 2 ^ 32 % 2 ^ 32)) (s.sreg i).cmdHead value

/-- Field [lo + w - 1 : lo] of an entry. -/
def field (e : BitVec 512) (lo w : Nat) : Nat := e.toNat / 2 ^ lo % 2 ^ w

/-- Every leaf core of stream i lies on this device. -/
def State.OwnLeaves (s : State) (i : StreamId) : Prop := ∀ l ∈ (s.strm i).leaves, l.1 = s.own

/-- Which states admit which ring command (R112). -/
def Admits : Nat → SState → Prop
  | 1, x => x = .empty
  | 2, x => x = .bound ∨ x = .loaded ∨ x = .faulted
  | 3, x => x = .loaded
  | 4, x => x = .running
  | 5, x => x = .paused
  | 6, x => x = .paused
  | 7, x => x = .bound ∨ x = .loaded ∨ x = .paused ∨ x = .faulted
  | _, _ => True

/-- From s to t cause c was raised and nothing else of the host port or of what was sent changed but its message (R412). -/
def Raised (s t : State) (c : Nat) : Prop :=
  bit t.hif.pend c = true ∧ (∀ j, j ≠ c → bit t.hif.pend j = bit s.hif.pend j) ∧
  t.hif = { s.hif with pend := t.hif.pend, msixHeld := t.hif.msixHeld, msixPba := t.hif.msixPba } ∧ t.out = { s.out with msix := t.out.msix } ∧
  (bit s.hif.pend c = true → t.hif = s.hif ∧ t.out = s.out)

/-- o is a next state that differs from s only in core c, which is k, and in counts. -/
def CoreRes (o : Res) (s : State) (c : Nat) (k : Core) : Prop :=
  ∃ t, o = .next t ∧ t = { s with cores := t.cores, evt := Counted s t } ∧ t.core c = k ∧ ∀ n, n ≠ c → t.core n = s.core n

/-- o is a next state that differs from s only in cluster c, which is x. -/
def ClusterRes (o : Res) (s : State) (c : Nat) (x : Cluster) : Prop :=
  ∃ t, o = .next t ∧ t = { s with clusters := t.clusters } ∧ t.cluster c = x ∧ ∀ n, n ≠ c → t.cluster n = s.cluster n

/-! ### Register operations and raw bits -/

/-- The operation that a row carries out (R28, R256, R281, R287, R299, R303, R445; log 50, DESIGN CHOICE). -/
def opRow : Instr → Option RegOp
  | .unitGdefDefine i => some (.gdefDefine i)
  | .unitGdefRemove i => some (.gdefRemove i)
  | .deltaGenLoad slot gen mask => some (.deltaLoad slot gen mask)
  | .deltaGenRetire slot gen mask => some (.deltaRetire slot gen mask)
  | .stkRprRead v t st i => some (.rprOp 1 v t st i)
  | .stkRprSoftWrite v t st i => some (.rprOp 2 v t st i)
  | .stkRprSoftClear v t st i => some (.rprOp 3 v t st i)
  | .stkRprMarkFailed v t st i => some (.rprOp 4 v t st i)
  | .stkRprClearFailed v t st i => some (.rprOp 5 v t st i)
  | .kvPoolDefine p => some (.poolDefine p)
  | .kvPoolRemove p => some (.poolRemove p)
  | .kvEpochAdvance who p => some (.poolAdvance who p)
  | .kvTreeHash i p slot => some (.treeOp 1 i p slot)
  | .kvTreeLookup i p slot => some (.treeOp 2 i p slot)
  | .kvTreeInsert i p slot => some (.treeOp 3 i p slot)
  | .kvTreeRelease i p slot => some (.treeOp 4 i p slot)
  | .kvTreeEvict i p slot => some (.treeOp 5 i p slot)
  | .bootRcvFetch len slot _ => some (.rcvFetch len slot)
  | _ => none

/-- s with the fields that the write of an operation sets. -/
def RegOp.written (s : State) : RegOp → State
  | .gdefDefine i => s.setGdef i
  | .gdefRemove i => s.setGdef i
  | .deltaLoad slot gen mask => s.setDelta slot gen mask
  | .deltaRetire slot gen mask => s.setDelta slot gen mask
  | .rprOp _ v t st i => s.setRpr v t st i
  | .poolDefine p => s.setPool p
  | .poolRemove p => s.setPool p
  | .poolAdvance _ p => s.setPool p
  | .poolPublish _ => s
  | .treeOp _ i p slot => s.setTree i p slot
  | .rcvFetch len slot => s.setRcv len slot

/-- Nothing is in progress in the register set of q, and nothing of its unit comes before q. -/
def State.OpFree (s : State) (q : RegOp) : Prop := s.running q.set = none ∧ s.turn q = true

/-- k identical bits in a row stand in l. -/
def Repeats (l : List Bool) (k : Nat) : Prop := ∃ n b, n + k ≤ l.length ∧ (l.drop n).take k = List.replicate k b

/-- Nothing waits for a request, a join or a leave to go on. -/
def State.Quiet (s : State) : Prop :=
  s.fab.waiting = [] ∧ s.fab.mstate ≠ .leaving ∧ s.fab.mstate ≠ .joining ∧ s.boot.flrAt = none

/-- o is a next state that differs from s only in port p, which is y, in counts and in link messages sent. -/
def PortRes (o : Res) (s : State) (p : Nat) (y : Port) (ms : List Sent) : Prop :=
  ∃ t, o = .next t ∧ t = { s with ports := t.ports, out := { s.out with sent := s.out.sent ++ ms }, evt := Counted s t } ∧
    t.port p = y ∧ ∀ n, n ≠ p → t.port n = s.port n

/-- Where packet k has a route in s, it waits at that port in t, or has gone out there. -/
def Sends (s t : State) (k : Packet) : Prop :=
  ∀ p, s.routePort k = some p → k ∈ (t.port p).queue ∨ (p, k) ∈ t.out.packets

/-- o is a next state in which device event ev has been counted once, and nothing else has changed: what was asked was refused or
dropped, and counted (Obligations.EventCounters says what the count does). -/
def CountsOne (o : Res) (s : State) (ev : Nat) : Prop := o = .next (s.countDev ev)

/-- o is a next state in which answer r has gone out; beside it caches and counts may have changed. -/
def Answers (o : Res) (s : State) (r : Reply) : Prop :=
  ∃ t, o = .next t ∧ t = { s with clusters := t.clusters, evt := Counted s t, out := { s.out with replies := s.out.replies ++ [r] } }

/-- t is m after cause c was raised. -/
def RaisedAs (m t : State) (c : Nat) : Prop := t = { m with hif := t.hif, out := t.out } ∧ Raised m t c

end Sys2Proof.Machine
end

