-- ==== Sys2Proof/Certificates/Slice0/Obligations.lean ====
section
/-! DEFINITION. The statements for the provers. -/

open Sys2Proof Sys2Proof.Machine

/-! ### The sequencer (R102, R123-R126) -/

/-- s.alu, s.addi, s.andi, s.ori, s.xori, s.shi and s.mov16 complete with the result their rows of R125 give in s[d], R124's
immediates sign-extended; nothing else changes but the counters and the program counter. s.cmp, s.cmpi and s.pop complete
with the outcome their rows of R125 give in p[d]; nothing else changes but the counters and the program counter. -/
def Obligations.ScalarResults : Prop :=
  (∀ (s : State) (cx : CtxId) (p : Pred) (d a b : Reg), s.Issues cx 4 → s.MoreAfter cx 4 →
    ((s.ctx cx).on p = true →
      (∀ fn, ∃ v, AluRule ((s.ctx cx).s a) ((s.ctx cx).s b) v fn ∧ ScalarRes (exec (.sAlu cx p fn d a b) s) s cx d v) ∧
      (∀ imm, ScalarRes (exec (.sAddi cx p d a imm) s) s cx d ((s.ctx cx).s a + imm.signExtend 64) ∧
        ScalarRes (exec (.sAndi cx p d a imm) s) s cx d ((s.ctx cx).s a &&& imm.signExtend 64) ∧
        ScalarRes (exec (.sOri cx p d a imm) s) s cx d ((s.ctx cx).s a ||| imm.signExtend 64) ∧
        ScalarRes (exec (.sXori cx p d a imm) s) s cx d ((s.ctx cx).s a ^^^ imm.signExtend 64)) ∧
      (∀ n, ∃ l r x : W64, l.toNat = ((s.ctx cx).s a).toNat * 2 ^ n.toNat % 2 ^ 64 ∧
        r.toNat = ((s.ctx cx).s a).toNat / 2 ^ n.toNat ∧ x.toInt = ((s.ctx cx).s a).toInt / 2 ^ n.toNat ∧
        ScalarRes (exec (.sShi cx p .left d a n) s) s cx d l ∧ ScalarRes (exec (.sShi cx p .logical d a n) s) s cx d r ∧
        ScalarRes (exec (.sShi cx p .arithmetic d a n) s) s cx d x)) ∧
    ∀ hw keep imm, ∃ v : W64, ScalarRes (exec (.sMov16 cx hw keep d imm) s) s cx d v ∧
      ∀ j, j < 4 → v.toNat / 2 ^ (16 * j) % 2 ^ 16 =
        if j = hw.toNat then imm.toNat else if keep then ((s.ctx cx).s d).toNat / 2 ^ (16 * j) % 2 ^ 16 else 0) ∧
  ∀ (s : State) (cx : CtxId) (p : Pred) (d : BitVec 3), s.Issues cx 4 → s.MoreAfter cx 4 → (s.ctx cx).on p = true →
    (∀ k a b, ∃ v, CondRule ((s.ctx cx).s a) ((s.ctx cx).s b) v k ∧ PredRes (exec (.sCmp cx p k d a b) s) s cx d v) ∧
    (∀ k a imm, ∃ v, CondRule ((s.ctx cx).s a) (imm.signExtend 64) v k ∧
      PredRes (exec (.sCmpi cx p k d a imm) s) s cx d v) ∧
    (∀ fn a b, ∃ v, PopRule ((s.ctx cx).p a) ((s.ctx cx).p b) v fn ∧ PredRes (exec (.sPop cx p fn d a b) s) s cx d v)

/-- Every sequencer and vector instruction whose predicate does not hold completes without effect: the context moves past it
(R124). A context that may not issue (held by a fence, an s.mwait, a response, a question to its stream's device or a pause, idle,
halted, free, or the machine not running) is not moved by an instruction: nothing changes; one that waits at a bound is moved
only by an instruction that may wait at that bound, one that holds an answer only by one that asks (R106, R153, R488; log 28,
DESIGN CHOICE). -/
def Obligations.PredicatedOff : Prop :=
  (∀ (s : State) (i : Instr) (cx : CtxId) (p : Pred) (n : W64), seqParts i = some (cx, p, n) → s.Issues cx n →
    s.MoreAfter cx n → (s.ctx cx).on p = false → ∃ t, exec i s = .next t ∧ StepsOn s t cx n (s.ctx cx)) ∧
  ∀ (s : State) (i : Instr) (cx : CtxId) (p : Pred) (n : W64), seqParts i = some (cx, p, n) →
    (s.awake cx = false ∨ ((s.ctx cx).granted ≠ none ∧ ¬Asks i) ∨
      ((s.ctx cx).wait ≠ .ready ∧ ∀ q, (s.ctx cx).wait = .bound q → ¬MayWaitAt i q)) → exec i s = .next s

/-- s.ld and s.ldw complete on unpoisoned memory of this device: s[d] takes the 8 or 4 bytes at s[a] + imm, zero-extended;
memory, and everything else but the bookkeeping of caches and corrected symbols, keeps (R125, R126). s.st and s.stw complete on
memory of this device: the 8 or 4 bytes at s[a] + imm take the low bytes of s[d]; every other byte keeps, memory stays canonical,
and beside that bookkeeping nothing else changes (R125, R126). s.amo completes on unpoisoned memory of this device: s[d] takes the
value at s[a], and the location the value that fn gives of it, s[b] and, for compare-and-swap, s[d] (R125). Where no stored symbol
is in error none of them counts a correction. A core whose per_core_max is 0 waits with an access to the stack (R153, R277). -/
def Obligations.ScalarMemory : Prop :=
  (∀ (s : State) (cx : CtxId) (p : Pred) (d a : Reg) (imm : BitVec 12) (x : W64), s.Runs cx p →
    x = (s.ctx cx).s a + imm.signExtend 64 → ∀ n, s.InMemory x n → s.Reaches cx (x.toNat % 2 ^ 48) n →
    s.poisonIn (x.toNat % 2 ^ 48) n = none →
    ∀ v : W64, v.toNat < 256 ^ n → s.Holds (x.toNat % 2 ^ 48) n v →
      (n = 8 → ScalarResIn (exec (.sLd cx p d a imm) s) s (Beneath s) cx d v) ∧
      (n = 4 → ScalarResIn (exec (.sLdw cx p d a imm) s) s (Beneath s) cx d v)) ∧
  (∀ (s : State) (cx : CtxId) (p : Pred) (d a : Reg) (imm : BitVec 12) (x : W64), s.Runs cx p → s.memOk →
    x = (s.ctx cx).s a + imm.signExtend 64 → ∀ (n : Nat) (i : Instr), s.InMemory x n → s.Reaches cx (x.toNat % 2 ^ 48) n →
    s.badLine (x.toNat % 2 ^ 48 / 128) = s.poisoned (x.toNat % 2 ^ 48 / 128) →
    (n = 8 ∧ i = .sSt cx p d a imm ∨ n = 4 ∧ i = .sStw cx p d a imm) →
    ∃ t, exec i s = .next t ∧
      Moves s { Beneath s t with mem := t.mem } t cx ((s.ctx cx).pc + 4) (s.ctx cx) ∧ t.memOk ∧
      t.Holds (x.toNat % 2 ^ 48) n ((s.ctx cx).s d) ∧ SameBytesBut s t (x.toNat % 2 ^ 48) n) ∧
  (∀ (s : State) (cx : CtxId) (p : Pred) (fn : AmoFn) (d a b : Reg) (x v w : W64), s.Runs cx p → s.memOk →
    x = (s.ctx cx).s a → s.InMemory x 8 → s.Reaches cx (x.toNat % 2 ^ 48) 8 → s.poisonIn (x.toNat % 2 ^ 48) 8 = none →
    s.Holds (x.toNat % 2 ^ 48) 8 v → AmoRule v ((s.ctx cx).s b) ((s.ctx cx).s d) w fn →
    ScalarResIn (exec (.sAmo cx p fn d a b) s) s (fun t => { Beneath s t with mem := t.mem }) cx d v ∧
    ∃ t, exec (.sAmo cx p fn d a b) s = .next t ∧ t.Holds (x.toNat % 2 ^ 48) 8 w ∧ t.memOk ∧
      SameBytesBut s t (x.toNat % 2 ^ 48) 8) ∧
  ∀ (s t : State) (cx : CtxId) (p : Pred) (fn : AmoFn) (d a b : Reg) (imm : BitVec 12) (x : W64) (n : Nat) (i : Instr),
    s.Runs cx p → s.InMemory x n → ScalarAccess (s.ctx cx) cx p fn d a b imm x n i →
    (s.upsets = [] → s.badLine (x.toNat % 2 ^ 48 / 128) = s.poisoned (x.toNat % 2 ^ 48 / 128) → exec i s = .next t →
      t.vaults = s.vaults ∧ t.upsets = []) ∧
    (inStack (x.toNat % 2 ^ 48) n = true → ¬s.AwlOpen cx → (s.ctx cx).pausing = false → WaitsFor (exec i s) s cx (.bound 4))

/-- A scalar access that is not aligned to its size faults its stream with E_ALIGN, and one outside the local map of this
device with E_BOUNDS, naming the address; memory keeps (R126, R261, R476). A load of a poisoned stack line, s.amo among them,
faults its stream with E_STACK_UE, naming the line's address; a line found uncorrectable here is poisoned (R279, R476). A store to
such a line is made, poisons it, and latches a fault of no stream at its home cluster (R279, R458; log 43, DEDUCED). -/
def Obligations.ScalarAccessFaults : Prop :=
  (∀ (s : State) (cx : CtxId) (p : Pred) (fn : AmoFn) (d a b : Reg) (imm : BitVec 12) (x : W64) (n : Nat) (i : Instr),
    s.Runs cx p → s.Faultable cx → ScalarAccess (s.ctx cx) cx p fn d a b imm x n i →
    (x.toNat % n ≠ 0 → Faults (exec i s) s cx eAlign (nameW 8 x.toNat)) ∧
    (x.toNat % n = 0 → x.toNat / 2 ^ 48 = s.own → regionOf (x.toNat % 2 ^ 48) = .none →
      Faults (exec i s) s cx eBounds (nameW 8 x.toNat))) ∧
  (∀ (s : State) (cx : CtxId) (p : Pred) (fn : AmoFn) (d a b : Reg) (imm : BitVec 12) (x : W64) (n : Nat) (i : Instr),
    s.Runs cx p → s.Faultable cx → ScalarAccess (s.ctx cx) cx p fn d a b imm x n i →
    (∀ k, i ≠ .sSt cx p d a k ∧ i ≠ .sStw cx p d a k) →
    s.InMemory x n → s.AwlOpen cx → ∀ ln, s.poisonIn (x.toNat % 2 ^ 48) n = some ln →
      FaultsIn (exec i s) s (fun t => { Beneath s t with poison := t.poison }) cx eStackUe (BitVec.ofNat 64 (128 * ln))
        (nameW 8 (s.own * 2 ^ 48 + 128 * ln)) ∧
      ∃ t, exec i s = .next t ∧ t.poisoned ln = true ∧ ∀ k, k ≠ ln → t.poisoned k = s.poisoned k) ∧
  ∀ (s : State) (cx : CtxId) (p : Pred) (d a : Reg) (imm : BitVec 12) (x : W64) (n : Nat) (i : Instr), s.Runs cx p → s.memOk →
    s.flt.lockstep = false → (n = 8 ∧ i = .sSt cx p d a imm ∨ n = 4 ∧ i = .sStw cx p d a imm) →
    x = (s.ctx cx).s a + imm.signExtend 64 → s.InMemory x n → inStack (x.toNat % 2 ^ 48) n = true → s.AwlOpen cx →
    ∀ ln, ln = x.toNat % 2 ^ 48 / 128 → s.badLine ln = true → s.poisoned ln = false →
    ∃ t, exec i s = .next t ∧
      Moves s { Beneath s t with mem := t.mem, poison := t.poison, flt := t.flt } t cx ((s.ctx cx).pc + 4) (s.ctx cx) ∧
      t.poisoned ln = true ∧ (∀ k, k ≠ ln → t.poisoned k = s.poisoned k) ∧ t.Holds (x.toNat % 2 ^ 48) n ((s.ctx cx).s d) ∧
      SameBytesBut s t (x.toNat % 2 ^ 48) n ∧
      t.flt = { s.flt with latch := s.flt.latch ++ [(⟨eStackUe, 1, BitVec.ofNat 16 (s.home ln), none, BitVec.ofNat 64 (128 * ln), 0⟩, 1, s.time)] }

/-- A scalar access to memory of another live device, with a route, a tag and no earlier write to its line outstanding, sends
RD, WR or ATOM with the lowest free tag; a load and an atomic wait for the response, a store goes on (R361, R363, R364). A
scalar access of a context to the register window reads or writes the register at the same offset of BAR0, in program order,
and completes; the debug window is closed to it (R130, R261, R480, R487). -/
def Obligations.RemoteAndRegisterAccesses : Prop :=
  (∀ (s : State) (cx : CtxId) (p : Pred) (fn : AmoFn) (d a b : Reg) (imm : BitVec 12) (x : W64) (i : Instr)
    (n tag port : Nat) (pkt : Packet) (typ code : BitVec 8) (pay : List Byte) (who : Requester), s.Runs cx p →
    x.toNat % n = 0 → x.toNat / 2 ^ 48 ≠ s.own →
    ((i = .sLd cx p d a imm ∧ n = 8 ∧ x = (s.ctx cx).s a + imm.signExtend 64 ∧ typ = 0x01 ∧ code = 8 ∧ pay = [] ∧
        who = .ctxLoad cx d true) ∨
      (i = .sLdw cx p d a imm ∧ n = 4 ∧ x = (s.ctx cx).s a + imm.signExtend 64 ∧ typ = 0x01 ∧ code = 4 ∧ pay = [] ∧
        who = .ctxLoad cx d false) ∨
      (i = .sSt cx p d a imm ∧ n = 8 ∧ x = (s.ctx cx).s a + imm.signExtend 64 ∧ typ = 0x03 ∧ code = 0 ∧
        pay = leBytes 8 ((s.ctx cx).s d).toNat ∧ who = .ctxStore (s.ctx cx).dev (s.ctx cx).strm cx) ∨
      (i = .sStw cx p d a imm ∧ n = 4 ∧ x = (s.ctx cx).s a + imm.signExtend 64 ∧ typ = 0x03 ∧ code = 0 ∧
        pay = leBytes 4 ((s.ctx cx).s d).toNat ∧ who = .ctxStore (s.ctx cx).dev (s.ctx cx).strm cx) ∨
      (i = .sAmo cx p fn d a b ∧ n = 8 ∧ x = (s.ctx cx).s a ∧ typ = 0x05 ∧ code = amoCode fn ∧
        pay = leBytes 8 ((s.ctx cx).s b).toNat ++ (if fn = .cas then leBytes 8 ((s.ctx cx).s d).toNat else []) ∧
        who = .ctxAtomic cx d)) →
    s.isLive (x.toNat / 2 ^ 48) = true → s.lineHeld (x.toNat / 2 ^ 48) (x.toNat % 2 ^ 48) = false → s.freeTag = some tag →
    pkt = ⟨typ, BitVec.ofNat 16 (x.toNat / 2 ^ 48), BitVec.ofNat 16 s.own, BitVec.ofNat 13 tag,
      BitVec.ofNat 48 (x.toNat % 2 ^ 48), code, 64, 0, pay⟩ → s.routePort pkt = some port →
    ∃ t, exec i s = .next t ∧
      t = { s with ctxs := t.ctxs, ports := t.ports, out := { s.out with packets := t.out.packets }, evt := Counted s t, fab := { s.fab with reqs := tput s.fab.reqs tag (some ⟨pkt, who, false⟩) } } ∧
      (pkt ∈ (t.port port).queue ∨ (port, pkt) ∈ t.out.packets) ∧ SameCtxsBut s t cx ∧
      t.ctx cx = (if typ = 0x03 then { s.ctx cx with pc := (s.ctx cx).pc + 4, wait := .ready }
        else { s.ctx cx with wait := .remote (BitVec.ofNat 13 tag) })) ∧
  ∀ (s : State) (cx : CtxId) (p : Pred) (d a : Reg) (imm : BitVec 12) (o : Nat), s.Runs cx p → o < 2 ^ 26 →
    let x := (s.ctx cx).s a + imm.signExtend 64
    x.toNat = s.own * 2 ^ 48 + regBase + o →
    let off := BitVec.ofNat 26 o
    let like (s0 : State) : Prop := s0 = { s with evt := Counted s s0 }
    let stores (i : Instr) (size8 : Bool) : Prop := ∃ s0 u t, like s0 ∧
      exec (.registerWrite (.ctx cx) off size8 ((s.ctx cx).s d)) s0 = .next u ∧ exec i s = .next t ∧
      ((u.ctx cx).stopping = false → (u.ctx cx).wait = .ready → u.MoreAfter cx 4 → Moves u u t cx ((u.ctx cx).pc + 4) (u.ctx cx))
    let loads (i : Instr) (size8 : Bool) : Prop := ∃ s0 u t, like s0 ∧
      exec (.registerRead (.ctx cx) off size8) s0 = .next u ∧ exec i s = .next t ∧
      Moves u u t cx ((s.ctx cx).pc + 4) { s.ctx cx with sreg := (t.ctx cx).sreg } ∧
      ∀ r, (t.ctx cx).s r = if r = d ∧ d ≠ 0 then (s0.regRead ⟨o, size8⟩).1 else (s.ctx cx).s r
    (o % 8 = 0 → stores (.sSt cx p d a imm) true ∧ loads (.sLd cx p d a imm) true) ∧
    (o % 4 = 0 → stores (.sStw cx p d a imm) false ∧ loads (.sLdw cx p d a imm) false) ∧
    (o % 8 = 0 → 0x100000 ≤ o → o < 0x102000 → ∃ t, exec (.sSt cx p d a imm) s = .next t ∧ StepsOn s t cx 4 (s.ctx cx))

/-- s.br jumps to its own address plus 4 × off; s.call does so too and leaves the next address in s31; s.jr jumps to an
instruction start that s[a] names (R124, R125). s.end, and any register instruction that comes to the end of the program: the
lead context takes a RUNNING stream to DRAINING with an event entry; a block context ends its block and idles, or starts the
next block it holds, with the block's arguments in s1 to s4 and its rank in s5 (R103, R105, R108, R118). A lead context that PAUSE
stops at its next macro-instruction boundary stops there instead (R119; log 42, DEDUCED). -/
def Obligations.Jumps : Prop :=
  (∀ (s : State) (cx : CtxId) (p : Pred) (off : BitVec 22) (a : Reg), s.Issues cx 4 → (s.ctx cx).on p = true →
    let c := s.ctx cx
    (c.pc + off.signExtend 64 * 4 ≠ c.codeEnd →
      (∃ t, exec (.sBr cx p off) s = .next t ∧ Moves s s t cx (c.pc + off.signExtend 64 * 4) c) ∧
      ∃ t, exec (.sCall cx p off) s = .next t ∧
        Moves s s t cx (c.pc + off.signExtend 64 * 4) { c with sreg := (t.ctx cx).sreg } ∧
        ∀ r, (t.ctx cx).s r = if r = 31 then c.pc + 4 else c.s r) ∧
    (s.targetErr c (c.s a) = 0 → (c.s a).toNat % 2 ^ 48 ≠ c.codeEnd.toNat →
      ∃ t, exec (.sJr cx p a) s = .next t ∧ Moves s s t cx (BitVec.ofNat 64 ((c.s a).toNat % 2 ^ 48)) c) ∧
    (s.Faultable cx → s.targetErr c (c.s a) ≠ 0 →
      Faults (exec (.sJr cx p a) s) s cx (s.targetErr c (c.s a)) (nameW 3 (c.pc - c.codeBase).toNat))) ∧
  ∀ (s : State) (cx : CtxId) (p : Pred) (i : Instr) (x : Ctx), s.Issues cx 4 → (s.ctx cx).on p = true →
    (s.ctx cx).dev.toNat = s.own →
    let c := s.ctx cx
    (i = .sEnd cx p ∧ x = c ∨ (∃ d a imm, i = .sAddi cx p d a imm ∧
      x = { c.setS d (c.s a + BitVec.signExtend 64 imm) with pc := c.codeEnd }) ∧ c.pc + 4 = c.codeEnd) →
    (c.pausing = true → Halts (exec i s) s cx x) ∧
    (c.pausing = false → c.lead = true → (s.strm c.strm).state = .running →
      ∃ m, m = { s with ctxs := m.ctxs, evt := Counted s m, streams := m.streams } ∧
      SameCtxsBut s m cx ∧ m.ctx cx = { x with wait := .stopped } ∧ SameStrmsBut s m c.strm ∧
      m.strm c.strm = { s.strm c.strm with state := .draining, drainPaused := false, prompt := false } ∧
      exec i s = .next (m.postEntry c.strm (cplEntry true .running .draining 0 0 0 0 0 s.time))) ∧
    (c.pausing = false → c.lead = false → (s.strm c.strm).asks = [] → ∀ b bs, c.blocks = b :: bs → (∀ y ∈ bs, y.addr ≠ c.codeEnd) →
      ∃ t, exec i s = .next t ∧ t = { s with ctxs := t.ctxs, streams := t.streams, evt := Counted s t } ∧
        SameCtxsBut s t cx ∧ SameStrmsBut s t c.strm ∧
        t.strm c.strm = { s.strm c.strm with disps := (t.strm c.strm).disps } ∧
        (∀ y ∈ (t.strm c.strm).disps, y.ticket = b.ticket → (s.own, ctxCore cx) ∉ y.leaves ∧ y.leaves ≠ []) ∧
        (t.ctx cx).blocks = bs ∧ (t.ctx cx).pred = c.pred ∧ (t.ctx cx).vreg = c.vreg ∧
        match bs with
        | [] => t.ctx cx = { x with blocks := [], wait := .idle }
        | y :: _ => (t.ctx cx).wait = .ready ∧ (t.ctx cx).pc = y.addr ∧
          ∀ r, (t.ctx cx).s r = if r = 5 then BitVec.ofNat 64 y.rank
            else if r = 1 ∨ r = 2 ∨ r = 3 ∨ r = 4 then y.args.getD (r.toNat - 1) 0 else x.s r)

/-- s.info completes with what its row of R125 says: the device, stream, core, rank and leaf count, and the core's cycle
counter, which only rises while the instruction runs (the elapsed cycles are free; log 51, DEDUCED). s.gdef returns 0 in s[d] and
defines the group where the image passes the checks of R24, else the first error and no change; s.gundef likewise removes a
group that nothing refers to; an operation of UNIT_GDEF in progress completes before (R23-R25, R126). -/
def Obligations.InformationAndGroups : Prop :=
  (∀ (s : State) (cx : CtxId) (p : Pred) (d : Reg), s.Runs cx p →
    let c := s.ctx cx
    ScalarRes (exec (.sInfo cx p .device d) s) s cx d (BitVec.ofNat 64 (s.fab.cfg.toNat % 2 ^ 16)) ∧
    ScalarRes (exec (.sInfo cx p .stream d) s) s cx d (c.strm.setWidth 64) ∧
    ScalarRes (exec (.sInfo cx p .core d) s) s cx d (BitVec.ofNat 64 (cx.toNat / 8)) ∧
    ScalarRes (exec (.sInfo cx p .rank d) s) s cx d (BitVec.ofNat 64 c.rank) ∧
    ScalarRes (exec (.sInfo cx p .leaves d) s) s cx d (BitVec.ofNat 64 c.leafCount) ∧
    ∃ n : Nat, (s.core (cx.toNat / 8)).cycles ≤ n ∧
      ScalarResIn (exec (.sInfo cx p .cycle d) s) s
        (fun _ => { s.modCore (cx.toNat / 8) fun k => { k with cycles := n } with freeCtr := s.freeCtr + 1 }) cx d
        (BitVec.ofNat 64 n)) ∧
  ∀ (s : State) (cx : CtxId) (p : Pred) (d a b : Reg), s.Runs cx p →
    let i := ((s.ctx cx).s a).toNat % 2 ^ 16
    let src := ((s.ctx cx).s b).toNat % 2 ^ 48
    let own := (s.localOf ((s.ctx cx).s b)).isSome
    (s.gdefFlush.busy .gdef = false → s.busy .gdef = true →
      exec (.sGdef cx p d a b) s = exec (.sGdef cx p d a b) s.gdefFlush ∧ exec (.sGundef cx p d a) s = exec (.sGundef cx p d a) s.gdefFlush) ∧
    (s.busy .gdef = false →
    (s.gdefErr i own src ≠ 0 → ScalarRes (exec (.sGdef cx p d a b) s) s cx d ((s.gdefErr i own src).setWidth 64)) ∧
    (s.gdefErr i own src = 0 →
      ScalarResIn (exec (.sGdef cx p d a b) s) s (fun t => { s with groups := t.groups, out := t.out }) cx d 0 ∧
      ∃ t, exec (.sGdef cx p d a b) s = .next t ∧ (t.group i).defined = true ∧
        (t.group i).listAddr.toNat = s.num (src + 4) 6 ∧ (t.group i).members.length = s.num src 4 % 2 ^ 20 ∧
        (t.group i).bound = 0 ∧ ∀ j, j ≠ i → (t.group j).members = (s.group j).members ∧ (t.group j).defined = (s.group j).defined) ∧
    (s.gundefErr i ≠ 0 → ScalarRes (exec (.sGundef cx p d a) s) s cx d ((s.gundefErr i).setWidth 64)) ∧
    (s.gundefErr i = 0 →
      ScalarResIn (exec (.sGundef cx p d a) s) s (fun t => { s with groups := t.groups, out := t.out }) cx d 0 ∧
      ∃ t, exec (.sGundef cx p d a) s = .next t ∧ (t.group i).defined = false ∧
        ∀ j, j ≠ i → (t.group j).members = (s.group j).members ∧ (t.group j).defined = (s.group j).defined))

/-- s.mwait of a ticket not yet given faults with E_HANDLE; one of an outstanding macro-instruction waits; one of a retired
macro-instruction goes on (R125, R126). s.fence of scope 0 goes on where no write of its context awaits an acknowledgement,
of scope 1 where no work of the stream runs in the unit, of scope 2 where none runs on this device, of scope 3 where beside
that none of its writes awaits one; a fence leaves out the block it runs in (log 51, DEDUCED); those of scope 2 and 3 publish the
epochs the stream has advanced (R131, R299). A fence with work in its scope waits, remembering that work; SEQ_FENCE_COMPLETE lets a
waiting fence go on once that work has ended and its writes are acknowledged, and does nothing before (R131, R133). A context that
pauses stops where it would wait (R119). Of a stream of another device its device is asked, and its answer lets the context go on
(log 28, DESIGN CHOICE). -/
def Obligations.WaitsAndFences : Prop :=
  (∀ (s : State) (cx : CtxId) (p : Pred) (a : Reg), s.Runs cx p → (s.ctx cx).dev.toNat = s.own →
    let t := (s.ctx cx).s a
    let given := t.toNat < (s.strm (s.ctx cx).strm).nextMi.toNat
    let out := ∃ m ∈ s.workMis (s.ctx cx).strm, m.1 = t
    (given → ¬out → ∃ u, exec (.sMwait cx p a) s = .next u ∧ StepsOn s u cx 4 (s.ctx cx)) ∧
    (given → out → (s.ctx cx).pausing = false → WaitsFor (exec (.sMwait cx p a) s) s cx (.mwait t)) ∧
    (given → out → (s.ctx cx).pausing = true → Halts (exec (.sMwait cx p a) s) s cx (s.ctx cx)) ∧
    (¬given → s.Faultable cx → Faults (exec (.sMwait cx p a) s) s cx eHandle 0)) ∧
  (∀ (s : State) (cx : CtxId) (p : Pred) (a : Reg), s.Runs cx p → (s.ctx cx).dev.toNat = s.own →
    let c := s.ctx cx
    let mine (b : Disp) : Prop := c.lead = false ∧ ∃ x bs, c.blocks = x :: bs ∧ x.ticket = b.ticket
    (s.fenceWrites cx .localScope = false →
      ∃ t, exec (.sFence cx p .localScope a) s = .next t ∧ StepsOn s t cx 4 c) ∧
    (s.handleOk (s.unitOf cx a) = true → s.OwnReady (s.leavesOf (s.unitOf cx a)) →
      (∀ m ∈ s.workMis c.strm, ∀ l ∈ m.2, l ∉ s.leavesOf (s.unitOf cx a)) →
      (∀ b ∈ (s.strm c.strm).disps, ¬mine b → ∀ l ∈ b.leaves, l ∉ s.leavesOf (s.unitOf cx a)) →
      ∃ t, exec (.sFence cx p .unit a) s = .next t ∧ StepsOn s t cx 4 c) ∧
    ∀ fn, fn = .device ∨ fn = .system → s.fenceWrites cx fn = false →
      (∀ m ∈ s.workMis c.strm, ∀ l ∈ m.2, l.1 ≠ s.own) →
      (∀ b ∈ (s.strm c.strm).disps, ¬mine b → ∀ l ∈ b.leaves, l.1 ≠ s.own) →
      ∃ t, exec (.sFence cx p fn a) s = .next t ∧
        Moves s { s with streams := t.streams, pools := t.pools, clusters := t.clusters, out := t.out } t cx (c.pc + 4) c ∧
        (s.OwnLeaves c.strm → t.out = s.out) ∧
        SameStrmsBut s t c.strm ∧ t.strm c.strm = { s.strm c.strm with epochs := [] } ∧
        ∀ q : Byte, t.pool q.toNat =
          if q ∈ (s.strm c.strm).epochs then { s.pool q.toNat with epoch := (s.pool q.toNat).pend } else s.pool q.toNat) ∧
  (∀ (s : State) (cx : CtxId), (s.ctx cx).dev.toNat = s.own →
    (∀ p a fn, s.Runs cx p → fn = .device ∨ fn = .system →
      ∀ m ∈ s.workMis (s.ctx cx).strm, (∃ l ∈ m.2, l.1 = s.own) →
      ((s.ctx cx).pausing = false →
        ∃ ts bs, WaitsFor (exec (.sFence cx p fn a) s) s cx (.fence fn ts bs) ∧ m.1 ∈ ts) ∧
      ((s.ctx cx).pausing = true → Halts (exec (.sFence cx p fn a) s) s cx (s.ctx cx))) ∧
    ∀ fn ts bs, (s.ctx cx).wait = .fence fn ts bs → s.up = true →
      (s.fenceMet cx fn ts bs = false → exec (.seqFenceComplete cx) s = .next s) ∧
      (s.fenceMet cx fn ts bs = true → (s.ctx cx).stopping = false → s.MoreAfter cx 4 →
        ∃ t, exec (.seqFenceComplete cx) s = .next t ∧
          Moves s { s with streams := t.streams, pools := t.pools, clusters := t.clusters, out := t.out } t cx ((s.ctx cx).pc + 4)
            { s.ctx cx with granted := none } ∧
          ((fn = .localScope ∨ fn = .unit) → t = { s with ctxs := t.ctxs }))) ∧
  ∀ (s : State) (cx : CtxId) (p : Pred) (a : Reg) (fn : FenceFn), (s.ctx cx).dev.toNat ≠ s.own →
    (s.Runs cx p → AsksFor (exec (.sMwait cx p a) s) s cx .work (.mwait ((s.ctx cx).s a))) ∧
    (s.Runs cx p → fn = .device ∨ fn = .system → AsksFor (exec (.sFence cx p fn a) s) s cx (.scope fn) (.fence fn (s.ctx cx).mine [])) ∧
    ∀ g, s.Answered cx g → ∃ t, exec (.sMwait cx p a) s = .next t ∧ StepsOn s t cx 4 { s.ctx cx with granted := none }

/-- s.mi of a descriptor that the loader accepts publishes the macro-instruction, unclaimed, and gives its ticket, the next
of its stream, in s[d]; at 16 outstanding, and without a free counter slot, it waits; one issued to an empty group completes
without work (R22, R126, R134, R144, R153). s.disp gives the next dispatch ticket in s[d]; the block context of each leaf core
takes the block: one that idles starts it, with s1 to s4 of the issuer and the core's rank in s5, one that runs a block queues it
(R103, R105, R126). A context that pauses stops before an s.mi (R119; log 42, DEDUCED). A context of another device's stream asks
that device for its ticket or block, and s[d] takes the answer (log 28, DESIGN CHOICE). -/
def Obligations.PublishAndDispatch : Prop :=
  (∀ (s : State) (cx : CtxId) (p : Pred) (d a b : Reg), s.Runs cx p → (s.ctx cx).pausing = true →
    Halts (exec (.sMi cx p d a b) s) s cx (s.ctx cx)) ∧
  (∀ (s : State) (cx : CtxId) (p : Pred) (d a b : Reg), s.Runs cx p → (s.ctx cx).pausing = false →
    let c := s.ctx cx
    let h := s.unitOf cx a
    let ls := s.leavesOf h
    let loc := (c.s b).toNat % 2 ^ 48
    let desc : Desc := BitVec.ofNat 256 (s.num loc 32)
    s.handleErr h = 0 → s.OwnReady ls →
    (c.dev.toNat = s.own → 16 ≤ s.outstanding c.strm → WaitsFor (exec (.sMi cx p d a b) s) s cx (.bound 0)) ∧
    (c.dev.toNat = s.own → s.outstanding c.strm < 16 → ls ≠ [] → (s.freeSlot (s.lastOf ls)).isSome = false →
      WaitsFor (exec (.sMi cx p d a b) s) s cx (.bound (if (s.lastOf ls).isSome then 1 else 2))) ∧
    ((s.localOf (c.s b)).isSome = true → s.loaderErr (ctxCore cx) loc ls = none → (ls ≠ [] → (s.freeSlot (s.lastOf ls)).isSome = true) →
      (c.dev.toNat ≠ s.own → AsksFor (exec (.sMi cx p d a b) s) s cx .ticket (.mi ls)) ∧
      (c.dev.toNat = s.own → s.outstanding c.strm < 16 →
        (ls = [] → ScalarResIn (exec (.sMi cx p d a b) s) s
          (fun _ => s.modStrm c.strm fun x => { x with nextMi := x.nextMi + 1 }) cx d (s.strm c.strm).nextMi) ∧
        (ls ≠ [] → ∀ sh, s.shape (ctxCore cx) desc (s.readRecs desc) ls = some sh →
          ScalarResIn (exec (.sMi cx p d a b) s) s
            (fun t => { s.modStrm c.strm fun x => { x with nextMi := x.nextMi + 1 } with mis := t.mis, pools := t.pools }) cx d
            (s.strm c.strm).nextMi ∧
          ∃ t m, exec (.sMi cx p d a b) s = .next t ∧ t.mis = s.mis ++ [m] ∧ m.strm = c.strm ∧ m.home = c.dev ∧
            m.ticket = (s.strm c.strm).nextMi ∧ m.desc = desc ∧ m.recs = s.readRecs desc ∧ m.leaves = ls ∧ m.handle = h ∧
            m.prio = (s.strm c.strm).prio ∧ m.total = sh.out * sh.parts * sh.team ∧ m.claimed = 0 ∧ m.retired = 0 ∧
            (∀ q : Nat, t.pool q = if hasRole m.recs rolePool = true ∧ q = poolIdx m.recs
              then { s.pool q with users := (s.pool q).users + 1 } else s.pool q))))) ∧
  (∀ (s : State) (cx : CtxId) (p : Pred) (d a b : Reg), s.Runs cx p →
    let c := s.ctx cx
    let h := s.unitOf cx a
    let ls := s.leavesOf h
    let adr : W64 := BitVec.ofNat 64 ((c.s b).toNat % 2 ^ 48)
    s.handleErr h = 0 → s.targetErr c (c.s b) = 0 → s.OwnReady ls →
    (c.dev.toNat ≠ s.own → AsksFor (exec (.sDisp cx p d a b) s) s cx .block (.disp h adr [c.s 1, c.s 2, c.s 3, c.s 4] ls)) ∧
    (c.dev.toNat = s.own → adr ≠ c.codeEnd → ls.Nodup → ls ≠ [] → (∀ l ∈ ls, l ∈ (s.strm c.strm).leaves) →
    ∃ t, exec (.sDisp cx p d a b) s = .next t ∧ t = { s with streams := t.streams, ctxs := t.ctxs, evt := Counted s t } ∧
      SameStrmsBut s t c.strm ∧
      t.strm c.strm = { s.strm c.strm with nextDisp := (s.strm c.strm).nextDisp + 1, disps := (s.strm c.strm).disps ++ [⟨(s.strm c.strm).nextDisp, h, ls⟩] } ∧
      (t.ctx cx).pc = c.pc + 4 ∧ (t.ctx cx).wait = .ready ∧
      (∀ r, (t.ctx cx).s r = if r = d ∧ d ≠ 0 then (s.strm c.strm).nextDisp else c.s r) ∧
      ∀ l ∈ ls, ∀ k, s.farCtx c.dev c.strm l.2 = some k → k ≠ cx →
        ((s.ctx k).wait ≠ .idle → t.ctx k = { s.ctx k with codeBase := c.codeBase, codeLen := c.codeLen, blocks := (s.ctx k).blocks ++ [⟨(s.strm c.strm).nextDisp, adr, [c.s 1, c.s 2, c.s 3, c.s 4], rankOf ls l⟩] }) ∧
        ((s.ctx k).wait = .idle → (s.ctx k).blocks = [] →
          (t.ctx k).wait = .ready ∧ (t.ctx k).pc = adr ∧ (t.ctx k).blocks.map Block.ticket = [(s.strm c.strm).nextDisp] ∧
          (t.ctx k).pred = (s.ctx k).pred ∧ (t.ctx k).vreg = (s.ctx k).vreg ∧
          ∀ r, (t.ctx k).s r = if r = 5 then BitVec.ofNat 64 (rankOf ls l)
            else if r = 1 ∨ r = 2 ∨ r = 3 ∨ r = 4 then c.s r else (s.ctx k).s r))) ∧
  ∀ (s : State) (cx : CtxId) (p : Pred) (d a b : Reg) (g : W64), s.Answered cx g →
    let c := s.ctx cx
    let ls := s.leavesOf (s.unitOf cx a)
    let loc := (c.s b).toNat % 2 ^ 48
    let desc : Desc := BitVec.ofNat 256 (s.num loc 32)
    let res (i : Instr) (m : State → State) : Prop := ∃ t, exec i s = .next t ∧
      Moves s (m t) t cx (c.pc + 4) { c with sreg := (t.ctx cx).sreg, granted := none } ∧
      ∀ r, (t.ctx cx).s r = if r = d ∧ d ≠ 0 then g else c.s r
    res (.sDisp cx p d a b) (fun _ => s) ∧
    (c.pausing = false → s.handleErr (s.unitOf cx a) = 0 → s.OwnReady ls → ls ≠ [] → (s.freeSlot (s.lastOf ls)).isSome = true →
      (s.localOf (c.s b)).isSome = true → s.loaderErr (ctxCore cx) loc ls = none →
      ∀ sh, s.shape (ctxCore cx) desc (s.readRecs desc) ls = some sh →
        res (.sMi cx p d a b) (fun t => { s with mis := t.mis, pools := t.pools }) ∧
        ∃ t m, exec (.sMi cx p d a b) s = .next t ∧ t.mis = s.mis ++ [m] ∧ m.strm = c.strm ∧ m.home = c.dev ∧ m.ticket = g ∧
          m.desc = desc ∧ m.leaves = ls ∧ m.total = sh.out * sh.parts * sh.team ∧ m.claimed = 0)

/-! ### The vector engine (R127, R128, R186-R199, R224, R489) -/

/-- In int32 form v.add, v.sub, v.mul and v.fma wrap, v.min, v.max and v.cmp compare signed, v.un negates, takes absolute
values or copies: every active lane takes that result, all else keeps (R127, R189). v.log, v.sh, v.bcast, v.iota, v.perm and
v.sel move and combine the bits their rows say; v.ext writes s[vd] (R127, R186, R189). -/
def Obligations.VectorBits : Prop :=
  (∀ (s : State) (cx : CtxId) (p : Pred) (v : VOp), v.fmt = 0x0F →
    let a := (s.ctx cx).lane v.va
    let b := (s.ctx cx).lane v.vb
    (s.RunsVec cx p 0 v → LanesRes (exec (.vAdd cx p v) s) s cx v fun l => a l + b l) ∧
    (s.RunsVec cx p 1 v → LanesRes (exec (.vSub cx p v) s) s cx v fun l => a l - b l) ∧
    (s.RunsVec cx p 2 v → LanesRes (exec (.vMul cx p v) s) s cx v fun l => a l * b l) ∧
    (s.RunsVec cx p 3 v → LanesRes (exec (.vFma cx p v) s) s cx v fun l => a l * b l + (s.ctx cx).lane v.vc l) ∧
    (s.RunsVec cx p 4 v → ∃ f, LanesRes (exec (.vMin cx p v) s) s cx v f ∧ ∀ l, (f l).toInt = min (a l).toInt (b l).toInt) ∧
    (s.RunsVec cx p 5 v → ∃ f, LanesRes (exec (.vMax cx p v) s) s cx v f ∧ ∀ l, (f l).toInt = max (a l).toInt (b l).toInt) ∧
    (s.RunsVec cx p 6 v → LanesRes (exec (.vUn cx p v) s) s cx v fun l =>
      if v.fn = 0 ∨ v.fn = 1 ∧ (a l).toInt < 0 then -a l else a l) ∧
    (s.RunsVec cx p 7 v → ∃ f, LanesRes (exec (.vCmp cx p v) s) s cx v f ∧
      ∀ l, f l = if (v.fn = 0 ∧ a l = b l) ∨ (v.fn = 1 ∧ a l ≠ b l) ∨ (v.fn = 2 ∧ (a l).toInt < (b l).toInt) ∨
        (v.fn = 3 ∧ (a l).toInt ≤ (b l).toInt) then 0xFFFFFFFF else 0)) ∧
  ∀ (s : State) (cx : CtxId) (p : Pred) (v : VOp),
    let c := s.ctx cx
    let a := c.lane v.va
    let b := c.lane v.vb
    (s.RunsVec cx p 9 v → LanesRes (exec (.vLog cx p v) s) s cx v fun l =>
      if v.fn = 0 then a l &&& b l else if v.fn = 1 then a l ||| b l else if v.fn = 2 then a l ^^^ b l else a l &&& ~~~(b l)) ∧
    (s.RunsVec cx p 10 v → ∃ (f : Nat → W32) (n : Nat → Nat), LanesRes (exec (.vSh cx p v) s) s cx v f ∧
      (∀ l, n l = if v.fn.toNat < 8 then (b l).toNat % 32 else v.imm.toNat % 32) ∧
      ∀ l, (v.fn.toNat % 8 = 0 → (f l).toNat = (a l).toNat * 2 ^ n l % 2 ^ 32) ∧
        (v.fn.toNat % 8 = 1 → (f l).toNat = (a l).toNat / 2 ^ n l) ∧
        (v.fn.toNat % 8 = 2 → (f l).toInt = (a l).toInt / 2 ^ n l)) ∧
    (s.RunsVec cx p 14 v → LanesRes (exec (.vBcast cx p v) s) s cx v fun _ => (c.s v.va).setWidth 32) ∧
    (s.RunsVec cx p 20 v → LanesRes (exec (.vIota cx p v) s) s cx v fun l => (c.s v.va).setWidth 32 + BitVec.ofNat 32 l) ∧
    (s.RunsVec cx p 23 v → LanesRes (exec (.vPerm cx p v) s) s cx v fun l => a ((b l).toNat % 64)) ∧
    (s.RunsVec cx p 8 v → ∃ f, LanesRes (exec (.vSel cx p v) s) s cx v f ∧
      EachElem c v [v.vc, v.va, v.vb] f fun _ _ xs => if xs.getD 0 0 ≠ 0 then xs.getD 1 0 else xs.getD 2 0) ∧
    (s.RunsVec cx p 15 v → ∃ t, exec (.vExt cx p v) s = .next t ∧
      Moves s s t cx (c.pc + 8) { c with sreg := (t.ctx cx).sreg, vsr := c.vsr + b2n (decide (v.rnd = 2)) } ∧
      ∀ r, (t.ctx cx).s r = if r = v.vd ∧ v.vd ≠ 0 then (a (v.imm.toNat % 64)).setWidth 64 else c.s r)

/-- In the floating-point formats v.add, v.sub, v.mul, v.fma, v.min, v.max and floor, ceil and trunc of v.un round their
exact result once per element, under rnd, with fp32 flushed; v.cmp writes all ones or zero per element (R127, R186, R188,
R190). The sign operations of v.un act on the bits, but for a NaN, which becomes the canonical one; v.cvt converts element for
element, with half h of R489 where one side is packed, a NaN too becoming canonical; v.sfu rounds functions 0 to 3 correctly and
gives a neighbour of the exact value for the others (R127, R188, R189, R194, R489). Which neighbour is free (log 12, DESIGN
CHOICE). -/
def Obligations.VectorFloats : Prop :=
  (∀ (s : State) (cx : CtxId) (p : Pred) (v : VOp), v.fmt ≠ 0x0F →
    let c := s.ctx cx
    let once (g : List Machine.Num → Machine.Num) (l h : Nat) (xs : List Nat) : Nat := roundOnce v.fmt.toNat (c.vrnd v l h) g xs
    (s.RunsVec cx p 0 v → ∃ f, LanesRes (exec (.vAdd cx p v) s) s cx v f ∧
      EachElem c v [v.va, v.vb] f (once fun x => (arg0 x).add (arg1 x))) ∧
    (s.RunsVec cx p 1 v → ∃ f, LanesRes (exec (.vSub cx p v) s) s cx v f ∧
      EachElem c v [v.va, v.vb] f (once fun x => (arg0 x).add (arg1 x).opp)) ∧
    (s.RunsVec cx p 2 v → ∃ f, LanesRes (exec (.vMul cx p v) s) s cx v f ∧
      EachElem c v [v.va, v.vb] f (once fun x => (arg0 x).mul (arg1 x))) ∧
    (s.RunsVec cx p 3 v → ∃ f, LanesRes (exec (.vFma cx p v) s) s cx v f ∧
      EachElem c v [v.va, v.vb, v.vc] f (once fun x => ((arg0 x).mul (arg1 x)).add (arg2 x))) ∧
    (s.RunsVec cx p 4 v → ∃ f, LanesRes (exec (.vMin cx p v) s) s cx v f ∧
      EachElem c v [v.va, v.vb] f (once fun x => fpMinMax false (arg0 x) (arg1 x))) ∧
    (s.RunsVec cx p 5 v → ∃ f, LanesRes (exec (.vMax cx p v) s) s cx v f ∧
      EachElem c v [v.va, v.vb] f (once fun x => fpMinMax true (arg0 x) (arg1 x))) ∧
    (s.RunsVec cx p 6 v → 3 ≤ v.fn.toNat → ∃ f, LanesRes (exec (.vUn cx p v) s) s cx v f ∧
      EachElem c v [v.va] f (once fun x => roundToInt v.fn.toNat (arg0 x))) ∧
    (s.RunsVec cx p 7 v → ∃ f, LanesRes (exec (.vCmp cx p v) s) s cx v f ∧
      EachElem c v [v.va, v.vb] f fun _ _ xs =>
        if fpCond v.fn.toNat (decodeElem v.fmt.toNat (flushFor v.fmt.toNat (xs.getD 0 0)).1)
          (decodeElem v.fmt.toNat (flushFor v.fmt.toNat (xs.getD 1 0)).1) then 2 ^ 32 - 1 else 0)) ∧
  ∀ (s : State) (cx : CtxId) (p : Pred) (v : VOp),
    let c := s.ctx cx
    let a := c.lane v.va
    let src := v.vc.toNat
    let dst := v.fmt.toNat
    let conv (hs hd l : Nat) : Nat :=
      if src = dst then canonNan dst (getHalf src (a l) hs) else (convElem src dst (c.vrnd v l hd) (getHalf src (a l) hs)).code
    (s.RunsVec cx p 6 v → v.fmt ≠ 0x0F → v.fn.toNat < 3 → ∃ f, LanesRes (exec (.vUn cx p v) s) s cx v f ∧
      EachElem c v [v.va] f fun _ _ xs =>
        let top := 2 ^ (32 / halves dst - 1)
        let x := xs.getD 0 0
        if decodeElem dst x = .nan then canonNan dst x
        else if v.fn = 0 then (x + top) % (2 * top) else if v.fn = 1 then x % top else x) ∧
    (s.RunsVec cx p 11 v → ∃ f, LanesRes (exec (.vCvt cx p v) s) s cx v f ∧ ∀ l h, l < 64 → h < halves dst →
      getHalf dst (f l) h % 2 ^ (32 / halves dst) =
        (if packed src = packed dst then conv h h l
         else if packed src then conv (v.imm.toNat % 2) 0 l
         else if h = v.imm.toNat % 2 then conv 0 h l else getHalf dst (c.lane v.vd l) h) % 2 ^ (32 / halves dst)) ∧
    (s.RunsVec cx p 12 v → ∃ f, LanesRes (exec (.vSfu cx p v) s) s cx v f ∧ ∀ F, ffmt dst = some F →
      ∀ l h, l < 64 → h < halves dst → ∀ r, r = realFn (sfuFn v.fn.toNat) (decodeElem dst (flushFor dst (getHalf dst (a l) h)).1) →
        (v.fn.toNat < 4 ∨ r.isFin = false →
          getHalf dst (f l) h = (flushFor dst (encodeElem dst .near false r)).1 % 2 ^ (32 / halves dst)) ∧
        (4 ≤ v.fn.toNat → r.isFin = true →
          getHalf dst (f l) h = (flushFor dst (neighbours F r).1).1 % 2 ^ (32 / halves dst) ∨
          getHalf dst (f l) h = (flushFor dst (neighbours F r).2.1).1 % 2 ^ (32 / halves dst)))

/-- v.red writes the reduction of the active lanes to lane 0 and 0 to every other lane; in int32 the sum wraps, and maximum
and minimum of no lane are the least and greatest word; v.rng draws its words (R128, R224). v.welford fn 0 adds an element to
each active lane's state; fn 1 leaves the merged state of the active lanes in lane 0 and empty states elsewhere; fn 2 gives
each active lane's mean and variance (R197-R199). -/
def Obligations.VectorReductions : Prop :=
  (∀ (s : State) (cx : CtxId) (p : Pred) (v : VOp),
    let c := s.ctx cx
    let ls := (List.range 64).filter fun l => c.active v l
    (s.RunsVec cx p 13 v → ∃ w : W32,
      VectorRes (exec (.vRed cx p v) s) s (fun _ => s) cx v
        (fun r l => if r = v.vd then (if l = 0 then w else 0) else c.lane r l) ∧
      (v.fmt = 0x0F → v.fn = 0 → w.toNat = (ls.map fun l => (c.lane v.va l).toNat).sum % 2 ^ 32) ∧
      (v.fmt = 0x0F → v.fn = 1 → w.toInt = (ls.map fun l => (c.lane v.va l).toInt).foldl max (-2 ^ 31)) ∧
      (v.fmt = 0x0F → v.fn = 2 → w.toInt = (ls.map fun l => (c.lane v.va l).toInt).foldl min (2 ^ 31 - 1)) ∧
      (v.fmt ≠ 0x0F → ∀ h, h < halves v.fmt.toNat →
        getHalf v.fmt.toNat w h =
        (pairTree (redPair v.fmt.toNat v.fn.toNat (if v.rnd = 1 then .zero else .near)) (c.redLeaf v h) 6 0).code.getD
          (redEmpty v.fmt.toNat v.fn.toNat) % 2 ^ (32 / halves v.fmt.toNat))) ∧
    (s.RunsVec cx p 21 v → ∃ f, LanesRes (exec (.vRng cx p v) s) s cx v f ∧ ∀ l,
      let q := rngWords c.seed (rngCounter ((c.lane v.va l).toNat + (c.lane v.vb l).toNat % 2 ^ 16 * 2 ^ 32) c.cstream
        (c.lane v.vc l).toNat 1)
      (v.fn.toNat < 4 → f l = q.word v.fn.toNat) ∧
      (8 ≤ v.fn.toNat → f l = if (q.word v.fn.toNat).toNat < (c.lane v.vd l).toNat then 0xFFFFFFFF else 0) ∧
      (4 ≤ v.fn.toNat → v.fn.toNat < 8 →
        (decodeElem 1 (f l).toNat).eqv (.num false (2 * ((q.word v.fn.toNat).toNat / 2 ^ 9) + 1) 1 (-24)) = true))) ∧
  ∀ (s : State) (cx : CtxId) (p : Pred) (v : VOp), s.RunsVec cx p 22 v →
    let c := s.ctx cx
    let st := fun (r : Reg) l => c.wfAt r l
    (v.fn = 0 → VectorRes (exec (.vWelford cx p v) s) s (fun _ => s) cx v fun r l =>
      let n := wfStep (st v.vd l) (c.lane v.va l).toNat (c.lane v.vb l).toNat
      if c.active v l = false then c.lane r l
      else if r = v.vd then BitVec.ofInt 32 n.n else if r = v.vd + 1 then BitVec.ofNat 32 n.mean
      else if r = v.vd + 2 then BitVec.ofNat 32 n.m2 else c.lane r l) ∧
    (v.fn = 1 → VectorRes (exec (.vWelford cx p v) s) s (fun _ => s) cx v fun r l =>
      let n := pairTree wfMerge (fun l => if c.active v l then st v.va l else ⟨0, 0, 0, l, [], 0⟩) 6 0
      if r = v.vd then (if l = 0 then BitVec.ofInt 32 n.n else 0)
      else if r = v.vd + 1 then (if l = 0 then BitVec.ofNat 32 n.mean else 0)
      else if r = v.vd + 2 then (if l = 0 then BitVec.ofNat 32 n.m2 else 0) else c.lane r l) ∧
    (v.fn = 2 → VectorRes (exec (.vWelford cx p v) s) s (fun _ => s) cx v fun r l =>
      let count := (c.lane v.va l).toInt
      if c.active v l = false then c.lane r l
      else if r = v.vd then (if count = 0 then 0 else
        BitVec.ofNat 32 (roundOnce 1 .near (fun x => (arg0 x).add (arg1 x)) [(c.lane v.vb l).toNat, (c.lane (v.va + 1) l).toNat]))
      else if r = v.vd + 1 then (if count = 0 then 0 else
        BitVec.ofNat 32 (roundOnce 1 .near (fun x => (arg0 x).div (arg1 x)) [(c.lane (v.va + 2) l).toNat, countF count]))
      else c.lane r l)

/-- v.ld and v.gather load and convert an element into each active lane from the core's own local store; nothing else changes
(R127, R128, R189). v.st and v.scatter convert and store an element for each active lane in the core's own local store; of
lanes that v.scatter sends to one address the highest wins; every other byte keeps and memory stays canonical (R127, R128,
R189, R192). A vector access whose base is not 64-byte aligned faults its stream with E_ALIGN, one outside the core's own
local store with E_BOUNDS, naming the address; a form that LOAD refuses is refused by name (R127, R128). -/
def Obligations.VectorMemory : Prop :=
  ((∀ (s : State) (cx : CtxId) (p : Pred) (v : VOp),
    let c := s.ctx cx
    let n := elemBytes v.fmt.toNat
    let dst := regFmt v.fn
    (s.RunsVec cx p 16 v → ∀ la, (c.s v.va + 64 * v.imm.signExtend 64).toNat % 64 = 0 →
      s.ownStore cx (c.s v.va + 64 * v.imm.signExtend 64) (64 * halves dst * n) = some la →
      ∃ f, LanesRes (exec (.vLd cx p v) s) s cx v f ∧ ∀ l h, l < 64 → h < halves dst →
        getHalf dst (f l) h =
          (convElem v.fmt.toNat dst (c.vrnd v l h) (s.num (la + n * (halves dst * l + h)) n)).code % 2 ^ (32 / halves dst)) ∧
    (s.RunsVec cx p 18 v → (c.s v.va).toNat % 64 = 0 →
      (∀ l, l < 64 → c.active v l = true → (s.ownStore cx (c.elemAddr v l) n).isSome = true) →
      LanesRes (exec (.vGather cx p v) s) s cx v fun l =>
        BitVec.ofNat 32 (convElem v.fmt.toNat dst (c.vrnd v l 0) (s.num ((c.elemAddr v l).toNat % 2 ^ 48) n)).code)) ∧
  ∀ (s : State) (cx : CtxId) (p : Pred) (v : VOp), s.memOk →
    let c := s.ctx cx
    let n := elemBytes v.fmt.toNat
    let src := regFmt v.fn
    let regs (t : State) : Prop := VectorRes (.next t) s (fun t => { s with mem := t.mem }) cx v c.lane
    (s.RunsVec cx p 17 v → ∀ la, (c.s v.va + 64 * v.imm.signExtend 64).toNat % 64 = 0 →
      s.ownStore cx (c.s v.va + 64 * v.imm.signExtend 64) (64 * halves src * n) = some la →
      ∃ t, exec (.vSt cx p v) s = .next t ∧ regs t ∧ t.memOk ∧
        (∀ l h k, l < 64 → h < halves src → k < n → c.active v l = true →
          (t.byte (la + n * (halves src * l + h) + k)).toNat =
            (convElem src v.fmt.toNat (c.vrnd v l h) (getHalf src (c.lane v.vd l) h)).code / 256 ^ k % 256) ∧
        ∀ x, (∀ l h, l < 64 → h < halves src → c.active v l = true →
          x < la + n * (halves src * l + h) ∨ la + n * (halves src * l + h) + n ≤ x) → t.byte x = s.byte x) ∧
    (s.RunsVec cx p 19 v → (c.s v.va).toNat % 64 = 0 →
      (∀ l, l < 64 → c.active v l = true → (s.ownStore cx (c.elemAddr v l) n).isSome = true) →
      ∃ t, exec (.vScatter cx p v) s = .next t ∧ regs t ∧ t.memOk ∧
        (∀ l k, l < 64 → k < n → c.active v l = true →
          (∀ l', l < l' → l' < 64 → c.active v l' = true → c.elemAddr v l' ≠ c.elemAddr v l) →
          (t.byte ((c.elemAddr v l).toNat % 2 ^ 48 + k)).toNat =
            (convElem src v.fmt.toNat (c.vrnd v l 0) (c.lane v.vc l).toNat).code / 256 ^ k % 256) ∧
        ∀ x, (∀ l, l < 64 → c.active v l = true →
          x < (c.elemAddr v l).toNat % 2 ^ 48 ∨ (c.elemAddr v l).toNat % 2 ^ 48 + n ≤ x) → t.byte x = s.byte x)) ∧
  ∀ (s : State) (cx : CtxId) (p : Pred) (v : VOp), s.Issues cx 8 → (s.ctx cx).on p = true → s.Faultable cx →
    let c := s.ctx cx
    let x := c.s v.va + 64 * v.imm.signExtend 64
    let n := elemBytes v.fmt.toNat
    (vOk 16 v = true → x.toNat % 64 ≠ 0 → Faults (exec (.vLd cx p v) s) s cx eAlign (nameW 8 x.toNat)) ∧
    (vOk 17 v = true → x.toNat % 64 ≠ 0 → Faults (exec (.vSt cx p v) s) s cx eAlign (nameW 8 x.toNat)) ∧
    (vOk 16 v = true → x.toNat % 64 = 0 → s.ownStore cx x (64 * halves (regFmt v.fn) * n) = none →
      Faults (exec (.vLd cx p v) s) s cx eBounds (nameW 8 x.toNat)) ∧
    (vOk 17 v = true → x.toNat % 64 = 0 → s.ownStore cx x (64 * halves (regFmt v.fn) * n) = none →
      Faults (exec (.vSt cx p v) s) s cx eBounds (nameW 8 x.toNat)) ∧
    (∀ l, l < 64 → c.active v l = true → s.ownStore cx (c.elemAddr v l) n = none → (c.s v.va).toNat % 64 = 0 →
      (∀ l', l' < l → c.active v l' = true → (s.ownStore cx (c.elemAddr v l') n).isSome = true) →
      (vOk 18 v = true → Faults (exec (.vGather cx p v) s) s cx eBounds (nameW 8 (c.elemAddr v l).toNat)) ∧
      (vOk 19 v = true → Faults (exec (.vScatter cx p v) s) s cx eBounds (nameW 8 (c.elemAddr v l).toNat))) ∧
    ((c.s v.va).toNat % 64 ≠ 0 →
      (vOk 18 v = true → Faults (exec (.vGather cx p v) s) s cx eAlign (nameW 8 (c.s v.va).toNat)) ∧
      (vOk 19 v = true → Faults (exec (.vScatter cx p v) s) s cx eAlign (nameW 8 (c.s v.va).toNat))) ∧
    ∀ vop i, (vop, i) ∈ vecForms cx p v → vOk vop v = false → exec i s = .refused .undefinedEncoding


/-! ### Ring commands, drains and doorbells (R103-R122, R403-R407) -/

/-- A command whose entry sets a reserved bit, or whose code is undefined, is refused with E_COMMAND in every state, naming the
bit; one that its state does not admit is refused with E_STATE and counted; both without any further effect. A ring with
nothing to take keeps, and a full completion ring makes the ingress wait, counted once. The entry of a refused SAVE carries the
length its image needs (R110-R113, R115, R404, R406). -/
def Obligations.CommandRefusals : Prop :=
  ∀ (s : State) (c : Instr) (i : StreamId) (e : BitVec 512) (code : Nat), ringCmd c = some (i, e, code) →
    let value : W64 := if code = 6 then BitVec.ofNat 64 (s.requiredLen i) else 0
    (s.ringIdle i = true → exec c s = .next s) ∧
    (s.ringIdle i = false → s.cplBlocked i = true →
      ∃ t, exec c s = .next t ∧ t = { s with sregs := t.sregs, evt := Counted s t } ∧
        t.sreg i = { s.sreg i with cplWaiting := true } ∧ ∀ j, j ≠ i → t.sreg j = s.sreg j) ∧
    (s.Fetches i → cmdUsed (e.toNat % 256) = none →
      exec c s = .next (Completed s i e (e.toNat % 256) ((s.taken i).refuse i eCommand (nameW 1 0)) eCommand 0)) ∧
    (s.Fetches i → e.toNat % 256 = code → ∀ used b, cmdUsed code = some used → reservedBit used e = some b →
      exec c s = .next (Completed s i e code ((s.taken i).refuse i eCommand (nameW 1 b)) eCommand value)) ∧
    (s.Fetches i → EntryFor e code → ¬Admits code (s.strm i).state →
      ∃ m, exec c s = .next (Completed s i e code m eState value) ∧
        m = { s.taken i with streams := m.streams, evt := Counted s m } ∧ SameStrmsBut s m i ∧
        m.strm i = { s.strm i with estate := satInc (s.strm i).estate, lastErr := eState, errArg := 0 })

/-- BIND of a unit of this device: the stream becomes BOUND with its operands, a block context on every leaf core and the
lead context are reserved on free slots, a group's bound_streams rises, and a drawn seed leaves its pool and is reported
(R101, R103, R116, R227, R491). LOAD of a program that passes the checks of R117 leaves the stream LOADED with it and shows
it to the stream's contexts, which hold no block any more; the first check that fails refuses it and leaves the program (R112,
R117). -/
def Obligations.BindAndLoad : Prop :=
  (∀ (s : State) (i : StreamId) (e : BitVec 512) (far : Option W32), s.Fetches i → EntryFor e 1 →
    (s.strm i).state = .empty →
    let h : W32 := BitVec.ofNat 32 (field e 64 32)
    let ls := s.leavesOf h
    let lead := field e 96 10
    s.busy .gdef = false → s.OwnReady ls → ls.Nodup → s.bindErr e far = none →
    ∃ m seed, exec (.bind i e far) s = .next (Completed s i e 1 m 0 (if field e 108 1 = 1 then seed else 0)) ∧
      m = { s.taken i with streams := m.streams, ctxs := m.ctxs, groups := m.groups, clusters := m.clusters, fab := m.fab, out := m.out, evt := Counted s m } ∧
      SameStrmsBut s m i ∧
      m.strm i = { s.strm i with state := .bound, handle := h, lead := BitVec.ofNat 9 lead, leaves := ls, prio := BitVec.ofNat 2 (field e 106 2), seed := seed, cstream := i, spillAddr := BitVec.ofNat 48 (field e 192 48), spillLen := BitVec.ofNat 64 (field e 256 64), codeAddr := 0, codeLen := 0, entry := 0, nextMi := 0, nextDisp := 0, disps := [], epochs := [], dirty := false, drainPaused := false, prompt := false, energy := 0, told := (m.strm i).told, farMis := [], asks := [], farRecs := [], farPend := [], farEntries := [] } ∧
      (field e 108 1 = 0 → seed = BitVec.ofNat 64 (field e 128 64) ∧ m.clusters = s.clusters) ∧
      (field e 108 1 = 1 → ∃ c rest, (s.cluster c).pool = seed :: rest ∧
        m.clusters = (s.modCluster c fun x => { x with pool := rest }).clusters) ∧
      (∀ j, (m.group j).bound = if hKind h = 1 ∧ j = hIndex h then (s.group j).bound + 1 else (s.group j).bound) ∧
      (∀ k, (s.ctx k).used = true → m.ctx k = s.ctx k) ∧
      (∀ r l, ls[r]? = some l → ∃ k, ctxCore k = l.2 ∧ (s.ctx k).used = false ∧
        m.ctx k = { Ctx.free with used := true, dev := BitVec.ofNat 16 s.own, strm := i, seed := seed, cstream := i, leafCount := ls.length, rank := r, job := BitVec.ofNat 16 (s.jobOf i) }) ∧
      ∃ k, ctxCore k = lead ∧ (s.ctx k).used = false ∧
        m.ctx k = { Ctx.free with used := true, dev := BitVec.ofNat 16 s.own, strm := i, lead := true, seed := seed, cstream := i, leafCount := ls.length, rank := rankOf ls (s.own, lead), wait := .stopped, job := BitVec.ofNat 16 (s.jobOf i) }) ∧
  ∀ (s : State) (i : StreamId) (e : BitVec 512), s.Fetches i → EntryFor e 2 → Admits 2 (s.strm i).state →
    let a := field e 64 48
    let n := field e 128 64
    let ent := field e 192 64
    (s.loadErr e = none → ∃ m, exec (.load i e) s = .next (Completed s i e 2 m 0 0) ∧
      m = { s.taken i with streams := m.streams, ctxs := m.ctxs, out := m.out } ∧ SameStrmsBut s m i ∧ (s.OwnLeaves i → m.out = s.out) ∧
      m.strm i = { s.strm i with state := .loaded, codeAddr := BitVec.ofNat 48 a, codeLen := BitVec.ofNat 64 n, entry := BitVec.ofNat 64 ent, disps := [], asks := [] } ∧
      (∀ k c, (k, c) ∈ s.ownCtxs i → ∃ c', (k, c') ∈ s.ownCtxs i ∧
        m.ctx k = { c' with codeBase := BitVec.ofNat 64 a, codeLen := BitVec.ofNat 64 n, blocks := [], wait := if c'.lead then .stopped else .idle, stopping := false, pausing := false, granted := none }) ∧
      ∀ k, (∀ c, (k, c) ∉ s.ownCtxs i) → m.ctx k = s.ctx k) ∧
    (∀ c w, s.loadErr e = some (c, w) → exec (.load i e) s = .next (Completed s i e 2 ((s.taken i).refuse i c w) c 0)) ∧
    (inStack a n = false → s.loadErr e = some (eBounds, nameW 1 128)) ∧
    (inStack a n = true → a % 128 ≠ 0 → s.loadErr e = some (eAlign, nameW 1 64)) ∧
    (inStack a n = true → a % 128 = 0 → n % 4 ≠ 0 → s.loadErr e = some (eAlign, nameW 1 128)) ∧
    (inStack a n = true → a % 128 = 0 → n % 4 = 0 → (0 < n ∧ (ent % 4 ≠ 0 ∨ n ≤ ent) ∨ n = 0 ∧ ent ≠ 0) →
      s.loadErr e = some (eBounds, nameW 1 192)) ∧
    ∀ ln, inStack a n = true → a % 128 = 0 → n % 4 = 0 → ent % 4 = 0 → ent < n → s.poisonIn a n = some ln →
      s.loadErr e = some (eStackUe, nameW 8 (s.own * 2 ^ 48 + 128 * ln))

/-- START leaves the stream RUNNING and its lead context at the entry point with the four arguments in s1 to s4 and every
other register zero (R104, R112). PAUSE leaves the stream DRAINING toward PAUSED, its macro-instructions claiming no tile; in mode 0
its lead context runs on to its next macro-instruction boundary (log 42, DEDUCED) and in mode 1 every context stops, one that waits
for an answer when it has come; a spill area too small for mode 1 is refused (R112, R119). RESUME after a pause in mode 0 leaves the
stream RUNNING, its stopped contexts ready where they stand, and its published macro-instructions claiming again (R112, R119). -/
def Obligations.StartPauseResume : Prop :=
  (∀ (s : State) (i : StreamId) (e : BitVec 512) (cx : CtxId) (c : Ctx), s.Fetches i → EntryFor e 3 →
    (s.strm i).state = .loaded → s.leadCtx i = some (cx, c) →
    let pc : W64 := BitVec.setWidth 64 (s.strm i).codeAddr + (s.strm i).entry
    c.stopping = false → pc ≠ c.codeEnd →
    ∃ m t, exec (.start i e) s = .next t ∧ t = { Completed s i e 3 m 0 0 with ctxs := t.ctxs } ∧
      m = { s.taken i with streams := m.streams, ctxs := m.ctxs } ∧ SameStrmsBut s m i ∧
      m.strm i = { s.strm i with state := .running, dirty := false } ∧ SameCtxsBut s t cx ∧
      (t.ctx cx).pc = pc ∧ (t.ctx cx).wait = .ready ∧ (t.ctx cx).lead = c.lead ∧ (t.ctx cx).blocks = c.blocks ∧
      (∀ r : Reg, (t.ctx cx).s r = if r = 1 ∨ r = 2 ∨ r = 3 ∨ r = 4 then BitVec.ofNat 64 (field e (64 * r.toNat) 64) else 0) ∧
      (∀ q, (t.ctx cx).p q = decide (q = 0)) ∧ ∀ r l, (t.ctx cx).lane r l = 0) ∧
  (∀ (s : State) (i : StreamId) (e : BitVec 512), s.Fetches i → EntryFor e 4 → (s.strm i).state = .running →
    let paused (prompt : Bool) (stop : Ctx → Ctx) : Prop :=
      ∃ m, exec (.pause i e) s = .next (Completed s i e 4 m 0 0) ∧
        m = { s.taken i with streams := m.streams, ctxs := m.ctxs, mis := m.mis, out := m.out } ∧ SameStrmsBut s m i ∧
        (s.OwnLeaves i → m.out = s.out) ∧
        m.strm i = { s.strm i with state := .draining, drainPaused := true, prompt := prompt, farPend := s.farDevs (s.strm i).leaves, farEntries := [], asks := if prompt then [] else (s.strm i).asks } ∧
        m.mis = s.mis.map (fun x => if s.ownMi i x then { x with stopped := true } else x) ∧
        (∀ k c, (k, c) ∈ s.ownCtxs i → (prompt = true ∨ c.lead = true) →
          ∃ c', (k, c') ∈ s.ownCtxs i ∧ (prompt = true ∨ c'.lead = true) ∧ m.ctx k = stop c') ∧
        ∀ k, (∀ c, (k, c) ∈ s.ownCtxs i → prompt = false ∧ c.lead = false) → m.ctx k = s.ctx k
    let halted (c : Ctx) : Ctx := { c with wait := .stopped, stopping := false, pausing := false, granted := none }
    (field e 64 1 = 0 → paused false fun c =>
      match c.wait with
      | .ready => { c with pausing := true }
      | .remote _ => { c with pausing := true }
      | _ => halted c) ∧
    (field e 64 1 = 1 → (s.strm i).leaves.length * 1376256 ≤ (s.strm i).spillLen.toNat → paused true fun c =>
      match c.wait with
      | .idle => c
      | .remote _ => { c with stopping := true }
      | .asked .block => { c with stopping := true }
      | _ => halted c) ∧
    (field e 64 1 = 1 → (s.strm i).spillLen.toNat < (s.strm i).leaves.length * 1376256 →
      exec (.pause i e) s = .next (Completed s i e 4 ((s.taken i).refuse i eBounds (nameW 1 256)) eBounds 0))) ∧
  ∀ (s : State) (i : StreamId) (e : BitVec 512), s.Fetches i → EntryFor e 5 → (s.strm i).state = .paused →
    (s.strm i).dirty = false → s.OwnLeaves i →
    (∀ x ∈ s.ownCtxs i, s.ctx x.1 = x.2 ∧ x.2.stopping = false ∧ x.2.pc ≠ x.2.codeEnd) →
    (∀ x ∈ s.mis, s.ownMi i x = true → x.team ≠ 0 ∧ (x.parts ≤ 1 ∨ x.mergeSlots ≠ [])) →
    ∃ t, exec (.resume i e) s = .next t ∧
      t = { Completed s i e 5 ((s.taken i).modStrm i fun x => { x with state := .running, dirty := false, farEntries := [] }) 0 0 with ctxs := t.ctxs, mis := t.mis } ∧
      t.mis = s.mis.map (fun x => if s.ownMi i x then { x with stopped := false } else x) ∧
      (∀ k c, (k, c) ∈ s.ownCtxs i → t.ctx k = if c.wait = .stopped then { c with wait := .ready } else c) ∧
      ∀ k, (∀ c, (k, c) ∉ s.ownCtxs i) → t.ctx k = s.ctx k

/-- SAVE with image_len 0 writes nothing and reports the length needed; one with room enough stores the image where it says,
on this device, and leaves every other byte, or sends it to another device and completes when its lines are answered; one without
is refused with E_BOUNDS, naming image_len; the stream stays PAUSED (R114, R115, R120, R477). RESTORE with image_len 0 has no
effect; of an image of this device that passes the checks it leaves the stream PAUSED on the image's program, seed, tickets and
schedule, its contexts with the recorded registers by rank; one that fails them leaves stream and image (R121, R479). A
context record holds the program counter, the draw count and every register: what is read back from the record of one context
into another is what the first held (R477, log 42, DESIGN CHOICE). -/
def Obligations.SaveRestore : Prop :=
  (∀ (s : State) (i : StreamId) (e : BitVec 512), s.Fetches i → EntryFor e 6 → (s.strm i).state = .paused →
    let a := field e 64 64
    let n := field e 128 64
    let need := s.requiredLen i
    (n = 0 → exec (.save i e) s = .next (Completed s i e 6 (s.taken i) 0 (BitVec.ofNat 64 need))) ∧
    (0 < n → n < need →
      exec (.save i e) s = .next (Completed s i e 6 ((s.taken i).refuse i eBounds (nameW 1 128)) eBounds (BitVec.ofNat 64 need))) ∧
    (need ≤ n → a / 2 ^ 48 = s.own → inMem (a % 2 ^ 48) need = true → (s.imageOf i).length = need → s.memOk →
      s.flt.lockstep = false →
      ∃ m, exec (.save i e) s = .next (Completed s i e 6 m 0 (BitVec.ofNat 64 need)) ∧
        m = { Stored (s.taken i) m with evt := Counted s m } ∧ m.memOk ∧ (s.Sound → m.flt = s.flt ∧ m.vaults = s.vaults) ∧
        SameBytesBut s m (a % 2 ^ 48) need ∧ ∀ k, k < need → m.byte (a % 2 ^ 48 + k) = (s.imageOf i).getD k 0) ∧
    (∀ c w, 0 < n → need ≤ n → s.imagePlaceErr a need = some (c, w) →
      exec (.save i e) s = .next (Completed s i e 6 ((s.taken i).refuse i c w) c (BitVec.ofNat 64 need))) ∧
    (need ≤ n → a / 2 ^ 48 ≠ s.own → s.imagePlaceErr a need = none →
      ∃ t, exec (.save i e) s = .next t ∧ t = { s with sregs := t.sregs, ports := t.ports, fab := t.fab, out := t.out, evt := Counted s t } ∧
        t.sreg i = { (s.taken i).sreg i with ringSave := some (BitVec.ofNat 32 (field e 32 32), (s.sreg i).cmdHead, BitVec.ofNat 64 need) } ∧
        ∀ j, j ≠ i → t.sreg j = s.sreg j)) ∧
  (∀ (s : State) (i : StreamId) (e : BitVec 512) (remote : List Byte), s.Fetches i → EntryFor e 7 →
    Admits 7 (s.strm i).state →
    let a := field e 64 64
    let n := field e 128 64
    let la := a % 2 ^ 48
    let total := s.num (la + 8) 8
    let b := s.bytes la total
    let w (k : Nat) : Nat := s.num (la + 128 + 8 * k) 8
    (n = 0 → exec (.restore i e remote) s = .next (Completed s i e 7 (s.taken i) 0 0)) ∧
    (0 < n → a / 2 ^ 48 = s.own → inMem la (max n 128) = true → (n < 128 ∨ n < total) →
      exec (.restore i e remote) s = .next (Completed s i e 7 ((s.taken i).refuse i eBounds (nameW 1 128)) eBounds 0)) ∧
    (0 < n → a / 2 ^ 48 = s.own → inMem la (max n 128) = true → 128 ≤ n → total ≤ n → s.poisonIn la (max 128 total) = none →
      (s.imageErr i b).1 ≠ 0 →
      exec (.restore i e remote) s =
        .next (Completed s i e 7 ((s.taken i).refuse i (s.imageErr i b).1 (s.imageErr i b).2) (s.imageErr i b).1 0)) ∧
    (0 < n → a / 2 ^ 48 = s.own → inMem la (max n 128) = true → 128 ≤ n → total ≤ n → s.poisonIn la (max 128 total) = none →
      (s.imageErr i b).1 = 0 → s.flt.lockstep = false →
      ∃ m, exec (.restore i e remote) s = .next (Completed s i e 7 m 0 0) ∧
        m = { Stored s m with streams := m.streams, sregs := m.sregs, ctxs := m.ctxs, mis := m.mis, cores := m.cores, pools := m.pools, merge := m.merge, farBuf := m.farBuf, out := m.out, evt := Counted s m } ∧
        SameStrmsBut s m i ∧ (s.OwnLeaves i → m.out = s.out) ∧
        (s.num (la + 6) 1 ≠ 2 → m.mem = s.mem ∧ m.poison = s.poison ∧ m.flt = s.flt ∧ m.vaults = s.vaults) ∧
        m.strm i = { s.strm i with state := .paused, drainPaused := false, prompt := false, dirty := decide (s.num (la + 6) 1 = 2), seed := BitVec.ofNat 64 (s.num (la + 24) 8), cstream := BitVec.ofNat 6 (s.num (la + 32) 1), codeAddr := BitVec.ofNat 48 (w 0), codeLen := BitVec.ofNat 64 (w 1), entry := BitVec.ofNat 64 (w 2), nextMi := BitVec.ofNat 64 (w 3), nextDisp := BitVec.ofNat 64 (w 4), disps := (m.strm i).disps, farMis := [], asks := [], farPend := [], farEntries := [], farRecs := (m.strm i).farRecs } ∧
        (m.sreg i).schedProg = BitVec.ofNat 64 (w 5) ∧ (m.sreg i).schedParam = BitVec.ofNat 64 (w 6) ∧
        (m.sreg i).schedShape = BitVec.ofNat 64 (w 7) ∧ (m.sreg i).schedStep = BitVec.ofNat 48 (w 8) ∧
        ∀ k c, (k, c) ∈ s.ownCtxs i → ∃ c', (k, c') ∈ s.ownCtxs i ∧
          let rec_ := if c'.lead then (b.drop 384).take 8704
            else if c'.rank < s.num (la + 0x14) 4 then (b.drop (384 + 8704 * (c'.rank + 1))).take 8704 else Ctx.free.bytes
          (m.ctx k).pc = (Ctx.free.ofBytes rec_).pc ∧ (∀ r, (m.ctx k).s r = (Ctx.free.ofBytes rec_).s r) ∧
          ((m.ctx k).wait = .stopped ∨ (m.ctx k).wait = .idle))) ∧
  ∀ (c d : Ctx), c.vsr < 2 ^ 64 →
    c.bytes.length = 8704 ∧ (d.ofBytes c.bytes).pc = c.pc ∧ (d.ofBytes c.bytes).vsr = c.vsr ∧
    (∀ r, (d.ofBytes c.bytes).s r = c.s r) ∧ (∀ r, (d.ofBytes c.bytes).p r = c.p r) ∧
    ∀ r l, l < 64 → (d.ofBytes c.bytes).lane r l = c.lane r l

/-- KILL leaves the stream EMPTY from every state: its contexts free, its macro-instructions gone, its group released, its
schedule at reset, its last error kept; in EMPTY it has no effect (R112, R122, R312). FENCE on the ring completes without
further effect, except in DRAINING, where it holds its ring until FENCE_COMPLETE finds that the drain has ended (R112, R132).
DRAIN_END ends a drain that has nothing left to wait for: toward the end of the program in LOADED, toward a boundary pause in
PAUSED, each with an event entry; before that it does nothing (R108). It ends this device's part in the pause of another device's
stream too, and tells that device (log 42, DESIGN CHOICE). -/
def Obligations.KillAndFence : Prop :=
  (∀ (s : State) (i : StreamId) (e : BitVec 512), s.Fetches i → EntryFor e 8 →
    ((s.strm i).state = .empty → exec (.kill i e) s = .next (Completed s i e 8 (s.taken i) 0 0)) ∧
    ((s.strm i).state ≠ .empty → s.busy .gdef = false → ∃ m, exec (.kill i e) s = .next (Completed s i e 8 m 0 0) ∧
      m = { s with sregs := m.sregs, streams := m.streams, ctxs := m.ctxs, mis := m.mis, groups := m.groups, pools := m.pools, clusters := m.clusters, cores := m.cores, merge := m.merge, farBuf := m.farBuf, mem := m.mem, unspec := m.unspec, freeCtr := m.freeCtr, fab := m.fab, out := m.out, evt := Counted s m } ∧
      SameStrmsBut s m i ∧
      m.strm i = { Stream.empty with lastErr := (s.strm i).lastErr, estate := (s.strm i).estate, errArg := (s.strm i).errArg, energy := (s.strm i).energy, told := (s.strm i).told, thrNs := (s.strm i).thrNs, thrBy := (s.strm i).thrBy } ∧
      m.sreg i = { (s.taken i).sreg i with schedProg := 0x10, schedParam := 0, schedShape := 0x3F80000000000000, schedStep := 0, schedErr := 0 } ∧
      (∀ x ∈ m.mis, s.ownMi i x = false) ∧
      (∀ x ∈ m.ctxs, x.2.used = true → x.2.dev.toNat = s.own → x.2.strm ≠ i) ∧
      ∀ j, (m.group j).bound =
        if hKind (s.strm i).handle = 1 ∧ j = hIndex (s.strm i).handle then (s.group j).bound - 1 else (s.group j).bound)) ∧
  (∀ (s : State) (i : StreamId) (e : BitVec 512),
    (s.Fetches i → EntryFor e 9 → (s.strm i).state ≠ .draining →
      exec (.fence i e) s = .next (Completed s i e 9 (s.taken i) 0 0)) ∧
    (s.Fetches i → EntryFor e 9 → (s.strm i).state = .draining →
      exec (.fence i e) s = .next ((s.taken i).modSreg i fun r => { r with ringFence := some (BitVec.ofNat 32 (field e 32 32), (s.sreg i).cmdHead, .draining) })) ∧
    ((∃ q, (s.sreg i).ringFence = some q) → (s.strm i).state = .draining → exec (.fenceComplete i) s = .next s) ∧
    ∀ tag index found, (s.sreg i).ringFence = some (tag, index, found) → (s.strm i).state ≠ .draining →
      exec (.fenceComplete i) s = .next ((s.modSreg i fun r => { r with ringFence := none }).complete i found 9 0 tag index 0)) ∧
  (∀ (s : State) (i : StreamId), (∀ x ∈ s.fars, x.strm = i → x.pausing = none) →
    (((s.strm i).state ≠ .draining ∨ s.drained i = false) → exec (.drainEnd i) s = .next s) ∧
    ((s.strm i).state = .draining → (s.strm i).drainPaused = false → (∀ m ∈ s.mis, s.ownMi i m = false) →
      (s.strm i).farMis = [] → (s.strm i).disps = [] → exec (.drainEnd i) s = .next ((s.setStrm i
        { s.strm i with state := .loaded, dirty := false, drainPaused := false, prompt := false }).postEntry i
          (cplEntry true .draining .loaded 0 0 0 0 0 s.time))) ∧
    ((s.strm i).state = .draining → (s.strm i).drainPaused = true → s.drained i = true → s.flt.lockstep = false →
      ∃ m, exec (.drainEnd i) s = .next (m.postEntry i (cplEntry true .draining .paused 0 0 0 0 0 s.time)) ∧
        m = { Stored s m with streams := m.streams, mis := m.mis, merge := m.merge, cores := m.cores, farBuf := m.farBuf, evt := Counted s m } ∧
        SameStrmsBut s m i ∧
        m.strm i = { s.strm i with state := .paused, dirty := (s.strm i).prompt, drainPaused := false, prompt := false } ∧
        (∀ x ∈ m.mis, s.ownMi i x = true → x.stopped = true) ∧ m.mis.length = s.mis.length ∧
        ((s.strm i).prompt = false → m = { s with streams := m.streams, mis := m.mis }))) ∧
  ∀ (s : State) (i : StreamId) (x : FarStream) (p : Bool), (s.strm i).state ≠ .draining → x ∈ s.fars → x.strm = i →
    x.pausing = some p → s.quiet x.dev i p = true → (∀ y ∈ s.fars, y.strm = i → y = x) →
    ∃ t secs entries kept, exec (.drainEnd i) s = .next t ∧
      .notice x.dev.toNat (.paused i (BitVec.ofNat 16 s.own) secs entries kept) ∈ t.out.sent ∧
      (∀ y ∈ t.fars, y.strm = i → y.pausing = none) ∧ t.streams = s.streams ∧ t.mem = s.mem

/-- A command's completion entry reaches the host as bytes 8 to 31 and then bytes 0 to 7 at the ring's write index, with the
phase of this pass, which flips when the ring wraps; it raises the stream's cause where the ring asks for it. Shown on FENCE
(R405, R406). A command tail doorbell moves the tail of an enabled ring that it does not overfill; a completion head doorbell
moves the head up to what was written, and held entries follow; any other value is dropped and counted (R403, R406, R407;
which heads are admitted is the model's reading, log 29, DEDUCED). -/
def Obligations.Rings : Prop :=
  (∀ (s : State) (i : StreamId) (e : BitVec 512), s.Fetches i → EntryFor e 9 → (s.strm i).state ≠ .draining →
    s.hif.d3hot = false → (s.sreg i).cplRing.toNat / 16 % 2 = 1 →
    let r := s.sreg i
    let n := 2 ^ (r.cplRing.toNat % 16)
    let a : W64 := BitVec.ofNat 64 (r.cplRing.toNat / 4096 * 4096 + 32 * (r.cplWr.toNat % n))
    let st : Byte := BitVec.ofNat 8 (sCode (s.strm i).state)
    ∃ t, exec (.fence i e) s = .next t ∧
      t = { s with sregs := t.sregs, out := { s.out with hostWrites := s.out.hostWrites ++
          [(a + 8, leBytes 4 (field e 32 32) ++ leBytes 2 r.cmdHead.toNat ++ [0, 0] ++ leBytes 8 0 ++ leBytes 8 s.time.toNat),
           (a, [if r.cplPhase then 1 else 0, st, st, 9, 0, 0, 0, 0])], msix := t.out.msix }, hif := t.hif, evt := Counted s t } ∧
      t.sreg i = { r with cmdHead := r.cmdHead + 1, cplWaiting := false, cplWr := r.cplWr + 1, cplPhase := if (r.cplWr.toNat + 1) % n = 0 then !r.cplPhase else r.cplPhase } ∧
      (∀ j, j ≠ i → t.sreg j = s.sreg j) ∧
      (r.cplRing.toNat / 32 % 2 = 0 → t.hif = s.hif ∧ t.out.msix = s.out.msix) ∧
      (r.cplRing.toNat / 32 % 2 = 1 → bit t.hif.pend i.toNat = true ∧
        (bit s.hif.pend i.toNat = false → bit (s.irqEntry i.toNat) 11 = true → s.hif.msixEn = true → s.hif.msixMask = false →
          tget false s.hif.vecOpen ((s.irqEntry i.toNat).toNat % 2 ^ 11) = true → t.out.msix = s.out.msix ++ [BitVec.ofNat 11 ((s.irqEntry i.toNat).toNat % 2 ^ 11)]))) ∧
  ∀ (s : State) (i : StreamId) (v : W32), s.hostUp = true → s.boot.phase = .running →
    let r := s.sreg i
    let x : BitVec 16 := v.setWidth 16
    let good := r.cmdRing.toNat / 16 % 2 = 1 ∧ v.toNat < 2 ^ 16 ∧ (x - r.cmdHead).toNat ≤ 2 ^ (r.cmdRing.toNat % 16)
    let fine := r.cplRing.toNat / 16 % 2 = 1 ∧ v.toNat < 2 ^ 16 ∧ (x - r.cplHead).toNat ≤ (r.cplWr - r.cplHead).toNat
    (good → exec (.commandTailDoorbell i v) s = .next (s.setSreg i { r with cmdTail := x })) ∧
    (¬good → CountsOne (exec (.commandTailDoorbell i v) s) s evHifDbBad) ∧
    (fine → r.held = [] → exec (.completionHeadDoorbell i v) s = .next (s.setSreg i { r with cplHead := x })) ∧
    (fine → ∃ t, exec (.completionHeadDoorbell i v) s = .next t ∧ (t.sreg i).cplHead = x ∧
      (s.hif.d3hot = false → r.held.length + (r.cplWr - x).toNat ≤ 2 ^ (r.cplRing.toNat % 16) → (t.sreg i).held = []) ∧
      t = { s with sregs := t.sregs, out := t.out, hif := t.hif }) ∧
    (¬fine → CountsOne (exec (.completionHeadDoorbell i v) s) s evHifDbBad)


/-! ### Macro-instructions and tiles (R54-R58, R78-R88, R136, R142-R149, R170-R174) -/

/-- Accumulation is exact: the order of the products does not matter, partial accumulators merge to the accumulator of the
whole, the value is A × 2^base where no flag is set, and any flipped bit of A breaks its residue (R54, R56, R57, R58). The
residue follows every sum that stays inside 608 bits (R55, R58). -/
def Obligations.ExactAccumulation : Prop :=
  (∀ (base : Int) (p6 : Bool) (x : Acc) (l r : List (Machine.Num × Machine.Num)),
    let sum (x : Acc) (l : List (Machine.Num × Machine.Num)) : Acc := l.foldl (fun x e => x.addProd base p6 e.1 e.2) x
    (l.Perm r → sum x l = sum x r) ∧ sum Acc.zero (l ++ r) = (sum Acc.zero l).merge (sum Acc.zero r) ∧
    (x.nan = false → x.pinf = false → x.ninf = false → x.value base = .num (decide (x.a.toInt < 0)) x.a.toInt.natAbs 1 base) ∧
    (x.nan = true ∨ x.pinf = true ∧ x.ninf = true → x.value base = .nan) ∧
    ∀ b, b < 608 → x.ok = true → (x.flip b).ok = false) ∧
  ∀ (x y : Acc) (v : Int), x.ok = true → y.ok = true →
    (-2 ^ 607 ≤ x.a.toInt + v → x.a.toInt + v < 2 ^ 607 → (x.addInt v).ok = true ∧ (x.addInt v).a.toInt = x.a.toInt + v) ∧
    (-2 ^ 607 ≤ x.a.toInt + y.a.toInt → x.a.toInt + y.a.toInt < 2 ^ 607 →
      (x.merge y).ok = true ∧ (x.merge y).a.toInt = x.a.toInt + y.a.toInt)

/-- ORDER_WAIT_MET lets a macro-instruction claim once its order wait is met, the lines of other devices that its scans read are
here, and its scans pass, PRES_IN withholding tiles; before that nothing but the reading of those lines happens (R126, R136, R315,
R362). MI_RETIRE takes a macro-instruction off the device once every tile has retired: its histogram record is written, its counter
is free, and contexts that waited for its ticket go on; before that it stays (R72, R149). -/
def Obligations.MacroWaits : Prop :=
  (∀ (s : State) (i : StreamId) (k : W64) (m : MI), s.hereMi i k = some m →
    (s.orderMet m = false → exec (.orderWaitMet i k) s = .next s) ∧
    (m.waiting = true → m.faulted = false → m.team ≠ 0 → s.orderMet m = true →
      (∀ u, s.fetchScan m m.core.toNat = .wait u → exec (.orderWaitMet i k) s = .next u) ∧
      ∀ u, s.fetchScan m m.core.toNat = .ready u → u.spanPoison (scanSpans m) = none → u.scanErr m.desc m.recs = none →
      ∃ t m', exec (.orderWaitMet i k) s = .next t ∧ t = { u with mis := t.mis, evt := Counted u t } ∧
        t.mis = u.mis.map (fun x => if x.home = m.home ∧ x.strm = m.strm ∧ x.ticket = m.ticket then m' else x) ∧
        m'.waiting = false ∧ m'.scanned = true ∧ m'.claimed = m.claimed ∧ m'.total ≤ m.total ∧
        (hasRole m.recs rolePresIn = false → m' = { m with waiting := false, scanned := true }))) ∧
  ∀ (s : State) (i : StreamId) (k : W64) (m : MI), s.findMi s.own i k = some m → m.faulted = false → m.here = true →
    (m.retired < m.total → exec (.miRetire i k) s = .next s) ∧
    (m.waiting = false → m.scanned = true → m.total ≤ m.retired → m.out = [] → s.writesPending m = false →
      ∀ u, s.fetchHist m = .ready u →
      let ws := if m.lastOut then [] else u.lastWrites m
      (m.lastOut = true ∨ m.presOrs = []) → (∀ w ∈ ws, w.1 / 2 ^ 48 = u.own ∧ inMem (w.1 % 2 ^ 48) w.2.length = true) →
      u.spanPoison (if dHistAcc m.desc then ws.map fun w => (w.1, w.2.length) else []) = none →
      (∀ ln, u.badLine ln = u.poisoned ln) → u.memOk →
      (∀ x ∈ u.mis, x.unpublished = false ∧ x.slotless = false) → (u.strm i).asks = [] → u.ctxsOk →
      (∀ e ∈ u.ctxs, e.2.wait = .mwait k → e.2.stopping = false ∧ e.2.pc + 4 ≠ e.2.codeEnd) →
      ∃ t, exec (.miRetire i k) s = .next t ∧
        t = { Stored u t with ctxs := t.ctxs, mis := t.mis, cores := t.cores, pools := t.pools, merge := t.merge, farBuf := t.farBuf, evt := Counted u t } ∧
        t.mis = (u.mis.filter fun x => !(decide (x.home = m.home) && decide (x.strm = i) && decide (x.ticket = k))) ∧
        (∀ n, t.core n = { u.core n with tiles := (u.core n).tiles.filter fun y => !y.of m }) ∧
        (∀ w ∈ ws, ∀ j, j < w.2.length → t.byte (w.1 % 2 ^ 48 + j) = w.2.getD j 0) ∧
        (∀ a, (∀ w ∈ ws, a < w.1 % 2 ^ 48 ∨ w.1 % 2 ^ 48 + w.2.length ≤ a) → t.byte a = u.byte a) ∧
        ∀ cx, t.ctx cx = if (u.ctx cx).used = true ∧ (u.ctx cx).dev = m.home ∧ (u.ctx cx).strm = i ∧ (u.ctx cx).wait = .mwait k
          then { u.ctx cx with pc := (u.ctx cx).pc + 4, wait := .ready, granted := none } else u.ctx cx)

/-- TILE_CLAIM grants a core with room the next tile of the macro-instruction its Last offers it, one tile to each member of
its team; a core with four tiles waits, its wait counted once; a fenced core claims nothing (R146, R147, R153, R170, R455).
RANGE_CLAIM: the publishing device answers another device's claim with at most 16 tiles, in order, and none after a stop; a
device takes what it is granted while it holds fewer than four unstarted tiles of the counter, returns it while it leaves, and
holds work of a counter it has not seen before from then on (R144, R148). -/
def Obligations.Claims : Prop :=
  (∀ (s : State) (core : CoreId) (m : MI),
    let c := core.toNat
    (s.canClaim c = true →
      ((oldestEach [] (s.mis.filter fun x => s.offers x c)).filter fun x => s.offerOk x c && !s.yields x c) = [m] →
      s.findMi m.home.toNat m.strm m.ticket = some m → (isVq m.desc = true → c / 16 ∈ m.pins) → m.returned = [] → m.taken = [] →
      0 < m.team →
      ∃ t, exec (.tileClaim core) s = .next t ∧
        t = { s with cores := t.cores, mis := t.mis, clusters := t.clusters, devRound := t.devRound, evt := Counted s t } ∧
        (∀ n, ∃ r, t.cluster n = { s.cluster n with round := r }) ∧
        (∀ j, j < m.team → let n := c / m.team * m.team + j
          t.core n = { s.core n with tiles := (s.core n).tiles ++ [{ home := m.home, strm := m.strm, ticket := m.ticket, idx := m.next + j, started := false, loads := 0, decoded := [], katOwed := false, outs := [] }], claimWait := (s.core n).claimWait && decide (n ≠ c) }) ∧
        (∀ n, n / m.team ≠ c / m.team → t.core n = s.core n) ∧
        t.mis = s.mis.map (fun x => if x.home = m.home ∧ x.strm = m.strm ∧ x.ticket = m.ticket
          then { m with next := m.next + m.team, claimed := m.claimed + m.team, offered := (s.wasOffered m c).offered } else x)) ∧
    (s.coreFenced c = true → exec (.tileClaim core) s = .next s) ∧
    (4 ≤ (s.core c).tiles.length → CoreRes (exec (.tileClaim core) s) s c { s.core c with
      claimWait := (s.core c).claimWait || (s.up && !s.coreFenced c && s.mis.any fun m => m.ready && m.leaves.contains (s.own, c)) })) ∧
  ∀ (s : State) (d : BitVec 16) (i : StreamId) (k : W64),
    (∀ m, s.hereMi i k = some m → m.ready = true → m.atDevice = true → (∃ l ∈ m.leaves, l.1 = d.toNat) →
      m.returned = [] → m.taken = [] →
      ∃ t, exec (.rangeClaim (.serve d i k)) s = .next t ∧
        t = { s with mis := t.mis, out := { s.out with sent := t.out.sent }, evt := Counted s t } ∧
        let n := min 16 (m.total - m.next)
        t.out.sent = s.out.sent ++ [.range d.toNat i k ((List.range n).map fun j => m.numberOf (m.next + j))] ∧
        t.mis = s.mis.map (fun x => if x.home = m.home ∧ x.strm = i ∧ x.ticket = k
          then { m with next := m.next + n, claimed := m.claimed + n, out := m.out ++ (List.range n).map fun j => (d.toNat, m.next + j) } else x)) ∧
    (∀ m, s.hereMi i k = some m → m.stopped = true → exec (.rangeClaim (.serve d i k)) s = .next (s.send (.range d.toNat i k []))) ∧
    ∀ seed cs desc recs leaves tm tk parts team prio tiles, s.isLive d.toNat = true → d.toNat ≠ s.own → tiles.length ≤ 16 →
      tm ≠ 0 → parts ≠ 0 → team ≠ 0 →
      let i' := Instr.rangeClaim (.take d i k seed cs desc recs leaves tm tk parts team prio tiles)
      (s.fab.mstate = .leaving → exec i' s = .next (s.send (.notice d.toNat (.rangeReturn i k tiles)))) ∧
      (s.fab.mstate ≠ .leaving → ∀ m, s.findMi d.toNat i k = some m →
        exec i' s = .next (if s.unstartedOf m < 4 then s.modMi d.toNat i k fun x => { x with returned := x.returned ++ tiles } else s)) ∧
      (s.fab.mstate ≠ .leaving → s.findMi d.toNat i k = none →
        ∃ y, exec i' s = .next { s with mis := s.mis ++ [y] } ∧ y.home = d ∧ y.strm = i ∧ y.ticket = k ∧ y.here = false ∧
          y.seed = seed ∧ y.cstream = cs ∧ y.desc = desc ∧ y.recs = recs ∧ y.leaves = leaves ∧ y.tm = tm ∧ y.tk = tk ∧
          y.parts = parts ∧ y.team = team ∧ y.prio = prio ∧ y.returned = tiles ∧ y.next = y.total ∧ y.stopped = false)

/-- LOAD_FRONT streams the next load of the tile a core works on: its front F' is max(F + M, S' + 32), no earlier than the ramp
allows and later by the ic the arrays hold; its pieces become cur, from nxt where its lanes have laid them there; each accumulator
of the load's block takes the exact products of its row and column, a first load overwriting; the tile counts the load. The pieces
of the load after it may be laid into nxt meanwhile (R77-R80, R83-R88, R91, R95). It waits for what R254, R298, R172, R455 and a
forced known-answer load hold it for, and for lines of other devices; a fault of its reads faults the macro-instruction and the
tile is lost (R279, R291). -/
def Obligations.LoadFronts : Prop :=
  ∀ (s : State) (core : CoreId) (inp : FrontIn) (x : Tile) (m : MI),
    let c := core.toNat
    s.up = true → s.workTile c = some (x, m) → m.mayRun x = true → s.promptStop m.home m.strm = false →
    (∀ u, s.fetchScan m c = .wait u → exec (.loadFront core inp) s = .next u) ∧
    ∀ r, s.fetchScan m c = .ready r →
    (r.loadHeld c m x = true → exec (.loadFront core inp) s = .next r) ∧
    (r.loadHeld c m x = false → ∀ l, m.loadAt r x x.loads = some l →
      let fetched := r.fetchFor m c (.load x.idx x.loads) fun s => s.loadSpans m x x.loads
      (∀ v, fetched = .wait v → exec (.loadFront core inp) s = .next v) ∧ ∀ v, fetched = .ready v →
      (∀ e w, v.loadFault m x x.loads = some (e, w) → ∃ t, exec (.loadFront core inp) s = .next t ∧ t.mem = v.mem ∧
        (∀ z ∈ (t.core c).tiles, z.same x = false) ∧
        ∀ y ∈ t.mis, y.home = m.home → y.strm = m.strm → y.ticket = m.ticket → y.faulted = true ∧ y.stopped = true) ∧
      (v.loadFault m x x.loads = none →
        let u := (v.readyLoad c m x l).1
        let y := (v.readyLoad c m x l).2
        let k := u.core c
        let laid := k.arr.nxtV = true ∧ k.arr.nxtOf = some (x.loadId x.loads)
        let lane := if laid then k.arr.laneS else max k.arr.frontF ((k.arr.realF : Int) + inp.late).toNat
        let ramp := if k.rif.rampStep = 0 then 0 else
          k.arr.realF + k.arr.realM + bits (v.cluster (c / 16)).riffleCfg 16 16 + 450 * k.rif.rampStep.toNat
        let f := max (max (k.arr.frontF + k.arr.frontM) (lane + 32)) ramp + inp.hold + inp.walk + inp.welt
        ∃ t, exec (.loadFront core inp) s = .next t ∧ t = { v with cores := t.cores, evt := Counted v t, farBuf := t.farBuf } ∧
          (∀ n, n ≠ c → t.core n = v.core n) ∧
          (∃ y', y' = { y with started := true, loads := x.loads + 1, katOwed := x.katOwed ||
              (decide (x.loads + 1 = m.loadCount u y) && decide (k.rif.kat = .running)) } ∧
            (t.core c) = { k with
              arr := (t.core c).arr, acc := (t.core c).acc, passSeq := k.passSeq + 1, tiles := k.tiles.map fun z => if z.same x then y' else z
              rif := { k.rif with lfsr := (t.core c).rif.lfsr, density := (t.core c).rif.density, rampStep := 0, periods := k.rif.periods + (f - k.arr.frontF), kat := (k.rif.pass (f - k.arr.frontF)).kat, ics := (t.core c).rif.ics } }) ∧
          (t.core c).arr.frontF = f ∧ (t.core c).arr.realF = f ∧ (t.core c).arr.frontM = m.loadLen u y x.loads ∧
          (t.core c).arr.realM = m.loadLen u y x.loads ∧ (t.core c).arr.tag = .real ∧
          (∀ i col, i < 32 → col < m.loadCols u y l → tget Cell.zero (t.core c).arr.cur (i * 64 + col) =
            if laid then tget Cell.zero k.arr.nxt (i * 64 + col) else u.bCell c m y l i col) ∧
          ((l.blk + 1) * m.rpa x ≤ 64 → l.lo + l.n ≤ m.rpa x → m.loadCols u y l ≤ 64 →
            (∀ a e r col, a < 4 → e < l.n → m.rowIn x a (l.lo + e) = some r → col < m.loadCols u y l →
              tget Acc.zero (t.core c).acc (m.accAt x r l.blk col) =
                u.loadAcc m y l (t.core c).arr.cur a (l.lo + e) col (tget Acc.zero k.acc (m.accAt x r l.blk col))) ∧
            ∀ q, (∀ a e r col, a < 4 → e < l.n → m.rowIn x a (l.lo + e) = some r → col < m.loadCols u y l →
                q ≠ m.accAt x r l.blk col) →
              tget Acc.zero (t.core c).acc q = tget Acc.zero k.acc q) ∧
          (inp.ahead = none → (t.core c).arr.nxtV = false ∧ (t.core c).arr.laneS = lane) ∧
          ∀ d z n i w, inp.ahead = some d → dOp m.desc ≠ opMm2 → x.saved = none → v.nextLoad c m x x.loads = some (z, n, i) →
            n.loadAt v z i = some w → n.needBlock v z i = none → v.allHere n = true → k.mustKat = false →
            (k.rif.pass (f - k.arr.frontF)).kat ≠ .forced →
            (t.core c).arr.nxtV = true ∧ (t.core c).arr.nxtOf = some (z.loadId i) ∧
              (t.core c).arr.laneS = max f ((f : Int) + d).toNat ∧
              ∀ i col, i < 32 → col < n.loadCols v z w → tget Cell.zero (t.core c).arr.nxt (i * 64 + col) = v.bCell c n z w i col))

/-- READOUT of a row of a tile whose loads are done gives the row's outputs to the tile, to be written when it retires; an
accumulator whose residue disagrees, as after any flipped bit, writes none of them: the macro-instruction faults and the tile is lost
(R58, R88, R213). -/
def Obligations.Readouts : Prop :=
  ∀ (s : State) (core : CoreId) (a : BitVec 2) (row : BitVec 6) (up : Option Upset) (x : Tile) (m : MI),
    let c := core.toNat
    let r := a.toNat * m.rpa x + row.toNat
    s.up = true → s.workTile c = some (x, m) → row.toNat < m.rpa x → r < m.tileRows x → s.readable m x = true →
    (∀ o ∈ x.outs, o.row ≠ r) →
    let fetched := s.fetchFor m c (.row x.idx r) fun s => s.rowSpans m x r
    (∀ v, fetched = .wait v → exec (.readout core a row up) s = .next v) ∧ ∀ v, fetched = .ready v →
    let u := (v.readyRow c m x).1
    let y := (v.readyRow c m x).2
    u.rowErr m y r = none →
    ((∀ z ∈ u.readAccs c m y r up, z.ok = true) → ∀ out,
      (dOp m.desc ≠ opSample ∧ (∃ v, u.rowRes c m y r = some v ∧ out = u.rowOut m y r v) ∨
        dOp m.desc = opSample ∧ out = { sampleRowOut m (m.at_ x).1.1 (m.rowIx x r) (v.sampleOut m (m.at_ x).1.1 (m.rowIx x r)) with row := r }) →
      ∃ t, exec (.readout core a row up) s = .next t ∧ t = { v with cores := t.cores, evt := Counted v t, farBuf := t.farBuf } ∧
        (∀ n, n ≠ c → t.core n = v.core n) ∧
        t.core c = { u.core c with lanes := (t.core c).lanes, tiles := (u.core c).tiles.map fun z => if z.same x then { y with started := true, outs := y.outs ++ [out] } else z } ∧
        (isConvFam m.desc = false ∨ onArrays m.desc = true → (t.core c).lanes = (v.core c).lanes) ∧
        ∀ j z, isConvFam m.desc = true → onArrays m.desc = false → (m.tileCols v x).2 ≤ 64 → j < (m.tileCols v x).2 →
          v.laneAcc m (m.at_ x).1.1 (m.rowIx x r) ((m.tileCols v x).1 + j) = some z →
          tget Acc.zero (t.core c).lanes (j * 16 + r % 16) = z) ∧
    ((∃ z ∈ u.readAccs c m y r up, z.ok = false) →
      ∃ t, exec (.readout core a row up) s = .next t ∧ t.mem = v.mem ∧ (∀ z ∈ (t.core c).tiles, z.same x = false) ∧
        (∀ z ∈ t.mis, z.home = m.home → z.strm = m.strm → z.ticket = m.ticket → z.faulted = true ∧ z.stopped = true) ∧
        ∃ q ∈ t.flt.latch, q.1.code = eResidue ∧ q.1.srcIndex.toNat = c) ∧
    ∀ q, up = some q → q.bit < 608 → q.col.toNat < (u.readAccs c m y r none).length →
      (∀ z ∈ u.readAccs c m y r none, z.ok = true) → ∃ z ∈ u.readAccs c m y r up, z.ok = false

/-- TEAM_STATS_COMBINE forms the statistics of a whole row once every member has reduced it (R170, R171, R172). TILE_RETIRE
writes the outputs of a tile whose rows, and those of its team, are all read out: every byte of them, and no other; the tiles of the
team leave their cores together and the macro-instruction counts them. A part that is not the last of its block adds its exact
accumulators into the merge slot instead; a part of another device's counter sends them there (R56, R143, R149, R174). -/
def Obligations.TeamTiles : Prop :=
  (∀ (s : State) (i : StreamId) (k : W64) (b row : Nat) (m : MI), s.findMi s.own i k = some m →
    let ts := s.membersOf m b row
    (ts.length < m.team → exec (.teamStatsCombine i k b row) s = .next s) ∧
    (classR m.desc = true → b < dBatch m.desc → row < dM m.desc → m.teamRow b row = none → m.team ≤ ts.length →
      (∀ e ∈ ts, s.readable m e.2 = true) →
      let fetched := s.fetchFor m ((ts.map Prod.fst).headD 0) (.team ((ts.map fun e => e.2.idx).headD 0) (b * dM m.desc + row)) fun _ =>
        ((recOf m.recs roleBias).map fun z => (rAddr z, rowBytes (rFmt z) (dN m.desc))).toList
      (∀ v, fetched = .wait v → exec (.teamStatsCombine i k b row) s = .next v) ∧ ∀ v, fetched = .ready v →
      (∀ e ∈ ts, ∀ y ∈ v.rowAccs e.1 m e.2 (row % m.tm) none, y.ok = true) →
      let xs := (ts.flatMap fun e => v.rowAccs e.1 m e.2 (row % m.tm) none).zipIdx.map fun e => v.xOf m (e.1.value m.base) e.2
      ∃ q t, exec (.teamStatsCombine i k b row) s = .next t ∧ t = { v with mis := t.mis, farBuf := t.farBuf } ∧
        t.mis = (v.mis.map fun (x : MI) =>
          if x.home.toNat = s.own ∧ x.strm = i ∧ x.ticket = k then { x with teamRows := x.teamRows ++ [q] } else x) ∧
        q.batch = b ∧ q.row = row ∧ (q.odd = true ↔ ∃ v ∈ xs, v.isFin = false) ∧ (q.odd = false → q.stat = rowStat xs))) ∧
  ∀ (s : State) (core : CoreId) (x : Tile) (m : MI), s.up = true → s.retirable (s.core core.toNat).tiles = some (x, m) →
    let c := core.toNat
    let ws := ((s.mates m x).flatMap fun e => e.2.outs).flatMap RowOut.writes
    let gone (t : State) (es : List (Nat × Tile)) : Prop :=
      (∀ n, t.core n = { s.core n with arr := (t.core n).arr, tiles := (s.core n).tiles.filter fun y => !es.any fun e => decide (e.1 = n) && y.same e.2 }) ∧
      (∀ n, (∀ e ∈ es, e.1 ≠ n) → (t.core n).arr = (s.core n).arr) ∧ ∀ e, es = [e] → (t.core e.1).arr = (s.core e.1).arr.forget e.2
    (m.isRead x = true → (∀ e ∈ s.mates m x, m.isRead e.2 = true) → s.memOk → (∀ ln, s.badLine ln = s.poisoned ln) →
      (∀ w ∈ ws, w.1 / 2 ^ 48 = s.own ∧ inMem (w.1 % 2 ^ 48) w.2.length = true) →
      ws.Pairwise (fun v w => v.1 + v.2.length ≤ w.1 ∨ w.1 + w.2.length ≤ v.1) →
      ∃ t m', exec (.tileRetire core) s = .next t ∧
        t = { Stored s t with merge := t.merge, mis := t.mis, cores := t.cores, farBuf := t.farBuf, out := { s.out with sent := t.out.sent }, evt := Counted s t } ∧
        t.memOk ∧ gone t (s.mates m x) ∧ (m.here = true → t.out = s.out) ∧
        t.mis = s.mis.map (fun y => if y.home = m.home ∧ y.strm = m.strm ∧ y.ticket = m.ticket then m' else y) ∧
        m'.retired = m.retired + (s.mates m x).length ∧ (s.mates m x = [(c, x)] → m' = m.retireTile s x) ∧
        (∀ w ∈ ws, ∀ j, j < w.2.length → t.byte (w.1 % 2 ^ 48 + j) = w.2.getD j 0) ∧
        ∀ a, (∀ w ∈ ws, a < w.1 % 2 ^ 48 ∨ w.1 % 2 ^ 48 + w.2.length ≤ a) → t.byte a = s.byte a) ∧
    (m.isRead x = false → 1 < m.parts → m.loadCount s x ≤ x.loads → x.katOwed = false → m.mayRun x = true →
      s.readable m x = false → (∀ a ∈ m.mergeCells s x, (tget Acc.zero (s.core c).acc a).ok = true) → x.loads ≠ 0 →
      (m.here = true → (m.mergeCells s x).Nodup →
        ∀ e, m.mergeSlots.find? (fun e => decide (e.1 = m.blockNo (m.at_ x).1)) = some e →
        ∃ t, exec (.tileRetire core) s = .next t ∧
        t = { s with merge := t.merge, mis := t.mis, cores := t.cores, farBuf := t.farBuf, evt := Counted s t } ∧ gone t [(c, x)] ∧
        t.mis = s.mis.map (fun y => if y.home = m.home ∧ y.strm = m.strm ∧ y.ticket = m.ticket
          then { y with retired := y.retired + 1, mergeDone := y.mergeDone ++ [(m.blockNo (m.at_ x).1, (m.at_ x).2.1)] } else y) ∧
        (∀ a ∈ m.mergeCells s x, tget Acc.zero t.merge (e.2 * 16384 + a) =
          (tget Acc.zero s.merge (e.2 * 16384 + a)).merge (tget Acc.zero (s.core c).acc a)) ∧
        ∀ q, (∀ a ∈ m.mergeCells s x, q ≠ e.2 * 16384 + a) → tget Acc.zero t.merge q = tget Acc.zero s.merge q) ∧
      (m.here = false → x.asked = true → exec (.tileRetire core) s = .next s) ∧
      (m.here = false → x.asked = false →
        ∃ t, exec (.tileRetire core) s = .next t ∧ t = { s with cores := t.cores, out := { s.out with sent := t.out.sent } } ∧
          t.out.sent = s.out.sent ++ [.notice m.home.toNat (.mergePart m.strm m.ticket (BitVec.ofNat 16 s.own) (m.numberOf x.idx)
            ((m.mergeCells s x).map fun a => (a, (tget Acc.zero (s.core c).acc a).wire)))] ∧
          (∀ n, n ≠ c → t.core n = s.core n) ∧
          t.core c = { s.core c with tiles := (s.core c).tiles.map fun y => if y.same x then { y with asked := true } else y }))

/-! ### Riffle, noise and delta (R90-R98, R225, R226, R242-R256, R453) -/

/-- The riffle unit: a known-answer load falls due at 720,000 generator periods, is forced at 1,440,000, and starts behind the
last vector of the load before it, once no real piece is in the lanes, unless the core has no work; its pieces and vectors are those
of the pattern, and its check accumulators hold the stored answers unless a failure changes one. A pass counts in kat_seq and frees
the tiles it held; an array that fails faults the core's work, drops its tiles and is latched with array, pattern and the last pass,
the lowest of several (log 54, DESIGN CHOICE); a residue that disagrees is latched as E_RESIDUE. The dummy density falls in eight
steps. The snapshot of the cobbler reports a core on which loads completed since the last snapshot and kat_seq has stood still for
more than 1.5 ms (R58, R90-R98, R453). The noise sources: a healthy one adds the first 8 bytes of the SHA-384 digest of 1,024 raw
bits to a pool of at most 16 seeds; within a window a test fails exactly on 41 identical bits or on 840 recurrences of the first (log
9, DEDUCED); a failed test takes the source out of service, empties its pool, is counted, latched and reported, and faults no
stream; it returns by a restart, ignored while healthy, and the start-up test (R225, R226). -/
def Obligations.RiffleAndNoise : Prop :=
  (∀ (s : State) (core : CoreId), s.up = true →
    let c := core.toNat
    let k := s.core c
    let pat := k.rif.pattern.toNat
    let cfg := (s.cluster (c / 16)).riffleCfg
    CoreRes (exec (.katDue core) s) s c { k with rif := { k.rif with periods := max k.rif.periods 720000, kat := if k.rif.kat = .running then .running else if 1440000 ≤ k.rif.periods then .forced else if k.rif.kat = .idle then .due else k.rif.kat } } ∧
    CoreRes (exec (.katForced core) s) s c { k with rif := { k.rif with periods := max k.rif.periods 1440000, kat := if k.rif.kat = .running then .running else .forced } } ∧
    (∀ w, (s.workTile c).isSome = true ∨ k.katGate = true → k.rif.kat ≠ .running →
      k.rif.kat = .due ∨ k.rif.kat = .forced ∨ k.mustKat = true ∨ k.katGate = true → k.arr.nxtV = false →
      ∃ k', CoreRes (exec (.katStart ⟨core, w⟩) s) s c k' ∧
        k' = { k with mustKat := false, arr := k'.arr, rif := { k.rif with lfsr := k'.rif.lfsr, ics := k'.rif.ics, periods := k.rif.periods + (w + 64), kat := .running, check := k'.rif.check } } ∧
        k'.arr.laneS = k.arr.frontF + k.arr.frontM + w ∧ k'.arr.frontF = k'.arr.laneS + 32 ∧ k'.arr.frontM = 32 ∧
        k'.arr.realF = k.arr.realF ∧ k'.arr.realM = k.arr.realM ∧ k'.arr.tag = .kat ∧
        k'.arr.gapSeen = k.arr.gapSeen + w + 64 ∧
        (∀ i j, i < 32 → j < 64 → tget Cell.zero k'.arr.cur (i * 64 + j) = Config.katPiece pat i j) ∧
        ∀ a j, a < 4 → j < 64 → tget Acc.zero k'.rif.check (a * 64 + j) = katSum pat a j) ∧
    ((s.workTile c = none ∧ k.katGate = false ∨ k.arr.nxtV = true) → ∀ w, exec (.katStart ⟨core, w⟩) s = .next s) ∧
    (∀ us, k.rif.kat = .running → katFailing pat (upsetChecks k.rif.check us) = 0 →
      (∃ t, exec (.katVerdict core us false) s = .next t ∧ t.mem = s.mem ∧ (s.flt.lockstep = false → (t.core c).rif.kat = .idle ∧
        (t.core c).rif.pattern = k.rif.pattern + 1 ∧ (t.core c).katSeq = k.katSeq + 1 ∧ (t.core c).rif.katLast = s.time)) ∧
      ((∀ e ∈ upsetChecks k.rif.check us, e.2.ok = true) → CoreRes (exec (.katVerdict core us false) s) s c { k with rif := { k.rif with kat := .idle, pattern := k.rif.pattern + 1, periods := 0, katLast := s.time, check := upsetChecks k.rif.check us }, katSeq := k.katSeq + 1, katGate := false, tiles := k.tiles.map fun t => { t with katOwed := false } })) ∧
    (∀ us vec, k.rif.kat = .running → katFailing pat (upsetChecks k.rif.check us) ≠ 0 → s.flt.lockstep = false →
      ∃ t a, exec (.katVerdict core us vec) s = .next t ∧
        let failing := katFailing pat (upsetChecks k.rif.check us)
        a < 4 ∧ bit failing a = true ∧ (∀ j, j < a → bit failing j = false) ∧
        (t.core c).rif.kat ≠ .running ∧ (t.core c).rif.pattern = k.rif.pattern + 1 ∧ (t.core c).katFail = k.katFail ||| failing ∧
        (t.core c).katSeq = k.katSeq ∧ (t.core c).fenced = true ∧ (t.core c).tiles = [] ∧ (t.core c).acc = k.acc ∧ t.mem = s.mem ∧
        (∃ st, (⟨eRiffleKat, 0, BitVec.ofNat 16 c, st, nameW 9 (a * 256 + pat), k.rif.katLast⟩, 2, s.time) ∈ t.flt.latch) ∧
        ((∃ e ∈ upsetChecks k.rif.check us, e.2.ok = false) → ∃ q ∈ t.flt.latch, q.1.code = eResidue ∧ q.1.srcIndex.toNat = c) ∧
        ∀ y ∈ t.mis, (∃ x ∈ k.tiles, x.of y = true) → y.faulted = true ∧ y.stopped = true) ∧
    ((∀ a j, a < 4 → j < 64 → tget Acc.zero k.rif.check (a * 64 + j) = katSum pat a j) →
      katFailing pat k.rif.check = 0 ∧ ∀ u : KatUpset, u.a ≠ 0 ∨ u.flags ≠ 0 ∨ u.res ≠ 0 →
        katFailing pat (upsetChecks k.rif.check [u]) = BitVec.ofNat 4 (2 ^ u.array.toNat)) ∧
    (bit cfg 0 = true → k.rif.kat ≠ .running → k.rif.rampStep.toNat < 8 →
      ∃ k', CoreRes (exec (.riffleRampStep core) s) s c k' ∧ k'.rif.rampStep = k.rif.rampStep + 1 ∧ k'.arr.tag = .dummy ∧
        k'.acc = k.acc ∧ k'.tiles = k.tiles ∧ k'.katSeq = k.katSeq ∧ k'.arr.cur = k.arr.cur ∧
        ∀ a i, a < 4 → i < 32 → tget Cell.zero k'.arr.act (a * 32 + i) =
          Config.dummyCell (tget 0 k'.rif.lfsr a) (k.rif.target cfg * (8 - (k.rif.rampStep.toNat + 1)) / 8) i) ∧
    (bit cfg 0 = false ∨ k.rif.kat = .running ∨ 8 ≤ k.rif.rampStep.toNat → exec (.riffleRampStep core) s = .next s) ∧
    ((∀ n, (s.core n).katSeq = (s.core n).rif.snapKat → (s.core n).passSeq ≠ (s.core n).rif.snapPass →
        s.time.toNat - (s.core n).rif.snapAt.toNat ≤ 1500000) →
      ∃ t, exec .riffleSnapshot s = .next t ∧ t = { s with cores := t.cores } ∧
        ∀ n, t.core n = { s.core n with rif := { (s.core n).rif with snapKat := (s.core n).katSeq, snapPass := (s.core n).passSeq, snapAt := if (s.core n).katSeq ≠ (s.core n).rif.snapKat then s.time else (s.core n).rif.snapAt } }) ∧
    (k.katSeq = k.rif.snapKat → k.passSeq ≠ k.rif.snapPass → 1500000 < s.time.toNat - k.rif.snapAt.toNat →
      ∃ t, exec .riffleSnapshot s = .next t ∧ (t.core c).rif.snapPass = k.passSeq ∧ t.mem = s.mem ∧
        ∃ q ∈ t.flt.latch, q.1.code = eRiffleLate ∧ q.1.srcKind = 0 ∧ q.1.srcIndex.toNat = c)) ∧
  (∀ l : List Bool, l.length ≤ 1024 →
    ((Health.reset.bits l).2 = none ↔ ¬Repeats l 41 ∧ ∀ b r, l = b :: r → r.count b < 840)) ∧
  ∀ (s : State) (cl : ClusterId) (raw : BitVec 1024) (first : BitVec 4096) (l : List Bool), s.pins.corePower = true →
    let c := cl.toNat
    let x := s.cluster c
    let fails (o : Res) (test : NoiseTest) : Prop := ∃ t, o = .next t ∧
      t = { s with clusters := t.clusters, flt := { s.flt with latch := s.flt.latch ++ [(⟨eNoiseHealth, 1, BitVec.ofNat 16 c, none, 0, 0⟩, 0, s.time)] }, hif := t.hif, out := t.out, evt := Counted s t } ∧
      Raised s t 86 ∧ (∀ n, n ≠ c → t.cluster n = s.cluster n) ∧
      t.cluster c = { x with healthy := false, starting := false, pool := [], failCount := satInc x.failCount, health := .reset, rctFail := x.rctFail || decide (test = .rct), aptFail := x.aptFail || decide (test = .apt) }
    (∀ h, x.healthy = true → x.health.bits (rawBits raw) = (h, none) → ∃ v : W64,
      leBytes 8 v.toNat = (sha384 (leBytes 128 raw.toNat)).take 8 ∧
      ClusterRes (exec (.seedRefill cl raw) s) s c { x with health := h, pool := if x.pool.length < 16 then x.pool ++ [v] else x.pool }) ∧
    (x.healthy = false → exec (.seedRefill cl raw) s = .next s) ∧
    (∀ h, x.healthy = true ∨ x.starting = true → x.health.bits l = (h, none) →
      ClusterRes (exec (.noiseHealthFail cl l) s) s c { x with health := h }) ∧
    (x.healthy = false → x.starting = false → exec (.noiseHealthFail cl l) s = .next s) ∧
    (∀ h, x.starting = true → x.health.bits (rawBits first) = (h, none) →
      ClusterRes (exec (.noiseStartupPass ⟨cl, first⟩) s) s c { x with health := h, healthy := true, starting := false }) ∧
    (x.starting = false → exec (.noiseStartupPass ⟨cl, first⟩) s = .next s) ∧
    (s.flt.lockstep = false → ∀ h test,
      (x.healthy = true → x.health.bits (rawBits raw) = (h, some test) → fails (exec (.seedRefill cl raw) s) test) ∧
      (x.healthy = true ∨ x.starting = true → x.health.bits l = (h, some test) → fails (exec (.noiseHealthFail cl l) s) test) ∧
      (x.starting = true → x.health.bits (rawBits first) = (h, some test) → fails (exec (.noiseStartupPass ⟨cl, first⟩) s) test)) ∧
    (x.healthy = true → exec (.noiseRestart cl) s = .next s) ∧
    (x.healthy = false → ClusterRes (exec (.noiseRestart cl) s) s c { x with starting := true, health := .reset })

/-- Codebook requests, one at a time, end with done, err and the refusing clusters in the register set and raise cause 85. A load is
refused whole with the first error of its image; else each cluster of the mask refuses with E_BUSY where the slot names the tag or
a load is pending, and takes an EMPTY generation, or waits for the older RETIRING one, or retires the older RESIDENT one and waits,
or, with both LOADING, waits for the older (log 41, DESIGN CHOICE). A retire marks the named generation RETIRING, or is refused with
E_HANDLE where the slot does not name the tag; an undefined op is refused (R243-R246, R256, R483). Generations and copies: a pending
load takes its own slot, RETIRING without pins; the older LOADING one becomes RESIDENT; a RETIRING one without pins that no load
waits for becomes EMPTY; the lookup unit fills the buffer it does not use; the decoders take, core by core in turn, the next block of a
core's tile, and a block whose header fails faults the macro-instruction, whose tile writes nothing (R242, R245, R246, R251, R252). -/
def Obligations.Codebooks : Prop :=
  (∀ (s : State) (slot : BitVec 3) (gen : BitVec 16) (mask : W32), s.boot.phase = .running → s.busy .delta = false →
    let i := slot.toNat
    let a := s.dev.deltaSrc.toNat
    let h := s.num a 64
    let ends (t : State) (m : W32) (e : Code) (r : W32) : Prop :=
      t = { s with clusters := t.clusters, cores := t.cores, hif := t.hif, out := t.out, dev := { s.dev with deltaSlot := slot, deltaGen := gen, deltaMask := m, deltaDone := true, deltaErr := e, deltaRefused := r } } ∧ Raised s t 85
    let same (t : State) : Prop := t.clusters = s.clusters ∧ t.cores = s.cores
    let layers (t : State) (r : W32) (f : LayerSlot → Option LayerSlot → Prop) : Prop :=
      ∀ c, c < 32 → (∀ n, n ≠ i → t.layer c n = s.layer c n) ∧
        (bit mask c = false → bit r c = false ∧ t.layer c i = s.layer c i) ∧
        (bit mask c = true → f (s.layer c i) (if bit r c then none else some (t.layer c i)) ∧
          (bit r c = true → t.layer c i = s.layer c i))
    (a % 128 ≠ 0 ∨ inStack a 64 = false → mask ≠ 0 → s.bookErr = eAlign) ∧
    (a % 128 = 0 → inStack a 64 = true → s.poisonIn a 64 = none →
      (matIn (h % 32) = false ∨ h / 2 ^ 5 % 8 ≠ 0 ∨ h / 2 ^ 8 % 16 < 2 ∨ 12 < h / 2 ^ 8 % 16 ∨ 4 < h / 2 ^ 12 % 8 ∨ h / 2 ^ 15 ≠ 0 →
        s.bookErr = eFormat) ∧
      (matIn (h % 32) = true → h / 2 ^ 5 % 8 = 0 → 2 ≤ h / 2 ^ 8 % 16 → h / 2 ^ 8 % 16 ≤ 12 → h / 2 ^ 12 % 8 ≤ 4 → h / 2 ^ 15 = 0 →
        32768 * 8 < 2 ^ (h / 2 ^ 8 % 16) * 2 ^ (h / 2 ^ 12 % 8) * fmtBits (h % 32) → s.bookErr = eBounds)) ∧
    (mask ≠ 0 → s.bookErr ≠ 0 →
      ∃ t, exec (.deltaGenLoad slot gen mask) s = .next t ∧ ends t mask s.bookErr 0 ∧ same t) ∧
    (mask = 0 → ∃ t, exec (.deltaGenLoad slot gen mask) s = .next t ∧ ends t mask 0 0 ∧ same t) ∧
    (mask ≠ 0 → s.bookErr = 0 → ∃ t r g, exec (.deltaGenLoad slot gen mask) s = .next t ∧
      ends t mask (if r = 0 then 0 else eBusy) r ∧
      g.st = .loading ∧ g.gen = gen ∧ g.pins = 0 ∧ g.fmt.toNat = h % 32 ∧ g.bits = h / 2 ^ 8 % 16 ∧ g.dim = 2 ^ (h / 2 ^ 12 % 8) ∧
      g.elems.length = 2 ^ g.bits * g.dim ∧
      layers t r (fun l o =>
        (l.names gen = true ∨ l.pending.isSome = true → o = none) ∧
        (l.names gen = false → l.pending = none →
          (l.g0.st = .empty → o = some { l with g0 := g, older := decide (l.g1.st ≠ .empty) }) ∧
          (l.g0.st ≠ .empty → l.g1.st = .empty → o = some { l with g1 := g, older := false }) ∧
          (l.g0.st ≠ .empty → l.g1.st ≠ .empty →
            let other (st : GenState) : Prop := (l.at l.older).st ≠ st ∧ (l.at (!l.older)).st = st
            ((l.at l.older).st = .retiring → o = some { l with pending := some g, want := l.older }) ∧
            (other .retiring → o = some { l with pending := some g, want := !l.older }) ∧
            (l.g0.st ≠ .retiring → l.g1.st ≠ .retiring →
              ((l.at l.older).st = .resident →
                o = some { (l.set l.older { l.at l.older with st := .retiring }) with pending := some g, want := l.older }) ∧
              (other .resident →
                o = some { (l.set (!l.older) { l.at (!l.older) with st := .retiring }) with pending := some g, want := !l.older }) ∧
              (l.g0.st = .loading → l.g1.st = .loading → o = some { l with pending := some g, want := l.older }))))) ∧
      ∀ n, n < 512 → t.core n = { s.core n with copyBuf := (s.core n).copyBuf.filter fun x =>
        !(bit mask (n / 16) && !bit r (n / 16) && decide (x = (slot, gen))) }) ∧
    (∃ t r, exec (.deltaGenRetire slot gen mask) s = .next t ∧ ends t mask (if r = 0 then 0 else eHandle) r ∧ t.cores = s.cores ∧
      layers t r (fun l o =>
        let on (g : GenSlot) : GenSlot := if g.st ≠ .empty ∧ g.gen = gen then { g with st := .retiring } else g
        (l.names gen = false → o = none) ∧
        (l.names gen = true → o = some { l with g0 := on l.g0, g1 := on l.g1, pending := l.pending.map on }))) ∧
    ∃ t, exec (.deltaGenOpRefused slot gen) s = .next t ∧ ends t s.dev.deltaMask eHandle 0 ∧ same t) ∧
  ∀ (s : State) (cl : ClusterId) (slot : BitVec 3),
    let c := cl.toNat
    let i := slot.toNat
    let l := s.layer c i
    let idle (g : GenSlot) : Prop := g.st = .retiring ∧ g.pins = 0
    let gone (k : Bool) : Prop := idle (l.at k) ∧ ¬(l.pending ≠ none ∧ l.want = k)
    let res (o : Res) (x : LayerSlot) : Prop := ∃ t, o = .next t ∧
      t = { s with clusters := t.clusters, cores := t.cores } ∧ t.layer c i = x ∧
      (∀ k j, k ≠ c ∨ j ≠ i → t.layer k j = s.layer k j) ∧
      ∀ n, ∃ b, t.core n = { s.core n with copyBuf := b } ∧ (∀ q ∈ b, q ∈ (s.core n).copyBuf) ∧ (n / 16 ≠ c → b = (s.core n).copyBuf)
    (∀ g, l.pending = some g → idle (l.at l.want) →
      (l.want = false → res (exec (.pendingLoadTake cl slot) s) { l with g0 := g, older := decide (l.g1.st ≠ .empty), pending := none }) ∧
      (l.want = true → res (exec (.pendingLoadTake cl slot) s) { l with g1 := g, older := decide (l.g0.st = .empty), pending := none })) ∧
    (l.pending = none ∨ ¬idle (l.at l.want) → exec (.pendingLoadTake cl slot) s = .next s) ∧
    (∀ k, (l.at k).st = .loading → k = l.older ∨ (l.at (!k)).st ≠ .loading →
      res (exec (.codebookCopyDone cl slot) s)
        (l.set k { l.at k with st := if l.pending.isSome = true ∧ l.want = k then .retiring else .resident })) ∧
    (l.g0.st ≠ .loading → l.g1.st ≠ .loading → exec (.codebookCopyDone cl slot) s = .next s) ∧
    (gone false ∨ gone true → ∃ x, res (exec (.generationEmpty cl slot) s) x ∧
      x = { l with g0 := x.g0, g1 := x.g1, older := x.older } ∧ (gone false → x.g0 = .empty) ∧ (¬gone false → x.g0 = l.g0) ∧
        (gone true → x.g1 = .empty) ∧ (¬gone true → x.g1 = l.g1)) ∧
    (¬gone false → ¬gone true → exec (.generationEmpty cl slot) s = .next s) ∧
    ∀ (core : CoreId) (x : Tile) (m : MI), s.up = true → s.workTile core.toNat = some (x, m) → isVq m.desc = true → m.mayRun x = true →
      let n := core.toNat
      let k := s.core n
      let used := (k.copyBuf.filter fun b => decide (b ≠ m.bookKey)).drop ((k.copyBuf.filter fun b => decide (b ≠ m.bookKey)).length - 1) ++ [m.bookKey]
      (s.vqBook (n / 16) m = none → exec (.copyBufferFill core) s = .next s) ∧
      (s.vqBook (n / 16) m ≠ none → CoreRes (exec (.copyBufferFill core) s) s n { k with copyBuf := used }) ∧
      ∀ ld bi idx, s.allHere m = true → s.nextBlockLoad m x = some ld → m.needBlock s x ld = some (bi, idx) →
        let coded := (s.gbyte (s.vqBlock m bi idx).1).toNat = 1
        (s.decodeNext (n / 16) ≠ some n → exec (.blockDecode core) s = .next s) ∧
        (coded → m.bookKey ∉ k.copyBuf → exec (.blockDecode core) s = .next s) ∧
        (s.decodeNext (n / 16) = some n → s.gpoison (s.vqBlock m bi idx).1 (64 * (s.vqBlock m bi idx).2) = none →
          (s.vqHeaderErr m bi idx = none →
            ∃ t, exec (.blockDecode core) s = .next t ∧ t = { s with cores := t.cores, clusters := t.clusters, evt := Counted s t } ∧
              (∀ j, j ≠ n → t.core j = s.core j) ∧ (∀ j, j ≠ n / 16 → t.cluster j = s.cluster j) ∧
              t.cluster (n / 16) = { s.cluster (n / 16) with decTurn := BitVec.ofNat 4 (n % 16 + 1) } ∧
              t.core n = { k with
                copyBuf := if (s.gbyte (s.vqBlock m bi idx).1).toNat = 1 then used else k.copyBuf
                tiles := k.tiles.map fun y => if y.same x then { y with decoded := y.decoded ++ [ld] } else y }) ∧
          ∀ e w, s.vqHeaderErr m bi idx = some (e, w) → m.home.toNat = s.own → s.flt.lockstep = false →
            ∃ t, exec (.blockDecode core) s = .next t ∧ t.mem = s.mem ∧ (∀ y ∈ (t.core n).tiles, y.same x = false) ∧
              (⟨e, 0, BitVec.ofNat 16 n, some m.strm, w, 0⟩, 1, s.time) ∈ t.flt.latch ∧
              ∀ y ∈ t.mis, y.home = m.home → y.strm = m.strm → y.ticket = m.ticket → y.faulted = true ∧ y.stopped = true)

/-! ### The stack, the cluster caches and the awl (R261-R284) -/

/-- STACK_ILV takes a split of 1 to 32 units while every stream is EMPTY and no DMA is under way: the bytes below both
splits, and those outside the stack, keep, the rest of the stack is unspecified; any other write is counted and changes
nothing. LINE_ACCESS serves a present line, allocates an absent one under its hint, and stores the bytes it brings and no
other; a whole line clears poison. A codeword of an absent line is corrected, counted and written anew up to 16 symbol errors, or
8 outside a failed tier; beyond, the line is poisoned and the detection latched (R278, R279; log 43, DESIGN CHOICE, for the
detection). AWL_REQUEST reads, stores and runs atomics, and allocates nothing unless AWL_CFG says so (R262, R264, R269, R273, R275).
Patrol, probe and repair. The line the patrol reads next is the one that lies at vault v, vault line q, in its bank, row and column
(R263); PATROL_SCRUB_LINE moves on, corrects what it can, and reports an uncorrectable codeword with no stream; TIER_PROBE marks a
tier with errors on two consecutive probes suspect and reports it; STK_RPR operations check their address, read, enter and clear soft
entries, which redirect their target to a spare, mark and clear failed tiers, and end with done, err and cause 85 (R263,
R279-R283). -/
def Obligations.StackAccesses : Prop :=
  (∀ (s : State), s.memOk →
    (∀ (who : Agent) (v : W32), s.boot.phase = .running →
      let u := v.toNat % 64
      let lo := min u s.dev.ilv.toNat * 0x180000000
      (u = 0 ∨ 32 < u ∨ (∃ i : StreamId, (s.strm i).state ≠ .empty) ∨ s.dmaIdle = false →
        CountsOne (exec (.stackIlvWrite who v) s) s evRegWriteRefused) ∧
      (u ≠ 0 → u ≤ 32 → s.allEmpty = true → s.dmaIdle = true → u = s.dev.ilv.toNat → exec (.stackIlvWrite who v) s = .next s) ∧
      (u ≠ 0 → u ≤ 32 → s.allEmpty = true → s.dmaIdle = true → u ≠ s.dev.ilv.toNat →
        ∃ t, exec (.stackIlvWrite who v) s = .next t ∧ t.memOk ∧
          t = { s with dev := { s.dev with ilv := BitVec.ofNat 6 u }, clusters := t.clusters, poison := t.poison, mem := t.mem, unspec := t.unspec, freeCtr := s.freeCtr + 1 } ∧
          (∀ a, a < lo ∨ stackEnd ≤ a → t.byte a = s.byte a) ∧
          (∀ a, lo ≤ a → a < stackEnd → t.byte a = Config.freeByte s.freeCtr a) ∧
          (∀ c, t.cluster c = { s.cluster c with lines := (t.cluster c).lines }) ∧
          ∀ c, ∀ e ∈ (t.cluster c).lines, 128 * e.1 < lo ∧ e ∈ (s.cluster c).lines)) ∧
    (∀ (a : BitVec 48) (h : Hint) (uses : BitVec 16) (us : List SymbolUpset), s.up = true → inStack a.toNat 1 = true →
      let ln := a.toNat / 128
      let v := s.vaultOf ln
      let u := s.strike us
      let d := u.decodeLine v (s.lineIn ln)
      let alone (t : State) (x : Option Line) : Prop := t.cline ln = x ∧ (∀ n, n ≠ ln → t.cline n = s.cline n) ∧
        ∀ c, t.cluster c = { s.cluster c with lines := (t.cluster c).lines, stamp := (t.cluster c).stamp }
      let rewritten (t : State) : Prop := ∀ y ∈ t.upsets, y ∈ u.upsets ∧ s.struck v (s.lineIn ln) y = false
      let rd := exec (.lineAccess ⟨a, h, uses, none, none, us⟩) s
      (∀ l, s.cline ln = some l → ∃ t, rd = .next t ∧ t = { s with clusters := t.clusters, upsets := u.upsets, evt := Counted s t } ∧
        alone t (some { l with cls := (if h = .last ∧ uses = 0 then .evictFirst else if h = .keep ∨ h = .last then .keep else l.cls), count := (if h = .last then uses else l.count), stamp := (if h = .stream then l.stamp else s.stampOf ln) })) ∧
      (s.cline ln = none → d = .clean ∨ s.poisoned ln = true → h = .stream →
        ∃ t, rd = .next t ∧ t = { s with upsets := u.upsets, evt := Counted s t }) ∧
      (s.cline ln = none → d = .clean ∨ s.poisoned ln = true → h = .none → (s.setLines ln).length < 16 →
        ∃ t, rd = .next t ∧ t = { s with clusters := t.clusters, upsets := u.upsets, evt := Counted s t } ∧
          alone t (some ⟨.normal, 0, 0, s.stampOf ln, none⟩)) ∧
      (s.cline ln = none → s.poisoned ln = false → ∀ tiers, d = .corrected tiers →
        ∃ t, rd = .next t ∧ t = { Beneath s t with evt := Counted s t } ∧ rewritten t ∧ (∀ n, n ≠ v → t.vault n = s.vault n) ∧
          t.vault v = { s.vault v with ce := satInc (s.vault v).ce, ceTier := (s.vault v).ceTier ||| tiers }) ∧
      (s.cline ln = none → d = .uncorrectable → s.poisoned ln = false → s.flt.lockstep = false →
        ∃ t, rd = .next t ∧ t = { Beneath s t with poison := t.poison, flt := t.flt, evt := Counted s t } ∧ rewritten t ∧
          t.flt = { s.flt with latch := s.flt.latch ++ [(⟨eStackUe, 1, BitVec.ofNat 16 (s.home ln), none, BitVec.ofNat 64 (128 * ln), 0⟩, 1, s.time)] } ∧
          (∀ n, t.poisoned n = (decide (n = ln) || s.poisoned n)) ∧
          (∀ n, n ≠ v → t.vault n = s.vault n) ∧ t.vault v = { s.vault v with ue := satInc (s.vault v).ue }) ∧
      ∀ (tag : Option (StreamId × BitVec 10)) (bs : List Byte), bs ≠ [] → a.toNat % 128 + bs.length ≤ 128 →
        s.badLine ln = s.poisoned ln →
        ∃ t, exec (.lineAccess ⟨a, h, uses, tag, some bs, []⟩) s = .next t ∧
          t = { Beneath s t with mem := t.mem, poison := t.poison, evt := Counted s t } ∧ t.memOk ∧
          (∀ j, j < bs.length → t.byte (a.toNat + j) = bs.getD j 0) ∧ SameBytesBut s t a.toNat bs.length ∧
          (∀ n, t.poisoned n = (s.poisoned n && !(decide (n = ln) && decide (bs.length = 128)))) ∧
          (∀ y ∈ t.upsets, y ∈ s.upsets) ∧ (s.upsets = [] → t.vaults = s.vaults) ∧
          ((s.cline ln).isSome = true ∨ h ≠ .stream → ∃ l, t.cline ln = some l ∧ l.shadow.isSome = true)) ∧
    ∀ (cl : ClusterId) (a : BitVec 48), s.up = true →
      let ln := a.toNat / 128
      let stores (o : Res) (n : Nat) (w : W64) : Prop := ∃ t, o = .next t ∧
        t = { Beneath s t with mem := t.mem, evt := Counted s t, poison := t.poison } ∧ t.memOk ∧
        (∀ q, t.poisoned q = s.poisoned q) ∧ t.Holds a.toNat n w ∧ SameBytesBut s t a.toNat n ∧
        (s.upsets = [] → t.vaults = s.vaults ∧ t.upsets = []) ∧
        (s.cline ln = none → bit (s.cluster (s.home ln)).awlCfg 1 = false → t.clusters = s.clusters)
      (∀ b, inStack a.toNat (if b then 8 else 4) = true → a.toNat % (if b then 8 else 4) = 0 → s.badLine ln = s.poisoned ln →
        (∃ t, exec (.awlRequest cl a (.read b) []) s = .next t ∧ t = { Beneath s t with evt := Counted s t } ∧
          (s.upsets = [] → t.vaults = s.vaults ∧ t.upsets = []) ∧
          (s.cline ln ≠ none ∨ bit (s.cluster (s.home ln)).awlCfg 0 = false → t.clusters = s.clusters)) ∧
        ∀ v, stores (exec (.awlRequest cl a (.write b v) []) s) (if b then 8 else 4) v) ∧
      (∀ b us, inStack a.toNat (if b then 8 else 4) = true → a.toNat % (if b then 8 else 4) = 0 → s.cline ln = none →
        s.poisoned ln = false → s.flt.lockstep = false → (s.strike us).decodeLine (s.vaultOf ln) (s.lineIn ln) = .uncorrectable →
        ∃ t, exec (.awlRequest cl a (.read b) us) s = .next t ∧
          t = { Beneath s t with poison := t.poison, flt := t.flt, evt := Counted s t } ∧
          t.flt = { s.flt with latch := s.flt.latch ++ [(⟨eStackUe, 1, BitVec.ofNat 16 (s.home ln), none, BitVec.ofNat 64 (128 * ln), 0⟩, 1, s.time)] } ∧
          ∀ n, t.poisoned n = (decide (n = ln) || s.poisoned n)) ∧
      ∀ fn cmp v old w, inStack a.toNat 8 = true → a.toNat % 8 = 0 → s.badLine ln = s.poisoned ln → s.Holds a.toNat 8 old →
        AmoRule old v cmp w fn → stores (exec (.awlRequest cl a (.atomic fn cmp v) []) s) 8 w) ∧
  (∀ us : List SymbolUpset, (decodeSymbols 0 us = .uncorrectable ↔ 16 < us.length) ∧
    ∀ k, k < 6 → (decodeSymbols (BitVec.ofNat 6 (2 ^ k)) us = .uncorrectable ↔ 8 < (us.filter fun u => decide (u.tier.toNat ≠ k)).length)) ∧
  (∀ q, q < 3145728 → vaultLineOf (bankOf q) (rowOf q) (colOf q) = q ∧ colOf q = q % 16 ∧ rowOf q = q / 512) ∧
  (∀ u v q, 1 ≤ u → u ≤ 32 → v < 512 → q < 3145728 → placeOf u (128 * lineAt u v q) = (v, q)) ∧
  ∀ (s : State) (vault : VaultId),
    let v := vault.toNat
    let x := s.vault v
    (∀ us, s.dev.stkCtl.toNat / 2 ^ 16 = 0 → exec (.patrolScrubLine vault us) s = .next s) ∧
    (s.up = true → s.flt.lockstep = false → 1 ≤ s.dev.ilv.toNat → s.dev.ilv.toNat ≤ 32 → ∀ us,
      let u := s.strike us
      let others (t : State) : Prop := ∀ n, n ≠ v → t.vault n = s.vault n
      let rewritten (t : State) (q : Nat) : Prop := ∀ y ∈ t.upsets, y ∈ u.upsets ∧ s.struck v q y = false
      (s.dev.stkCtl.toNat / 2 ^ 16 ≠ 0 → x.patrol < 3145728 →
        let ln := lineAt s.dev.ilv.toNat v x.patrol
        let d := u.decodeLine v x.patrol
        let o := exec (.patrolScrubLine vault us) s
        let y := { x with patrol := (x.patrol + 1) % 3145728 }
        (d = .clean → ∃ t, o = .next t ∧ t = { s with vaults := t.vaults, upsets := u.upsets, evt := Counted s t } ∧ others t ∧
          t.vault v = y) ∧
        (s.cline ln = none → s.poisoned ln = false → ∀ tiers, d = .corrected tiers → ∃ t, o = .next t ∧
          t = { s with vaults := t.vaults, upsets := t.upsets, evt := Counted s t } ∧ others t ∧ rewritten t x.patrol ∧
          t.vault v = { y with ce := satInc x.ce, ceTier := x.ceTier ||| tiers }) ∧
        (s.cline ln = none → s.poisoned ln = false → d = .uncorrectable → ∃ t, o = .next t ∧
          t = { s with vaults := t.vaults, upsets := t.upsets, poison := t.poison, flt := { s.flt with latch := s.flt.latch ++ [(⟨eStackUe, 6, BitVec.ofNat 16 v, none, BitVec.ofNat 64 (128 * ln), 0⟩, 0, s.time)] }, evt := Counted s t } ∧
          others t ∧ rewritten t x.patrol ∧ t.vault v = { y with ue := satInc x.ue } ∧
          ∀ n, t.poisoned n = (decide (n = ln) || s.poisoned n))) ∧
      ∀ (line : BitVec 22),
        let q := line.toNat % 3145728
        let tiers := tiersOf (u.symbolErrors v q)
        ∃ t, exec (.tierProbe vault line us) s = .next t ∧
        t = { Beneath s t with poison := t.poison, flt := { s.flt with latch := t.flt.latch }, evt := Counted s t } ∧ others t ∧
        t.vault v = { x with ce := (t.vault v).ce, ceTier := (t.vault v).ceTier, ue := (t.vault v).ue, probed := tiers, suspect := x.suspect ||| (tiers &&& x.probed) } ∧
        (∀ r ∈ s.flt.latch, r ∈ t.flt.latch) ∧
        (∀ r ∈ t.flt.latch, r ∈ s.flt.latch ∨ r.1.code = eStackTier ∨ r.1.code = eStackUe) ∧
        ∀ k, k < 6 → bit tiers k = true → bit x.probed k = true → bit x.suspect k = false →
          (⟨eStackTier, 6, BitVec.ofNat 16 v, none, nameW 11 v, BitVec.ofNat 64 k⟩, 0, s.time) ∈ t.flt.latch) ∧
    (s.boot.phase = .running → s.busy .rpr = false → ∀ (tier : BitVec 3) (store : BitVec 2) (index : BitVec 7),
      let ends (o : Res) (m : State → State) (e : Code) (q : State → Prop) : Prop := ∃ t, o = .next t ∧
        t = { m t with hif := t.hif, out := t.out, dev := { (m t).dev with rprVault := vault, rprTier := tier, rprStore := store, rprIndex := index, rprDone := true, rprErr := e } } ∧ Raised s t 85 ∧ q t
      let size := if store = 0 then 128 else if store = 1 then 16 else 8
      let k := repairKey v tier.toNat store.toNat index.toNat
      let ok := tier.toNat ≤ 5 ∧ store ≠ 3 ∧ index.toNat < size
      let e := s.dev.rprData
      let entry := e = 0 ∨ bits e 29 35 = 0 ∧ bits e 2 3 ≤ 5 ∧
        (bits e 0 2 = 1 ∧ bits e 10 13 ≤ 6143 ∨ bits e 0 2 = 2 ∧ bits e 10 13 ≤ 15 ∧ bits e 23 6 ≤ 7)
      let none_ (c : Code) (i : Instr) : Prop := ends (exec i s) (fun _ => s) c fun _ => True
      let stored (w : W64) (t : State) : Prop := tget 0 t.repairs k = w ∧ (∀ n, n ≠ k → tget 0 t.repairs n = tget 0 s.repairs n) ∧
        (s.upsets = [] → t.clusters = s.clusters ∧ t.vaults = s.vaults ∧ t.upsets = [] ∧ t.poison = s.poison ∧ t.flt = s.flt ∧ t.evt = s.evt)
      let soft (t : State) : State := { Beneath s t with repairs := t.repairs, poison := t.poison, flt := t.flt, evt := Counted s t }
      let alone (kind : Nat) : Prop := ∀ n w, (n, w) ∈ s.repairs → n ≠ k → n / 512 = v * 8 + tier.toNat → n / 128 % 4 ≤ 1 →
        bits w 0 2 = kind → bits w 5 5 = bits e 5 5 → bits w 10 13 ≠ bits e 10 13
      (∀ i, i = .stkRprRead vault tier store index ∨ i = .stkRprSoftWrite vault tier store index ∨
          i = .stkRprSoftClear vault tier store index ∨ i = .stkRprMarkFailed vault tier store index ∨
          i = .stkRprClearFailed vault tier store index →
        (5 < tier.toNat ∨ store = 3 → none_ eHandle i) ∧
        (tier.toNat ≤ 5 → store ≠ 3 → size ≤ index.toNat → none_ eBounds i)) ∧
      (ok → ends (exec (.stkRprRead vault tier store index) s) (fun _ => { s with dev := { s.dev with rprData := tget 0 s.repairs k } }) 0
        fun _ => True) ∧
      (ok → store ≠ 1 → none_ eHandle (.stkRprSoftWrite vault tier store index) ∧ none_ eHandle (.stkRprSoftClear vault tier store index)) ∧
      (ok → store = 1 → entry →
        s.flt.lockstep = false →
        ends (exec (.stkRprSoftWrite vault tier store index) s) soft 0 fun t => stored e t ∧
          (bits e 0 2 = 1 → (alone 1 → t.rowAt v tier.toNat (bits e 5 5) (bits e 10 13) = 6144 + bits e 23 6) ∧
            ∀ y ∈ t.upsets, ¬(y.vault = vault ∧ y.tier = tier ∧ y.bank.toNat = bits e 5 5 ∧ y.row.toNat = 6144 + bits e 23 6)) ∧
          (bits e 0 2 = 2 → (alone 2 → t.colAt v tier.toNat (bits e 5 5) (bits e 10 13) = 16 + bits e 23 6) ∧
            ∀ y ∈ t.upsets, ¬(y.vault = vault ∧ y.tier = tier ∧ y.bank.toNat = bits e 5 5 ∧ y.col.toNat = 16 + bits e 23 6))) ∧
      (ok → store = 1 → ¬entry → none_ eOperand (.stkRprSoftWrite vault tier store index)) ∧
      (ok → store = 1 → s.flt.lockstep = false → ends (exec (.stkRprSoftClear vault tier store index) s) soft 0 (stored 0)) ∧
      (ok → ends (exec (.stkRprMarkFailed vault tier store index) s) (fun t => { s with vaults := t.vaults }) 0 fun t =>
        (∀ n, n ≠ v → t.vault n = s.vault n) ∧ t.vault v = { x with failed := (t.vault v).failed } ∧
        ∀ j, j < 6 → bit (t.vault v).failed j = (decide (j = tier.toNat) || bit x.failed j)) ∧
      (ok → ends (exec (.stkRprClearFailed vault tier store index) s) (fun t => { s with vaults := t.vaults }) 0 fun t =>
        (∀ n, n ≠ v → t.vault n = s.vault n) ∧ t.vault v = { x with failed := (t.vault v).failed } ∧
        ∀ j, j < 6 → bit (t.vault v).failed j = (!decide (j = tier.toNat) && bit x.failed j)) ∧
      ∀ op, op = 6 ∨ op = 7 → none_ eHandle (.stkRprOpRefused vault tier store index op))

/-- Cache control by s.st: prefetch, keep, evict-first, write back, write back and invalidate, and invalidate act on the line as
their rows of R273 say, and the context moves on; a value above 5 is counted; s.ld returns the line's state; an access that is
not aligned, or outside the mirrored stack, faults the stream. -/
def Obligations.CacheControl : Prop :=
  ∀ (s : State) (cx : CtxId) (a : BitVec 48), s.Runs cx ⟨false, 0⟩ → s.memOk → s.badLine (a.toNat / 128) = s.poisoned (a.toNat / 128) →
    let ln := a.toNat / 128
    let x := s.cline ln
    let c := s.cluster (s.home ln)
    let fine := a.toNat % 8 = 0 ∧ inStack a.toNat 8 = true
    let res (o : Res) (y : Option Line) (keep : Prop) : Prop := ∃ t, o = .next t ∧
      Moves s { Beneath s t with mem := t.mem, poison := t.poison } t cx ((s.ctx cx).pc + 4) (s.ctx cx) ∧
      (s.upsets = [] → t.vaults = s.vaults ∧ t.upsets = []) ∧
      t.cline ln = y ∧ (∀ n, n ≠ ln → t.cline n = s.cline n) ∧ t.memOk ∧ (keep → t.mem = s.mem ∧ t.poison = s.poison) ∧
      (∀ n, t.cluster n = { s.cluster n with lines := (t.cluster n).lines, stamp := (t.cluster n).stamp }) ∧
      SameBytesBut s t (128 * ln) 128 ∧ (∀ n, n ≠ ln → t.poisoned n = s.poisoned n) ∧
      ∀ l bs p, x = some l → l.shadow = some (bs, p) → ¬keep → t.poisoned ln = p ∧
        (bs.length = 128 → ∀ j, j < 128 → t.byte (128 * ln + j) = bs.getD j 0)
    (fine → (s.setLines ln).length < 16 → x = none →
      res (exec (.cchPrefetch cx a) s) (some ⟨.normal, 0, 0, s.stampOf ln, none⟩) True ∧
      (bits c.cchCfg 0 5 = 0 → res (exec (.cchPrefetchKeep cx a) s) (some ⟨.normal, 0, 0, s.stampOf ln, none⟩) True) ∧
      (((s.setLines ln).filter fun e => decide (e.2.cls = .keep)).length < bits c.cchCfg 0 5 →
        res (exec (.cchPrefetchKeep cx a) s) (some ⟨.keep, 0, 0, s.stampOf ln, none⟩) True)) ∧
    (fine → x = none → ∀ i, i = .cchEvictFirst cx a ∨ i = .cchWriteBack cx a ∨ i = .cchWriteBackInvalidate cx a ∨ i = .cchInvalidate cx a →
      res (exec i s) none True) ∧
    (fine → ∀ l, x = some l →
      res (exec (.cchPrefetch cx a) s) x True ∧
      res (exec (.cchPrefetchKeep cx a) s) (some { l with cls := .keep }) True ∧
      res (exec (.cchEvictFirst cx a) s) (some { l with cls := .evictFirst }) True ∧
      res (exec (.cchWriteBack cx a) s) (some { l with shadow := none }) True ∧
      res (exec (.cchWriteBackInvalidate cx a) s) none True ∧
      ((∀ q, l.shadow = some q → q.1.length = 128) → res (exec (.cchInvalidate cx a) s) none (l.shadow = none))) ∧
    (fine → ∀ v : W64, 5 < v.toNat → res (exec (.cchCtlBad cx a v) s) x True) ∧
    (fine → ∀ d, ∃ v : W64, ScalarRes (exec (.cchStateRead cx a d) s) s cx d v ∧
      (x = none → v = 0) ∧
      ∀ l, x = some l → v.toNat = 1 + (if l.shadow = none then 0 else 2) +
        (match l.cls with | .normal => 0 | .keep => 4 | .evictFirst => 8) + 16 * l.count.toNat) ∧
    (s.Faultable cx → ∀ i d v, 5 < v →
      (i = .cchPrefetch cx a ∨ i = .cchPrefetchKeep cx a ∨ i = .cchEvictFirst cx a ∨ i = .cchWriteBack cx a ∨
        i = .cchWriteBackInvalidate cx a ∨ i = .cchInvalidate cx a ∨ i = .cchCtlBad cx a (BitVec.ofNat 64 v) ∧ v < 2 ^ 64 ∨
        i = .cchStateRead cx a d) →
      (a.toNat % 8 ≠ 0 → Faults (exec i s) s cx eAlign (nameW 8 (s.own * 2 ^ 48 + cchBase + a.toNat))) ∧
      (a.toNat % 8 = 0 → inStack a.toNat 8 = false → Faults (exec i s) s cx eBounds (nameW 8 (s.own * 2 ^ 48 + cchBase + a.toNat))))



/-! ### Key-value pools and the schedule (R285-R312) -/

/-- Pools: a definition is checked in the order of R286 and starts at epoch 0; a removal needs a pool without users; an
advance raises the pending epoch, a host's staying busy until its publication, which drops the pool's look-aside entries in
every cluster and no walk in flight; a context's is published at its stream's fence; an operation while another is in progress is
refused and counted. KV_WALK makes the lookups of the next block of a tile, at most 16 reads in flight in a cluster, with entries of
the pool's published epoch, or faults the macro-instruction (R286, R287, R291, R297-R300, R304; log 44, DESIGN CHOICE). The prefix tree: LOOKUP and INSERT probe from the hash on, up to 64 slots,
until a match or an empty slot; a match takes a reference; INSERT without one makes the first removed or empty slot a node of
its parent; RELEASE gives a reference back, EVICT removes an idle leaf; HASH chains the tokens of a page. Refusals set err
and change no slot; every operation is counted and sets done (R301-R303). -/
def Obligations.KeyValue : Prop :=
  (∀ (s : State) (pool : Byte), s.boot.phase = .running →
    let p := pool.toNat
    let x := s.pool p
    let a := s.dev.kvSrc.toNat
    let f (lo w : Nat) : Nat := s.num a 64 / 2 ^ lo % 2 ^ w
    let others (t : State) : Prop := ∀ n, n ≠ p → t.pool n = s.pool n
    let ends (o : Res) (m : State → State) (e : Code) (q : State → Prop) : Prop := ∃ t, o = .next t ∧
      t = { m t with hif := t.hif, out := t.out, dev := { s.dev with kvPool := pool, kvDone := true, kvErr := e } } ∧
      Raised s t 85 ∧ q t
    let none_ (c : Code) (i : Instr) : Prop := ends (exec i s) (fun _ => s) c fun _ => True
    (∀ op, s.running .pool = some op → ∀ i who, i = .kvPoolDefine pool ∨ i = .kvPoolRemove pool ∨ i = .kvEpochAdvance who pool →
      opRow i ≠ some op → CountsOne (exec i s) s evRegWriteRefused) ∧
    (s.busy .pool = false →
      (x.defined = true → none_ eBusy (.kvPoolDefine pool)) ∧
      (x.defined = false → a % 64 = 0 → inMem a 64 = true → s.poisonIn a 64 = none →
        let plain := f 13 3 = 0 ∧ f 56 8 = 0 ∧ f 112 16 = 0 ∧ f 152 24 = 0 ∧ f 224 16 = 0 ∧ f 294 26 = 0 ∧ f 400 112 = 0 ∧
          (f 293 1 = 1 → f 0 1 = 0) ∧ f 11 2 ≠ 3
        let fmts := ∀ k, k = f 1 5 ∨ k = f 6 5 → 1 ≤ k ∧ k ≤ 5 ∨ k = 0x0B ∨ k = 0x0C
        let small := f 32 16 ≤ 4032 ∧ f 288 5 ≤ 24
        let aligned := f 64 48 % 128 = 0 ∧ f 176 48 % 4096 = 0 ∧ (f 293 1 = 1 → f 240 48 % 128 = 0)
        let inside := (f 128 24 = 0 ∨ inStack (f 64 48) (32 * f 128 24) = true) ∧ (f 0 1 = 1 → inStack (f 176 48) 32768 = true) ∧
          (f 293 1 = 1 → inStack (f 240 48) (32 * 2 ^ f 288 5) = true)
        (¬plain → none_ eOperand (.kvPoolDefine pool)) ∧ (plain → ¬fmts → none_ eFormat (.kvPoolDefine pool)) ∧
        (plain → fmts → ¬small → none_ eBounds (.kvPoolDefine pool)) ∧
        (plain → fmts → small → ¬aligned → none_ eAlign (.kvPoolDefine pool)) ∧
        (plain → fmts → small → aligned → ¬inside → none_ eBounds (.kvPoolDefine pool)) ∧
        (plain → fmts → small → aligned → inside →
          ends (exec (.kvPoolDefine pool) s) (fun t => { s with pools := t.pools }) 0 fun t => others t ∧
            ∃ img, t.pool p = ⟨true, img, 0, 0, 0⟩ ∧ img.toNat % 2 ^ 384 = s.num a 64 % 2 ^ 384 ∧ bits img 384 16 = 0)) ∧
      (x.defined = false → none_ eHandle (.kvPoolRemove pool) ∧ ∀ who, none_ eHandle (.kvEpochAdvance who pool)) ∧
      (x.defined = true → x.users ≠ 0 → none_ eBusy (.kvPoolRemove pool)) ∧
      (x.defined = true → x.users = 0 →
        ends (exec (.kvPoolRemove pool) s) (fun t => { s with pools := t.pools }) 0 fun t => others t ∧ t.pool p = .none) ∧
      (x.defined = true →
        (∃ t, exec (.kvEpochAdvance .host pool) s = .next t ∧
          t = { s with pools := t.pools, dev := { s.dev with kvPool := pool }, ops := s.ops ++ [.poolPublish pool] } ∧ others t ∧
          t.pool p = { x with pend := x.pend + 1 }) ∧
        (∀ cx, (s.ctx cx).dev.toNat ≠ s.own →
          ends (exec (.kvEpochAdvance (.ctx cx) pool) s) (fun t => { s with pools := t.pools, fars := t.fars }) 0 fun t =>
            others t ∧ t.pool p = { x with pend := x.pend + 1 } ∧
            ∀ y, s.far (s.ctx cx).dev (s.ctx cx).strm = some y → ∃ z, t.far (s.ctx cx).dev (s.ctx cx).strm = some z ∧
              pool ∈ z.epochs ∧ z = { y with epochs := z.epochs }) ∧
        ∀ cx, (s.ctx cx).dev.toNat = s.own →
          ends (exec (.kvEpochAdvance (.ctx cx) pool) s) (fun t => { s with pools := t.pools, streams := t.streams }) 0 fun t =>
            others t ∧ t.pool p = { x with pend := x.pend + 1 } ∧ SameStrmsBut s t (s.ctx cx).strm ∧
            pool ∈ (t.strm (s.ctx cx).strm).epochs ∧
            t.strm (s.ctx cx).strm = { s.strm (s.ctx cx).strm with epochs := (t.strm (s.ctx cx).strm).epochs })) ∧
    (s.running .pool ≠ some (.poolPublish pool) → exec (.kvEpochPublish pool) s = .next s) ∧
    (s.running .pool = some (.poolPublish pool) → ∃ t, exec (.kvEpochPublish pool) s = .next t ∧
      t = { s with pools := t.pools, clusters := t.clusters, hif := t.hif, out := t.out, ops := s.ops.erase (.poolPublish pool), dev := { s.dev with kvDone := true, kvErr := 0 } } ∧ Raised s t 85 ∧ others t ∧ t.pool p = { x with epoch := x.pend } ∧
      ∀ c, t.cluster c = { s.cluster c with walkLab := (t.cluster c).walkLab, xlatLab := (t.cluster c).xlatLab } ∧
        ∀ e, (e ∈ (t.cluster c).walkLab ↔ e ∈ (s.cluster c).walkLab ∧ e.pool ≠ pool) ∧
          (e ∈ (t.cluster c).xlatLab ↔ e ∈ (s.cluster c).xlatLab ∧ e.pool ≠ pool)) ∧
    ∀ (core : CoreId) (i : StreamId) (k : W64) (idx j : Nat) (x : Tile) (m : MI), s.up = true →
      let c := core.toNat
      let cl := c / 16
      (s.core c).tiles.find? (fun y => decide (y.strm = i) && decide (y.ticket = k) && decide (y.idx = idx)) = some x →
      s.tileMi x = some m → hasRole m.recs rolePool = true → m.mayRun x = true → s.allHere m = true →
      let go := exec (.kvWalk core i k idx j) s
      let q := s.walkOn c m x j
      let fits (e : LabEntry) : Prop := e.pool.toNat = poolIdx m.recs % 256 ∧ e.epoch = (s.pool (poolIdx m.recs)).epoch
      (x.walked j = true ∨ s.mayWalk m x j = false → go = .next s) ∧
      (x.walked j = false → s.mayWalk m x j = true → (∀ ln, s.badLine ln = s.poisoned ln) →
        (q.bad = none → ∃ t w, go = .next t ∧ w.block = j ∧
          t = { Beneath s t with cores := t.cores, evt := Counted s t } ∧ (∀ n, n ≠ c → t.core n = s.core n) ∧
          t.core c = { s.core c with tiles := (s.core c).tiles.map fun y => if y.same x then { y with cursor := q.cur, walks := w :: y.walks.filter fun z => decide (z.block ≠ j) } else y } ∧
          (∀ e ∈ w.ents ++ w.fly, fits e ∨ ∃ z ∈ x.walks, e ∈ z.ents ++ z.fly) ∧
          (s.walksIn cl ≤ 16 → t.walksIn cl ≤ 16) ∧
          (∀ n, t.cluster n = { s.cluster n with walkLab := (t.cluster n).walkLab, xlatLab := (t.cluster n).xlatLab, lines := (t.cluster n).lines, stamp := (t.cluster n).stamp }) ∧
          ∀ e, e ∈ (t.cluster cl).walkLab ++ (t.cluster cl).xlatLab → e ∈ (s.cluster cl).walkLab ++ (s.cluster cl).xlatLab ∨ fits e ∨ ∃ z ∈ x.walks, e ∈ z.fly) ∧
        ∀ e w, q.bad = some (e, w) → m.home.toNat = s.own → s.flt.lockstep = false →
          ∃ t, go = .next t ∧ t.mem = s.mem ∧
            (∀ y ∈ t.mis, y.home = m.home → y.strm = i → y.ticket = k → y.faulted = true ∧ y.stopped = true) ∧
            (∀ y ∈ (t.core c).tiles, y.same x = false) ∧
            (⟨e, 0, BitVec.ofNat 16 c, some i, w, 0⟩, 1, s.time) ∈ t.flt.latch)) ∧
  ∀ (s : State) (i : StreamId) (pool : Byte) (slot : W32), s.boot.phase = .running → (∀ q ∈ s.ops, q.isTree = false) →
    (∀ ln, s.badLine ln = s.poisoned ln) →
    let p := s.pool pool.toNat
    let r := s.sreg i
    let n := 2 ^ treeLog2 p.img
    let sl := slot.toNat
    let nd (t : State) (k : Nat) : Node := t.node p k
    let alive := sl < n ∧ (nd s sl).state = 1
    let usable := sl = 0xFFFFFFFF ∨ alive
    let at_ (d : Nat) : Nat := (r.treeArg0.toNat + d) % n
    let hit (k : Nat) : Prop := (nd s k).state = 1 ∧ (nd s k).hash = r.treeArg0.toNat ∧ (nd s k).parent = sl
    let found (k : Nat) : Prop := ∃ d, d < min 64 n ∧ k = at_ d ∧ hit k ∧ ∀ e, e < d → (nd s (at_ e)).state ≠ 0 ∧ ¬hit (at_ e)
    let free (k : Nat) : Prop := ∃ d, d < min 64 n ∧ k = at_ d ∧ ((nd s k).state = 0 ∨ (nd s k).state = 2) ∧
      ∀ e, e < d → (nd s (at_ e)).state ≠ 0 ∧ (nd s (at_ e)).state ≠ 2
    let ends (c : Instr) (m : State → State) (err : Code) (fnd slotOut : Nat) (arg1 : W64) (q : State → Prop) : Prop :=
      ∃ t, exec c s = .next t ∧ t = { m t with sregs := t.sregs, evt := Counted s t } ∧ (∀ j, j ≠ i → t.sreg j = s.sreg j) ∧
        t.sreg i = { r with treePool := pool, treeSlot := slot, treeArg1 := arg1, treeStatus := BitVec.ofNat 64 (2 + 4 * fnd + err.toNat * 2 ^ 16 + slotOut * 2 ^ 32) } ∧ q t
    let no (c : Instr) (err : Code) : Prop := ends c (fun _ => s) err 0 0 r.treeArg1 fun _ => True
    let changed (l : List (Nat × Node)) (t : State) : Prop := t.memOk ∧ (∀ e ∈ l, nd t e.1 = e.2) ∧
      (∀ k, k < n → (∀ e ∈ l, e.1 ≠ k) → nd t k = nd s k) ∧
      ∀ a, a < treeAddr p.img ∨ treeAddr p.img + 32 * n ≤ a → t.byte a = s.byte a
    let touch (t : State) : State := { Beneath s t with mem := t.mem }
    let held (k : Nat) : Node := { nd s k with refs := min ((nd s k).refs + 1) 0xFFFFFFFF }
    let all (c : Instr) : Prop := c = .kvTreeHash i pool slot ∨ c = .kvTreeLookup i pool slot ∨ c = .kvTreeInsert i pool slot ∨
      c = .kvTreeRelease i pool slot ∨ c = .kvTreeEvict i pool slot
    (∀ c, all c → (p.defined = false → no c eHandle) ∧ (p.defined = true → treeEn p.img = false → no c eOperand)) ∧
    (∀ op, op = 6 ∨ op = 7 → no (.kvTreeOpRefused i pool slot op) eHandle) ∧
    (p.defined = true → treeEn p.img = true →
      (¬usable → no (.kvTreeHash i pool slot) eHandle ∧ no (.kvTreeLookup i pool slot) eHandle ∧ no (.kvTreeInsert i pool slot) eHandle) ∧
      (¬alive → no (.kvTreeRelease i pool slot) eHandle ∧ no (.kvTreeEvict i pool slot) eHandle) ∧
      (usable → r.treeArg0.toNat % 128 = 0 → inMem r.treeArg0.toNat 1024 = true → s.poisonIn r.treeArg0.toNat 1024 = none →
        ends (.kvTreeHash i pool slot) (fun _ => s) 0 0 0
          (pageHash (if sl = 0xFFFFFFFF then BitVec.ofNat 64 (bits p.img 320 64) else BitVec.ofNat 64 (nd s sl).hash)
            fun k => BitVec.ofNat 32 (s.num (r.treeArg0.toNat + 4 * k) 4)) fun _ => True) ∧
      (usable → (∀ k, ¬found k) → ends (.kvTreeLookup i pool slot) (fun _ => s) 0 0 0 r.treeArg1 fun _ => True) ∧
      (usable → ¬(bits r.treeArg1 0 2 = 1 ∧ bits r.treeArg1 2 3 = 4 ∧ bit r.treeArg1 5 = false ∧ bit r.treeArg1 63 = false) →
        no (.kvTreeInsert i pool slot) eKvPage) ∧
      (alive → (nd s sl).refs = 0 → no (.kvTreeRelease i pool slot) eBounds) ∧
      (alive → (nd s sl).refs ≠ 0 ∨ (nd s sl).children ≠ 0 → no (.kvTreeEvict i pool slot) eBusy) ∧
      (s.memOk → treeAddr p.img % 128 = 0 → inStack (treeAddr p.img) (32 * n) = true → n ≤ 2 ^ 24 →
        (∀ k, usable → found k → ends (.kvTreeLookup i pool slot) touch 0 1 k r.treeArg1 (changed [(k, held k)])) ∧
        (usable → sharedPte r.treeArg1 = true →
          (∀ k, found k → ends (.kvTreeInsert i pool slot) touch 0 1 k r.treeArg1 (changed [(k, held k)])) ∧
          ((∀ k, ¬found k) → (∀ k, ¬free k) → no (.kvTreeInsert i pool slot) eKvTreeFull) ∧
          ∀ k, (∀ k, ¬found k) → free k →
            (sl = 0xFFFFFFFF → ends (.kvTreeInsert i pool slot) touch 0 0 k r.treeArg1
              (changed [(k, ⟨1, 1, 1, 0, 0xFFFFFFFF, r.treeArg0.toNat, r.treeArg1.toNat⟩)])) ∧
            (sl ≠ 0xFFFFFFFF → (nd s sl).depth < 65535 → (nd s sl).children < 0xFFFFFFFF →
              ends (.kvTreeInsert i pool slot) touch 0 0 k r.treeArg1
                (changed [(k, ⟨1, (nd s sl).depth + 1, 1, 0, sl, r.treeArg0.toNat, r.treeArg1.toNat⟩),
                  (sl, { nd s sl with children := (nd s sl).children + 1 })]))) ∧
        (alive → (nd s sl).refs ≠ 0 →
          ends (.kvTreeRelease i pool slot) touch 0 0 0 r.treeArg1 (changed [(sl, { nd s sl with refs := (nd s sl).refs - 1 })])) ∧
        (alive → (nd s sl).refs = 0 → (nd s sl).children = 0 →
          let up := (nd s sl).parent
          let live := up < n ∧ (nd s up).state = 1 ∧ up ≠ sl
          (¬live → ends (.kvTreeEvict i pool slot) touch 0 0 0 (BitVec.ofNat 64 (nd s sl).pte) (changed [(sl, { nd s sl with state := 2 })])) ∧
          (live → ends (.kvTreeEvict i pool slot) touch 0 0 0 (BitVec.ofNat 64 (nd s sl).pte)
            (changed [(sl, { nd s sl with state := 2 }), (up, { nd s up with children := (nd s up).children - 1 })])))))

/-- The schedule: SCHED_LR holds the rate and cycle that R308's program gives for SCHED_STEP, whoever reads it, in fp32 operations
rounded one by one; where an image brings in registers that R310 forbids, what they give depends on them alone (log 45, DESIGN
CHOICE); a write that R310 forbids keeps the register, sets err to E_OPERAND and is counted; an accepted one clears
err (R307-R310). -/
def Obligations.Schedules : Prop :=
  ∀ (s : State) (i : StreamId), s.boot.phase = .running →
    let r := s.sreg i
    let kind := r.schedProg.toNat % 8
    let restart := bit r.schedProg 3
    let mult := r.schedProg.toNat / 16 % 16
    let warm := r.schedProg.toNat / 2 ^ 32
    let peak := r.schedParam.toNat % 2 ^ 32
    let floor := r.schedParam.toNat / 2 ^ 32
    let period := r.schedShape.toNat % 2 ^ 32
    let gamma := r.schedShape.toNat / 2 ^ 32
    let n := r.schedStep.toNat
    let rate (d : Nat) : Nat := f32mul peak (f32add floor (f32mul (f32sub f32one floor) d))
    let len (j : Nat) : Nat := min (period * mult ^ j) (2 ^ 48)
    let spent (c : Nat) : Nat := ((List.range c).map len).sum
    (∃ lr cyc : Nat, lr < 2 ^ 32 ∧ cyc < 2 ^ 16 ∧
      (∃ t, exec (.schedLrRead .host i) s = .next t ∧
        t = { s with evt := Counted s t, out := { s.out with replies := s.out.replies ++ [.value (BitVec.ofNat 64 (lr + cyc * 2 ^ 32 + r.schedErr.toNat * 2 ^ 48))] } }) ∧
      (∀ cx, CountsOne (exec (.schedLrRead (.ctx cx) i) s) s evSchedEvals) ∧
      (n < warm → lr = f32mul peak (f32div (f32int (n + 1)) (f32int warm)) ∧ cyc = 0) ∧
      (warm ≤ n → kind = 0 ∨ period = 0 → lr = rate f32one ∧ cyc = 0) ∧
      (warm ≤ n → 0 < period → 4 < kind ∨ 0 < kind ∧ restart = true ∧ mult = 0 ∧ period ≤ n - warm →
        lr = (Config.schedFree r.schedProg r.schedParam r.schedShape r.schedStep).1.toNat ∧
        cyc = (Config.schedFree r.schedProg r.schedParam r.schedShape r.schedStep).2.toNat) ∧
      (warm ≤ n → 0 < kind → kind ≤ 4 → 0 < period → ∃ c u l, cyc = min c 0xFFFF ∧
        (restart = false ∨ mult = 0 → n - warm < period ∨ restart = false → c = 0 ∧ u = n - warm ∧ l = period) ∧
        (restart = true → 1 ≤ mult → spent c ≤ n - warm ∧ u = n - warm - spent c ∧ l = len c ∧ u < l) ∧
        (restart = true ∧ mult = 0 ∧ period ≤ n - warm ∨
          let frac := f32div (f32int (min u l)) (f32int l)
          (kind = 1 → lr = rate (f32sub f32one frac)) ∧
          (kind = 2 → lr = rate (f32mul f32half (f32add f32one (f32fn 5 frac)))) ∧
          (kind = 3 → lr = rate (f32fn 0 (f32mul (f32int (min u l)) (f32fn 1 gamma)))) ∧
          (kind = 4 → lr = rate (f32fn 3 (f32add f32one frac)))))) ∧
    ∀ (which : SchedReg) (v : W64),
      let q : StreamRegs := match which with
        | .prog => { r with schedProg := BitVec.ofNat 64 (v.toNat / 2 ^ 32 * 2 ^ 32 + v.toNat % 256) }
        | .param => { r with schedParam := v }
        | .shape => { r with schedShape := v }
      let pk := q.schedParam.toNat % 2 ^ 32
      let fl := q.schedParam.toNat / 2 ^ 32
      let ga := q.schedShape.toNat / 2 ^ 32
      let bad := 4 < q.schedProg.toNat % 8 ∨ bit q.schedProg 3 = true ∧ q.schedProg.toNat / 16 % 16 = 0 ∨ 0x7F800000 ≤ pk ∨
        0x3F800000 < fl ∨ q.schedProg.toNat % 8 = 3 ∧ (ga = 0 ∨ 0x3F800000 < ga)
      pk ≠ 0x80000000 → fl ≠ 0x80000000 →
        (¬bad → exec (.schedWrite i which v) s = .next (s.setSreg i { q with schedErr := 0 })) ∧
        (bad → ∃ t, exec (.schedWrite i which v) s = .next t ∧ t = { s with sregs := t.sregs, evt := Counted s t } ∧
          (∀ j, j ≠ i → t.sreg j = s.sreg j) ∧ t.sreg i = { r with schedErr := eOperand })

/-! ### Video engines (R317-R347) -/

/-- Video rings: a write of VID_RING or VID_CPL with a bad size or base, one that changes an enabled ring, or an enable with
a ring larger than its completion ring, is counted and keeps the register; enabling starts at head 0. A doorbell ends a wait.
An engine takes the head entry if its seq is the head's, else waits; a job that fails a check is due its record at once. The
record of a finished job is 64 bytes at its place in the completion ring, the head moves on, and the cause is raised if asked
for (R323-R326, R344, R346). Video jobs: OPEN installs the descriptor it accepts in the session, or ends with the first
error; CLOSE closes it; an encode FRAME codes the converted picture with the session's history into a bitstream within the cap, or
ends with E_BOUNDS where the buffer is short, follows the key and refresh cadence and uses no tool R318 forbids; a decode FRAME
decodes a unit, conceals damaged blocks, and ends with the status its errors ask for and faults nothing. What either leaves behind
depends on the session, the entry and what the job reads, and on nothing else; memory outside the session's frame stores and the
job's own buffers keeps (R318, R319, R328, R329, R333-R343). What the coding standards and the engine's own decisions give are free
functions of those (log 15, DESIGN CHOICE). -/
def Obligations.Video : Prop :=
  (∀ (s : State) (eng : EngineId), eng.toNat < 10 →
    let e := eng.toNat
    let x := s.engine e
    let only (t : State) (y : Engine) : Prop := t.engine e = y ∧ ∀ n, n ≠ e → t.engine n = s.engine n
    let res (o : Res) (y : Engine) : Prop := ∃ t, o = .next t ∧ t = { s with engines := t.engines, evt := Counted s t } ∧ only t y
    (s.boot.phase = .running → ∀ v : W64,
      let n := v.toNat / 2 ^ 48 % 16
      let c := x.cpl.toNat / 2 ^ 48 % 16
      let fine := 4 ≤ n ∧ n ≤ 12 ∧ v.toNat % 4096 = 0
      let on := bit v 52 = true
      let was := bit x.ring 52 = true
      let same (r : W64) : Prop := v.toNat % 2 ^ 52 = r.toNat % 2 ^ 52
      (¬fine ∨ was ∧ ¬same x.ring ∨ on ∧ c < n ∨ on ∧ x.withheld = true →
        CountsOne (exec (.vidRingWrite eng false v) s) s evRegWriteRefused) ∧
      (fine → (was → same x.ring) → (on → n ≤ c ∧ x.withheld = false) →
        (on → ¬was → res (exec (.vidRingWrite eng false v) s) { x with ring := BitVec.ofNat 64 (v.toNat % 2 ^ 53), head := 0, waiting := false }) ∧
        (¬on ∨ was → res (exec (.vidRingWrite eng false v) s) { x with ring := BitVec.ofNat 64 (v.toNat % 2 ^ 53) })) ∧
      (¬fine ∨ was ∧ v.toNat % 2 ^ 52 ≠ x.cpl.toNat → CountsOne (exec (.vidRingWrite eng true v) s) s evRegWriteRefused) ∧
      (fine → (was → v.toNat % 2 ^ 52 = x.cpl.toNat) →
        res (exec (.vidRingWrite eng true v) s) { x with cpl := BitVec.ofNat 64 (v.toNat % 2 ^ 52) }) ∧
      res (exec (.vidDb eng) s) { x with waiting := false }) ∧
    (s.up = true → bit x.ring 52 = true → x.job = none → x.waiting = false →
      let a := x.ring.toNat % 2 ^ 48 + 64 * (x.head.toNat % 2 ^ (x.ring.toNat / 2 ^ 48 % 16))
      let j : BitVec 512 := BitVec.ofNat 512 (s.num a 64)
      let f (lo w : Nat) : Nat := s.num a 64 / 2 ^ lo % 2 ^ w
      let job (err : Code) (done : Bool) : Job := ⟨j, s.time, err, 0, 0, 0, 0, 0, 0, 0, done⟩
      let enc := decide (e < 6)
      let plain := f 16 2 ≠ 0 ∧ f 26 6 = 0 ∧ f 112 16 = 0 ∧ f 320 192 = 0 ∧ (f 16 2 = 2 ∧ (enc = true ∨ f 23 2 = 0) ∨ f 16 2 ≠ 2 ∧ f 23 3 = 0)
      (f 0 16 ≠ x.head.toNat → res (exec (.vidJobTake eng) s) { x with waiting := true }) ∧
      (f 0 16 = x.head.toNat → s.poisonIn a 64 = none →
        (¬plain → s.jobErr e j = eOperand) ∧
        (plain → ((x.session (f 18 4)).isSome = true ↔ f 16 2 = 1) → s.jobErr e j = eState) ∧
        (plain → ((x.session (f 18 4)).isSome = true ↔ f 16 2 ≠ 1) →
          (f 16 2 ≠ 3 ∧ f 64 48 % 128 ≠ 0 ∨ f 16 2 = 2 ∧ (f 128 64 % 128 ≠ 0 ∨ enc = true ∧ f 24 1 = 1 ∧ f 224 48 % 128 ≠ 0 ∨
            f 25 1 = 1 ∧ f 272 48 % 128 ≠ 0)) → s.jobErr e j = eAlign) ∧
        (s.jobErr e j = 0 → res (exec (.vidJobTake eng) s) { x with job := some (job 0 false) }) ∧
        (s.jobErr e j ≠ 0 → res (exec (.vidJobTake eng) s) { x with job := some (job (s.jobErr e j) true), refused := satInc x.refused }))) ∧
    ∀ j, s.up = true → x.job = some j → j.finished = true → s.memOk → (∀ ln, s.badLine ln = s.poisoned ln) →
      let a := x.cpl.toNat % 2 ^ 48 + 64 * (x.head.toNat % 2 ^ (x.cpl.toNat / 2 ^ 48 % 16))
      inStack a 64 = true → ∃ t n, exec (.vidJobComplete eng) s = .next t ∧
        t = { Beneath s t with engines := t.engines, mem := t.mem, poison := t.poison, hif := t.hif, out := t.out, freeCtr := t.freeCtr, evt := Counted s t } ∧
        only t { x with job := none, head := x.head + 1, lastErr := if j.status = 0 then x.lastErr else j.status } ∧ t.memOk ∧
        (bit j.entry 22 = true → Raised s t (64 + e)) ∧ (bit j.entry 22 = false → t.hif = s.hif ∧ t.out = s.out) ∧
        SameBytesBut s t a 64 ∧ (∀ k, k < 64 → (t.byte (a + k)).toNat = n / 256 ^ k % 256) ∧ n < 2 ^ 512 ∧
        n % 2 ^ 16 = x.head.toNat ∧ n / 2 ^ 16 % 4 = bits j.entry 16 2 ∧ n / 2 ^ 18 % 16 = bits j.entry 18 4 ∧
        n / 2 ^ 32 % 2 ^ 32 = bits j.entry 32 32 ∧ n / 2 ^ 64 % 2 ^ 16 = j.status.toNat ∧ n / 2 ^ 80 % 2 ^ 16 = j.cycle.toNat ∧
        n / 2 ^ 96 % 2 ^ 32 = j.bytes.toNat ∧ n / 2 ^ 128 % 2 ^ 32 = j.picture.toNat ∧ n / 2 ^ 160 % 256 = j.kind.toNat ∧
        n / 2 ^ 168 % 256 = j.q.toNat ∧ n / 2 ^ 176 % 2 ^ 32 = j.blocksA.toNat ∧ n / 2 ^ 208 % 2 ^ 32 = j.blocksB.toNat ∧
        n / 2 ^ 240 % 2 ^ 64 = j.tStart.toNat ∧ n / 2 ^ 304 % 2 ^ 64 = s.time.toNat) ∧
  (∀ (s : State) (eng : EngineId) (j : Job), eng.toNat < 10 → s.up = true → s.memOk → (s.engine eng.toNat).job = some j → j.finished = false →
    let e := eng.toNat
    let x := s.engine e
    let k := jSession j.entry
    let enc := decide (e < 6)
    let out (t : State) (y : Job) (z : Option Session) : Prop := (∀ n, n ≠ e → t.engine n = s.engine n) ∧
      t.engine e = { x with job := some { y with finished := true }, sessions := (t.engine e).sessions } ∧
      (t.engine e).session k = z ∧ (∀ q, q ≠ k → (t.engine e).session q = x.session q) ∧ t.memOk
    let stores (d : BitVec 1024) : Nat × Nat := ((refArea enc d).1, (storesOf enc d).1 * (storesOf enc d).2)
    let away (a : Nat) (r : Nat × Nat) : Prop := a < r.1 ∨ r.1 + r.2 ≤ a
    let d : BitVec 1024 := BitVec.ofNat 1024 (s.num (jIn j.entry) 128)
    (jOp j.entry = 1 → s.poisonIn (jIn j.entry) 128 = none →
      (s.openErr e d ≠ 0 → ∃ t, exec (.vidOpen eng) s = .next t ∧ t = { s with engines := t.engines } ∧
        out t { j with status := s.openErr e d } (x.session k)) ∧
      (s.openErr e d = 0 → ∃ t, exec (.vidOpen eng) s = .next t ∧
        t = { s with engines := t.engines, mem := t.mem, unspec := t.unspec, freeCtr := s.freeCtr + 1 } ∧
        out t j (some (Session.new d)) ∧ ∀ a, away a (stores d) → t.byte a = s.byte a)) ∧
    (jOp j.entry = 3 → ∃ t, exec (.vidClose eng) s = .next t ∧ t = { s with engines := t.engines } ∧ out t j none) ∧
    (∀ z, jOp j.entry = 2 → enc = true → x.session k = some z →
      let c := z.desc
      let name := BitVec.ofNat 32 z.pictures
      (bit j.entry 24 = true → s.roiOk (jRoi j.entry) c = false → ∃ t, exec (.vidFrameEncode eng) s = .next t ∧
        t = { s with engines := t.engines } ∧ out t { j with picture := name, status := eOperand } (some z)) ∧
      ((bit j.entry 24 = true → s.roiOk (jRoi j.entry) c = true) →
        ((∃ r ∈ encReads c j.entry, s.poisonIn r.1 r.2 ≠ none) → ∃ t, exec (.vidFrameEncode eng) s = .next t ∧
          t = { s with engines := t.engines, evt := Counted s t } ∧
          out t { j with picture := name, status := eStackUe } (some { z with pictures := z.pictures + 1 })) ∧
        let past := z.past ++ [s.encodeInput c j.entry]
        let key := !z.hasRef || bit j.entry 23 || (decide (bits c 250 16 ≠ 0) && decide (bits c 250 16 ≤ z.sinceKey))
        let f := if key then 0 else z.sinceKey + 1
        let cyc := if bits c 240 2 ≠ 0 ∧ 0 < f then (f - 1) % bits c 242 8 else 0
        let code := codePicture c past key cyc z.refs
        let bs := pictureBytes c past (codedUnits c f cyc code)
        let full := jLen j.entry < bs.length
        let ws := if full then (Config.cutStream c past).take (jLen j.entry) else bs
        (bit c 224 = true → bs.length ≤ bits c 192 32) ∧
        ((∀ r ∈ encReads c j.entry, s.poisonIn r.1 r.2 = none) → jOut j.entry / 2 ^ 48 = s.own →
          inMem (jOut j.entry % 2 ^ 48) ws.length = true → (∀ ln, s.badLine ln = s.poisoned ln) →
          ∃ t, exec (.vidFrameEncode eng) s = .next t ∧
          t = { Stored s t with engines := t.engines, unspec := t.unspec, freeCtr := s.freeCtr + 1, evt := Counted s t } ∧
          out t { j with picture := name, status := if full then eBounds else 0, bytes := BitVec.ofNat 32 bs.length, cycle := BitVec.ofNat 16 cyc, kind := if key then 0 else if bits c 240 2 ≠ 0 then 2 else 1, q := meanQuant code, blocksA := BitVec.ofNat 32 (code.blocks.filter BlockCode.intra).length }
            (some (if full then { z with pictures := z.pictures + 1, past := past } else { z with pictures := z.pictures + 1, past := past, sinceKey := f, hasRef := true, refs := z.nextRefs code })) ∧
          (∀ i, i < ws.length → t.byte (jOut j.entry % 2 ^ 48 + i) = ws.getD i 0) ∧
          ∀ a, away a (stores c) → away a (jOut j.entry % 2 ^ 48, ws.length) → t.byte a = s.byte a))) ∧
    (∀ z (ic : Nat), jOp j.entry = 2 → enc = false → x.session k = some z → (∀ ln, s.badLine ln = s.poisoned ln) →
      let c := z.desc
      let past := z.past ++ [s.decodeInput j.entry]
      let u := Config.readUnit c past
      let q := (z.admits u).1
      let shown := (z.admits u).2.2 = true ∧ q ≠ none
      let p := decodePicture c past (q.getD default) u z.pics
      let ws := (outRows c past u p).map (fun r => (jOut j.entry + r.1, r.2)) ++ (if bit j.entry 25 then [(jAux j.entry, taintMap p)] else [])
      let cond := shown → (∀ w ∈ ws, inMem w.1 w.2.length = true) ∧
        ws.Pairwise (fun v w => v.1 + v.2.length ≤ w.1 ∨ w.1 + w.2.length ≤ v.1)
      cond → ∃ t y, exec (.vidFrameDecode eng ic) s = .next t ∧
        t = { Stored s t with engines := t.engines, unspec := t.unspec, freeCtr := s.freeCtr + 1, evt := Counted s t } ∧
        y = { j with status := y.status, bytes := BitVec.ofNat 32 (min u.consumed (jLen j.entry)), picture := BitVec.ofNat 32 z.pictures, kind := y.kind, q := u.q, blocksA := y.blocksA, blocksB := y.blocksB } ∧
        y.status = (if jLen j.entry ≠ 0 ∧ s.poisonIn (jIn j.entry) (jLen j.entry) ≠ none then eStackUe else (z.decodeErrs u).1) ∧
        (∀ a, away a (stores c) → (shown → ∀ w ∈ ws, away a (w.1, w.2.length)) → t.byte a = s.byte a) ∧
        (¬shown → y.kind = 3 ∧ y.blocksA = j.blocksA ∧ y.blocksB = j.blocksB ∧
          out t y (some { z with past := past, seq := q, want := (z.admits u).2.1 })) ∧
        (shown → y.kind = (if u.key then 0 else 1) ∧ y.blocksB = BitVec.ofNat 32 (p.taint.filter id).length ∧
          y.blocksA = BitVec.ofNat 32 (decodedBlocks u p).2 ∧
          out t y (some { z with past := past, seq := q, want := (z.admits u).2.1, pictures := z.pictures + 1, hasRef := true, pics := (p :: z.pics).take (bits c 112 5) }) ∧
          ∀ w ∈ ws, ∀ i, i < w.2.length → t.byte (w.1 + i) = w.2.getD i 0)) ∧
    ∀ (s' : State) (z : Session),
      (∀ r ∈ encReads z.desc j.entry, ∀ i, s.byte (r.1 + i) = s'.byte (r.1 + i)) → s.encodeInput z.desc j.entry = s'.encodeInput z.desc j.entry) ∧
  (∀ (d : BitVec 1024) (past : List FrameIn) (key : Bool) (c : Nat) (refs : List (List (Option Vec))),
    let p := codePicture d past key c refs
    p.blocks.length = blocksOf (dOutW d) (dOutH d) ∧ ∀ b ∈ p.blocks, b.preds.length ≤ 2 ∧ (b.intra = true ↔ b.preds = []) ∧
      (key = true → b.intra = true) ∧ (∀ w ∈ b.tools, toolUsed (dAv1 d) w = true) ∧
      (quantRange d).1 ≤ b.quant ∧ b.quant ≤ (quantRange d).2) ∧
  (∀ (rd : Nat → Nat) (d : BitVec 1024), ∀ l ∈ codedPlanes rd d, ∀ v ∈ l, v ≤ if bit d 2 then 1023 else 255) ∧
  ∀ (d : BitVec 1024) (past : List FrameIn) (q : SeqHeader) (u : UnitRead) (pics : List Pic), u.frameBad = true →
    let p := decodePicture d past q u pics
    let grey := if q.depth10 then 512 else 128
    p.w = q.w ∧ p.h = q.h ∧ (∀ b ∈ p.taint, b = true) ∧
    (bit d 4 = false ∨ pics = [] → ∀ l ∈ p.planes, ∀ v ∈ l, v = grey) ∧
    ∀ y ys, bit d 4 = true → pics = y :: ys → y.vecs = [] → y.w = q.w → y.h = q.h → ∀ i k, i < q.w → k < q.h →
      (p.planes.getD 0 []).getD (k * q.w + i) 0 = (y.planes.getD 0 []).getD (k * q.w + i) grey % (if q.depth10 then 1024 else 256)

/-! ### The fabric (R348-R380) -/

/-- Ports: training ends with four lanes, a healthy pair, or down; a flit that fails its checks is counted and answered by a nak;
a nak has the flits after the one acknowledged sent again, 16 times at most; a data flit in order is taken, any other is not; an
ack is due after 200 ns and after 32 data flits, the slots of the packets taken go back as credits; exhausted credits are reported. A port that goes down reports E_LINK_DOWN, and its packets, atomics that
may have been executed excepted, go over another port of their route (R349-R354, R424). -/
def Obligations.Ports : Prop :=
  ∀ (s : State) (port : PortId), s.up = true → s.Quiet → s.flt.lockstep = false →
    let p := port.toNat
    let x := s.port p
    let may := x.enable = true ∧ bit s.pins.prsnt p = true
    let pair (h : BitVec 4) : Prop := h ≠ 15 ∧ (h.toNat % 4 = 3 ∨ h.toNat / 4 = 3)
    let lost (h : BitVec 4) : Prop := h.toNat % 4 ≠ 3 ∧ h.toNat / 4 ≠ 3
    let credits (ks : List Packet) : List Sent := (List.range 3).filterMap fun vc =>
      let n := ((ks.filter fun k => decide ((if k.typ.toNat < 0x10 then 0 else if k.typ.toNat < 0x20 then 1 else 2) = vc)).map pktSlots).sum
      if n = 0 then none else some (.credits p vc n)
    let dry : Prop := 2048 ≤ tget 0 x.used 0 ∨ 2048 ≤ tget 0 x.used 1 ∨
      ∃ k ks, x.queue = k :: ks ∧ k.typ.toNat < 0x20 ∧ 2048 < tget 0 x.used (if k.typ.toNat < 0x10 then 0 else 1) + pktSlots k
    let down (o : Res) (s : State) : Prop := ∃ t, o = .next t ∧ t.mem = s.mem ∧
      (t.port p).up = false ∧ (t.port p).replay = [] ∧ (t.port p).queue = [] ∧ (t.port p).downs = satInc x.downs ∧
      bit t.hif.pend 84 = true ∧ (⟨eLinkDown, 3, BitVec.ofNat 16 p, none, nameW 11 p, 0⟩, 0, s.time) ∈ t.flt.latch ∧
      (∀ k, (k ∈ x.replay.flatMap Prod.snd ∧ k.typ ≠ 0x05) ∨ k ∈ x.queue → Sends (s.modPort p fun x => { x with link := .down }) t k) ∧
      (x.replay = [] → x.queue = [] → ∃ su, t = { s with ports := t.ports, out := t.out, hif := t.hif, evt := Counted s t, flt := { s.flt with latch := t.flt.latch }, fab := { s.fab with suspects := su } } ∧
        ∀ n, n ≠ p → t.port n = s.port n)
    (may → x.link = .down → PortRes (exec (.portTrain port) s) s p { x with link := .training } []) ∧
    (¬may ∨ x.link ≠ .down → exec (.portTrain port) s = .next s) ∧
    (∀ h, may → x.link = .training → x.queue = [] → h = 15 ∨ pair h →
      let i : HelloInfo := ⟨BitVec.ofNat 16 s.own, s.fab.mstate, s.fab.hw, s.fab.epoch, BitVec.ofNat 17 (s.fab.cfg.toNat / 2 ^ 16 % 2 ^ 17), false⟩
      PortRes (exec (.portUp port h) s) s p { x with link := if h = 15 then .up4 else .up2, foreign := false, splitTold := false }
        (if s.fab.mstate = .out then [] else [.hello p i])) ∧
    (∀ h, x.link = .training → lost h → ∃ t, exec (.portUp port h) s = .next t ∧ (t.port p).link = .down ∧ t.mem = s.mem) ∧
    (x.up = true →
      (∀ h, pair h → PortRes (exec (.laneFail port h) s) s p { x with link := .up2 } []) ∧
      (∀ h, lost h → down (exec (.laneFail port h) s) s) ∧ exec (.laneFail port 15) s = .next s ∧
      down (exec (.portDown port) s) s ∧
      (∀ f fec, fec = none ∨ flitOk f = false →
        PortRes (exec (.flitReceive port fec f) s) s p { x with retries := satInc x.retries } [.nak p (x.rxNext - 1)]) ∧
      (∀ f n, flitOk f = true → x.queue = [] →
        let i := x.replay.findIdx? fun e => decide (e.1.toNat = bits f 16 12)
        let left := match i with | some i => x.replay.drop (i + 1) | none => x.replay
        let y : Port := { x with replay := left, resends := (if i.isSome then 0 else x.resends), used := tmod 0 x.used (bits f 42 2) fun n => n - bits f 32 10 }
        let got := parseSlots (x.rxSlots.length + 15) (x.rxSlots ++ flitSlots f)
        let z : Port := { y with rxNext := x.rxNext + 1, rxSlots := got.2 }
        (bit f 28 = true → left ≠ [] → y.resends < 15 → bits f 12 4 ≠ 1 →
          PortRes (exec (.flitReceive port (some n) f) s) s p { y with resends := y.resends + 1 } [.resend p (left.map Prod.fst)]) ∧
        (bit f 28 = false → bits f 12 4 ≠ 1 ∨ bits f 0 12 ≠ x.rxNext.toNat → PortRes (exec (.flitReceive port (some n) f) s) s p y []) ∧
        (bit f 28 = false → bits f 12 4 = 1 → bits f 0 12 = x.rxNext.toNat →
          (∃ t, exec (.flitReceive port (some n) f) s = .next t ∧ (t.port p).rxNext = x.rxNext + 1 ∧ (t.port p).rxSlots = got.2 ∧
            ∀ m ∈ credits got.1, m ∈ t.out.sent) ∧
          (x.foreign = true ∨ got.1 = [] →
            (x.unacked < 31 → PortRes (exec (.flitReceive port (some n) f) s) s p { z with unacked := x.unacked + 1 } (credits got.1)) ∧
            (31 ≤ x.unacked → PortRes (exec (.flitReceive port (some n) f) s) s p { z with unacked := 0 } (credits got.1 ++ [.ackFlit p x.rxNext]))))) ∧
      (∀ ack, let i := x.replay.findIdx? fun e => decide (e.1 = ack)
        let left := match i with | some i => x.replay.drop (i + 1) | none => x.replay
        let n := (if i.isSome then 0 else x.resends) + 1
        (left = [] → ∃ r, PortRes (exec (.flitReplay port ack) s) s p { x with replay := [], resends := r } []) ∧
        (left ≠ [] → n < 16 → PortRes (exec (.flitReplay port ack) s) s p { x with replay := left, resends := n } [.resend p (left.map Prod.fst)]) ∧
        (left ≠ [] → 16 ≤ n → ∃ t, exec (.flitReplay port ack) s = .next t ∧ (t.port p).up = false)) ∧
      (0 < x.unacked → PortRes (exec (.ackTimer port) s) s p { x with unacked := 0 } [.ackFlit p (x.rxNext - 1)]) ∧
      (x.unacked = 0 → exec (.ackTimer port) s = .next s) ∧
      (¬dry → exec (.fabStall port) s = .next s) ∧
      (dry → ∃ t, exec (.fabStall port) s = .next t ∧
        t = { s with evt := Counted s t, flt := { s.flt with latch := s.flt.latch ++ [(⟨eFabStall, 3, BitVec.ofNat 16 p, none, nameW 11 p, 0⟩, 0, s.time)] } }) ∧
      ∃ t, exec (.cblPrsntChange port true) s = .next t ∧ (t.port p).up = false ∧ bit t.pins.prsnt p = false) ∧
    (x.link = .down → (∃ t, exec (.cblPrsntChange port true) s = .next t ∧ t = { s with pins := t.pins } ∧ bit t.pins.prsnt p = false ∧
        ∀ j, j < 32 → j ≠ p → bit t.pins.prsnt j = bit s.pins.prsnt j) ∧
      (x.enable = true → ∃ t, exec (.cblPrsntChange port false) s = .next t ∧ t = { s with pins := t.pins, ports := t.ports } ∧
        bit t.pins.prsnt p = true ∧ (∀ j, j < 32 → j ≠ p → bit t.pins.prsnt j = bit s.pins.prsnt j) ∧
        t.port p = { x with link := .training } ∧ ∀ n, n ≠ p → t.port n = s.port n)) ∧
    ∀ conn : BitVec 2, ∃ t, exec (.cblOverload conn) s = .next t ∧ bit t.pins.cblOff conn.toNat = true ∧ t.pins.prsnt = s.pins.prsnt ∧
      t.mem = s.mem ∧ (∀ j, j < 8 → (t.port (8 * conn.toNat + j)).up = false) ∧
      ((∀ j, j < 8 → (s.port (8 * conn.toNat + j)).link = .down) → t = { s with pins := t.pins })

/-- Packets: what slots spell is the packet whose header and payload they hold; RD, RDL, WR, WRL and ATOM for memory that a
window of a member covers are served at home and answered, a line found uncorrectable with its mark; others are answered with the
first error that applies; a packet for another device goes on with one hop less, or is answered from here; one of an unknown type
is counted (R279, R355-R361, R366, R367). Responses and notices: DATA gives a waiting load or atomic its value and the context
moves on, a macro-instruction its line and the host its bytes, ACK ends a write, ERR faults the requester; each frees its tag, and
one that answers nothing is counted; a request without answer is given up with E_FAB_TIMEOUT. Notices of other devices reserve,
dispatch to, program, stop, pause, resume and release contexts here, ask and answer for their contexts, and report blocks,
macro-instructions and faults (R25, R101, R103, R109, R119, R148, R363-R366; log 28, log 46, DEDUCED). -/
def Obligations.Packets : Prop :=
  ((∀ (k : Packet) (h : BitVec 128) (ps : List (BitVec 128)), k.pay.length % 4 = 0 → k.pay.length ≤ 128 → k.typ ≠ 0 →
    h.toNat = k.typ.toNat + k.dst.toNat * 2 ^ 8 + k.src.toNat * 2 ^ 24 + k.tag.toNat * 2 ^ 40 + k.pay.length / 4 * 2 ^ 56 +
      k.addr.toNat * 2 ^ 64 + k.code.toNat * 2 ^ 112 + k.hops.toNat * 2 ^ 120 →
    ps.length = ceilDiv k.pay.length 16 → (slotBytes ps).take k.pay.length = k.pay →
    (k.typ ≠ 0x04 → k.mask = 0 → parseSlots (1 + ps.length) (h :: ps) = ([k], [])) ∧
    (k.typ = 0x04 → parseSlots (2 + ps.length) (h :: k.mask :: ps) = ([k], []))) ∧
  ∀ (s : State) (k : Packet), s.up = true →
    let a := k.addr.toNat
    let ln := a / 128
    let rsp (typ code : BitVec 8) (pay : List Byte) : Packet := ⟨typ, k.src, BitVec.ofNat 16 s.own, k.tag, 0, code, 64, 0, pay⟩
    let ans (i : Instr) (m : State → State) (r : Packet) (q : State → Prop) : Prop := ∃ t, exec i s = .next t ∧
      t = { m t with ports := t.ports, out := { s.out with packets := t.out.packets }, evt := Counted s t } ∧ Sends s t r ∧ q t
    let no (i : Instr) (idx : BitVec 8) : Prop := ans i (fun _ => s) (rsp 0x12 idx []) fun _ => True
    let flag : BitVec 8 := if s.poisoned ln then 1 else 0
    let reads (t : State) : State := Beneath s t
    let writes (t : State) : State := { Beneath s t with mem := t.mem, poison := t.poison }
    let ok (n : Nat) : Prop := s.member = true ∧ s.inWindow a n = true
    (∀ n, n = 4 ∨ n = 8 → a % n = 0 → k.code.toNat = n → k.dst.toNat = s.own → ok n → inStack a n = true → s.badLine ln = true →
      s.poisoned ln = false → s.flt.lockstep = false → ∃ t, exec (.rd k) s = .next t ∧ Sends s t (rsp 0x10 1 (s.bytes a n)) ∧ t.mem = s.mem ∧
        t.poisoned ln = true ∧ (⟨eStackUe, 1, BitVec.ofNat 16 (s.home ln), none, BitVec.ofNat 64 (128 * ln), 0⟩, 1, s.time) ∈ t.flt.latch) ∧
    (k.dst.toNat = s.own → s.memOk → (inStack a 1 = true → s.badLine ln = s.poisoned ln) →
      (∀ n, n = 4 ∨ n = 8 → a % n = 0 →
        (ok n → inStack a n = true →
          (k.code.toNat = n → ans (.rd k) reads (rsp 0x10 flag (s.bytes a n)) fun _ => True) ∧
          (k.pay.length = n → ans (.wr k) writes (rsp 0x11 0 []) fun t => t.memOk ∧ SameBytesBut s t a n ∧
            (∀ j, j < n → t.byte (a + j) = k.pay.getD j 0) ∧ ∀ q, t.poisoned q = s.poisoned q)) ∧
        (∀ i, i = .rd k ∧ k.code.toNat = n ∨ i = .wr k ∧ k.pay.length = n →
          (s.member = false → no i 1) ∧ (s.member = true → s.inWindow a n = false → no i 4) ∧ (ok n → inStack a n = false → no i 3))) ∧
      (a % 128 = 0 →
        (ok 128 → inMem a 128 = true →
          ans (.rdl k) reads (rsp 0x10 (if inStack a 128 then flag else 0) (s.bytes a 128)) (fun _ => True) ∧
          (k.pay.length = 128 → ans (.wrl k) writes (rsp 0x11 0 []) fun t => t.memOk ∧ SameBytesBut s t a 128 ∧
            (∀ j, j < 128 → t.byte (a + j) = if bit k.mask j then k.pay.getD j 0 else s.byte (a + j)) ∧
            ∀ q, t.poisoned q = (s.poisoned q && !(decide (q = ln) && decide (k.mask = BitVec.allOnes 128) && inStack a 128)))) ∧
        (∀ i, i = .rdl k ∨ i = .wrl k ∧ k.pay.length = 128 →
          (s.member = false → no i 1) ∧ (s.member = true → s.inWindow a 128 = false → no i 4) ∧
          (ok 128 → inMem a 128 = false → no i 3))) ∧
      (∀ fn old w v c, a % 8 = 0 → ok 8 → inStack a 8 = true → k.code = amoCode fn → s.Holds a 8 old → AmoRule old v c w fn →
        k.pay = leBytes 8 v.toNat ++ (if fn = .cas then leBytes 8 c.toNat else []) →
        ans (.atom k) writes (rsp 0x10 flag (leBytes 8 old.toNat)) fun t => t.memOk ∧ t.Holds a 8 w ∧ SameBytesBut s t a 8 ∧
          ∀ q, t.poisoned q = s.poisoned q)) ∧
    (k.dst.toNat ≠ s.own →
      (∀ p, s.isLive k.dst.toNat = true → k.hops ≠ 0 → s.routePort k = some p → knownType k.typ = true →
        ∀ i, i = .packetForward k ∨ i = .rd k ∨ i = .wr k →
          ∃ t, exec i s = .next t ∧ t = { s with ports := t.ports, out := { s.out with packets := t.out.packets }, evt := Counted s t } ∧
            ({ k with hops := k.hops - 1 } ∈ (t.port p).queue ∨ (p, { k with hops := k.hops - 1 }) ∈ t.out.packets)) ∧
      (knownType k.typ = true → k.typ ≠ 0x12 → s.isLive k.dst.toNat = false → no (.packetForward k) 1) ∧
      (knownType k.typ = true → k.typ ≠ 0x12 → s.isLive k.dst.toNat = true → k.hops = 0 ∨ s.routePort k = none → no (.packetForward k) 2)) ∧
    (knownType k.typ = false → CountsOne (exec (.packetForward k) s) s evFabBadPkt)) ∧
  ∀ (s : State), s.up = true → s.Quiet →
    (∀ (k : Packet) (r : Req) (cx : CtxId), k.dst.toNat = s.own → tget none s.fab.reqs k.tag.toNat = some r →
      let freed : Fab := { s.fab with reqs := tput s.fab.reqs k.tag.toNat none }
      let waits := (s.ctx cx).wait = .remote r.pkt.tag ∧ (s.ctx cx).stopping = false ∧ s.MoreAfter cx 4
      let moves (i : Instr) (d : Reg) (v : W64) : Prop := ∃ t, exec i s = .next t ∧
        Moves s { s with fab := freed } t cx ((s.ctx cx).pc + 4) { s.ctx cx with sreg := (t.ctx cx).sreg, granted := none } ∧
        ∀ q, (t.ctx cx).s q = if q = d ∧ d ≠ 0 then v else (s.ctx cx).s q
      let name := nameW 8 (r.pkt.dst.toNat * 2 ^ 48 + r.pkt.addr.toNat)
      (r.pkt.dst = k.src → r.dropped = false → bit k.code 0 = false → waits → ∀ d,
        (r.pkt.typ = 0x01 → r.who = .ctxLoad cx d true → k.pay.length = 8 → moves (.data k) d (BitVec.ofNat 64 (leNat k.pay))) ∧
        (r.pkt.typ = 0x01 → r.who = .ctxLoad cx d false → k.pay.length = 4 → moves (.data k) d (BitVec.ofNat 64 (leNat k.pay))) ∧
        (r.pkt.typ = 0x05 → r.who = .ctxAtomic cx d → k.pay.length = 8 → moves (.data k) d (BitVec.ofNat 64 (leNat k.pay)))) ∧
      (r.pkt.dst = k.src → r.pkt.typ = 0x03 ∨ r.pkt.typ = 0x04 → (∀ ch, r.who ≠ .dma ch) → (∀ i, r.who ≠ .save i) →
        exec (.ack k) s = .next { s with fab := freed }) ∧
      (r.pkt.dst = k.src → r.dropped = false → r.pkt.typ = 0x01 ∨ r.pkt.typ = 0x02 →
        (∀ off n, r.who = .bar2 off n → exec (.data k) s = .next { s with fab := freed, out := { s.out with replies := s.out.replies ++ [if bit k.code 0 then .poisoned ((k.pay.drop off).take n) else .bytes ((k.pay.drop off).take n)] } }) ∧
        ∀ u n, r.who = .farRead u n → bit k.code 0 = false → ∃ t, exec (.data k) s = .next t ∧ t = { s with fab := freed, farBuf := t.farBuf } ∧
          ∀ l ∈ s.farBuf, (if l.use = u ∧ l.line = n then { l with got := some k.pay } else l) ∈ t.farBuf) ∧
      ((s.ctx cx).wait = .remote r.pkt.tag → s.Faultable cx → r.dropped = false → (∃ d z, r.who = .ctxLoad cx d z) ∨ (∃ d, r.who = .ctxAtomic cx d) →
        (∀ e, (k.code = 1 ∧ e = eFabUnreach ∨ k.code = 2 ∧ e = eFabRoute ∨ k.code = 3 ∧ e = eBounds ∨ k.code = 4 ∧ e = eFabWindow) →
          FaultsIn (exec (.err k) s) s (fun _ => { s with fab := freed }) cx e name name) ∧
        (r.pkt.dst = k.src → r.pkt.typ = 0x01 ∨ r.pkt.typ = 0x05 → bit k.code 0 = true →
          FaultsIn (exec (.data k) s) s (fun _ => { s with fab := freed }) cx eStackUe name name) ∧
        (s.fab.cfg.toNat / 2 ^ 33 % 2 ^ 12 ≠ 0 → s.member = false →
          FaultsIn (exec (.remoteRequestTimeout k.tag) s) s (fun _ => { s with fab := freed }) cx eFabTimeout name name))) ∧
    (∀ k : Packet, k.dst.toNat = s.own → tget none s.fab.reqs k.tag.toNat = none →
      exec (.remoteRequestTimeout k.tag) s = .next s ∧
      ∀ i, i = .data k ∨ i = .ack k ∨ (i = .err k ∧ 0 < k.code.toNat ∧ k.code.toNat ≤ 4) → CountsOne (exec i s) s evFabLateRsp) ∧
    (∀ (d index : BitVec 16), ∃ t, exec (.referenceNotice d index true) s = .next t ∧ t = { s with groups := t.groups } ∧
      (∀ n, n ≠ index.toNat → t.group n = s.group n) ∧
      t.group index.toNat = { s.group index.toNat with refs := (s.group index.toNat).refs + 1, far := tmod 0 (s.group index.toNat).far d.toNat (· + 1) } ∧
      ∃ u, exec (.referenceNotice d index false) t = .next u ∧ (u.group index.toNat).refs = (s.group index.toNat).refs ∧
        ∀ n, n ≠ index.toNat → u.group n = s.group n) ∧
    ∀ (src d : BitVec 16) (i : StreamId), s.member = true →
      let theirs (c : CtxId) : Prop := (s.ctx c).used = true ∧ (s.ctx c).dev = d ∧ (s.ctx c).strm = i
      let halted (c : CtxId) : Ctx := { s.ctx c with wait := .stopped, stopping := false, pausing := false, granted := none }
      (∀ c rank seed cs n job prio x, ((List.range 8).map (ctxOf (c : CoreId).toNat)).find? (fun k => !(s.ctx k).used) = some x →
        ∃ t, exec (.note src (.reserve d i [(c, rank)] seed cs n job prio)) s = .next t ∧ t = { s with ctxs := t.ctxs, fars := t.fars } ∧
          SameCtxsBut s t x ∧ t.far d i = some ⟨d, i, prio, [], none⟩ ∧ (∀ e j, ¬(e = d ∧ j = i) → t.far e j = s.far e j) ∧
          t.ctx x = { Ctx.free with used := true, dev := d, strm := i, seed := seed, cstream := cs, leafCount := n, rank := rank, job := job }) ∧
      (∀ c x tk addr args rank base len, s.farCtx d i (c : CoreId).toNat = some x → (s.ctx x).wait = .idle → (s.ctx x).blocks = [] → addr ≠ base + len →
        ∃ t, exec (.note src (.dispatch d i tk addr args [(c, rank)] base len)) s = .next t ∧ t = { s with ctxs := t.ctxs } ∧
          SameCtxsBut s t x ∧
          t.ctx x = { s.ctx x with sreg := (t.ctx x).sreg, wait := .ready, pc := addr, codeBase := base, codeLen := len, blocks := [⟨tk, addr, args, rank⟩] } ∧
          ∀ r, (t.ctx x).s r = if r = 5 then BitVec.ofNat 64 rank
            else if r = 1 ∨ r = 2 ∨ r = 3 ∨ r = 4 then args.getD (r.toNat - 1) 0 else (s.ctx x).s r) ∧
      (∀ base len, ∃ t, exec (.note src (.program d i base len)) s = .next t ∧ t = { s with ctxs := t.ctxs } ∧
        (∀ c, theirs c → t.ctx c = { halted c with codeBase := base, codeLen := len, blocks := [], wait := if (s.ctx c).lead then .stopped else .idle }) ∧
        ∀ c, ¬theirs c → t.ctx c = s.ctx c) ∧
      (∃ t, exec (.note src (.stop d i)) s = .next t ∧ t.mem = s.mem ∧
        (∀ c, theirs c → (s.ctx c).wait = .ready → t.ctx c = halted c) ∧ ∀ c, ¬theirs c → t.ctx c = s.ctx c) ∧
      (∀ prompt, ∃ t, exec (.note src (.pause d i prompt)) s = .next t ∧ t = { s with ctxs := t.ctxs, mis := t.mis, fars := t.fars } ∧
        (∀ c, t.ctx c = s.ctx c ∨ prompt = true ∧ theirs c) ∧ (∀ c, theirs c → prompt = true → (s.ctx c).wait = .ready → t.ctx c = halted c) ∧
        t.mis = (s.mis.map fun m => if m.home = d ∧ m.strm = i then { m with stopped := true } else m) ∧
        ∀ x, s.far d i = some x → t.far d i = some { x with pausing := some prompt }) ∧
      (∀ secs, (∀ m ∈ s.mis, ¬(m.home = d ∧ m.strm = i)) → ∃ t, exec (.note src (.resume d i secs [])) s = .next t ∧ t.mem = s.mem ∧
        (s.ctxsOk → ∀ c, theirs c → (s.ctx c).wait = .stopped → (s.ctx c).pc ≠ (s.ctx c).codeEnd → t.ctx c = { s.ctx c with wait := .ready })) ∧
      (∃ t, exec (.note src (.release d i)) s = .next t ∧ ((∀ m ∈ s.mis, m.home = d → m.strm = i → m.here = false) → t.mem = s.mem) ∧
        (∀ m ∈ t.mis, ¬(m.home = d ∧ m.strm = i)) ∧ ∀ e ∈ t.ctxs, e.2.used = true → ¬(e.2.dev = d ∧ e.2.strm = i)) ∧
      (∀ cx w v own, (s.ctx cx).used = true → (s.ctx cx).dev = src → (s.ctx cx).strm = i → (s.ctx cx).wait = .asked w → (s.ctx cx).stopping = false →
        ∃ t, exec (.note src (.answer i cx 0 v own)) s = .next t ∧ t = { s with ctxs := t.ctxs } ∧ SameCtxsBut s t cx ∧
          t.ctx cx = { s.ctx cx with granted := some v, wait := match w with | .scope fn => .fence fn [] [] | _ => .ready }) ∧
      (∀ cx ls, s.outstanding i < 16 → ∃ t, exec (.note src (.ask d i cx (.mi ls))) s = .next t ∧
        t = { s with streams := t.streams, out := { s.out with sent := s.out.sent ++ [.notice d.toNat (.answer i cx 0 (s.strm i).nextMi true)] } } ∧
        SameStrmsBut s t i ∧ t.strm i = { s.strm i with nextMi := (s.strm i).nextMi + 1, farMis := (s.strm i).farMis ++ [⟨(s.strm i).nextMi, d, ls⟩] }) ∧
      (∀ cx ls, 16 ≤ s.outstanding i → ∃ t, exec (.note src (.ask d i cx (.mi ls))) s = .next t ∧
        t = { s with streams := t.streams, out := { s.out with sent := s.out.sent ++ [.notice d.toNat (.hold cx 0)] } } ∧
        SameStrmsBut s t i ∧ t.strm i = { s.strm i with asks := (s.strm i).asks ++ [(d, cx, .mi ls)] }) ∧
      (∀ tk c record, (s.strm i).asks = [] → ∃ t, exec (.note src (.blockEnd i tk d c record)) s = .next t ∧
        t = { s with streams := t.streams } ∧ SameStrmsBut s t i ∧
        t.strm i = { s.strm i with disps := (t.strm i).disps, farRecs := (t.strm i).farRecs } ∧
        ((d.toNat, c.toNat) ∈ (s.strm i).leaves →
          tget [] (t.strm i).farRecs (rankOf (s.strm i).leaves (d.toNat, c.toNat)) = padTo imgCtx (record.take imgCtx)) ∧
        ∀ q ∈ (t.strm i).disps, q.leaves ≠ [] ∧ (q.ticket = tk → (d.toNat, c.toNat) ∉ q.leaves)) ∧
      (∀ tk, (s.strm i).asks = [] → ∃ t, exec (.note src (.miEnd i tk)) s = .next t ∧ t.mem = s.mem ∧ ∀ m ∈ (t.strm i).farMis, m.ticket ≠ tk) ∧
      (∀ c, CountsOne (exec (.note src (.unknown c)) s) s evFabBadPkt) ∧
      ∀ code nm rec, (s.strm i).state = .running ∨ (s.strm i).state = .draining → ∃ t, exec (.note src (.fault i code nm rec)) s = .next t ∧
        SameStrmsBut s t i ∧ (t.strm i).state = .faulted ∧ (t.strm i).lastErr = code ∧ (t.strm i).errArg = nm ∧
        (∀ m ∈ t.mis, m.strm = i → m.home.toNat = s.own → m.stopped = true ∧ m.faulted = true) ∧
        ∀ c, (t.ctx c).used = true → (t.ctx c).dev.toNat = s.own → (t.ctx c).strm = i → (t.ctx c).wait = .stopped

/-- Membership: a device without a live neighbour becomes the sole member at epoch 1; else it joins through the headwater, which
refuses a live number or another pin, publishes one change at a time, and confirms when every member has acknowledged it; a
member applies the notice whose epoch is next, and no other; a leave waits for EMPTY streams and outbound requests; a suspect
that does not answer is lost. A removal drops the departed device's references, contexts and work (R368-R376). -/
def Obligations.Membership : Prop :=
  ∀ (s : State), s.up = true →
    let f := s.fab
    let o := s.own
    let own17 : BitVec 17 := BitVec.ofNat 17 (f.cfg.toNat / 2 ^ 16 % 2 ^ 17)
    let speaks (m : MState) (reply : Bool) : HelloInfo := ⟨BitVec.ofNat 16 o, m, f.hw, f.epoch, own17, reply⟩
    let sends (o_ : Res) (g : Fab) (ms : List Sent) : Prop := o_ = .next { s with fab := g, out := { s.out with sent := s.out.sent ++ ms } }
    let ended (o_ : Res) (g : Fab) : Prop := ∃ t, o_ = .next t ∧ t = { s with fab := g, hif := t.hif, out := t.out } ∧ Raised s t 84
    (f.mstate ≠ .out → exec .fabJoin s = .next s) ∧
    (f.mstate = .out → (∀ p, p < 32 → (s.port p).link = .down ∧ s.mayTrain p = false) →
      ended (exec .fabJoin s) { f with mstate := .live, isHw := true, hw := BitVec.ofNat 16 o, epoch := 1, live := [(o, true)], err := 0, done := true, helloHw := none, sent := false }) ∧
    (f.mstate = .out → ∀ p, p < 32 → s.mayTrain p = true →
      ∃ t, exec .fabJoin s = .next t ∧ t.fab.mstate = .joining ∧ t.mem = s.mem ∧
        ((s.port p).up = false → (t.port p).link = .training) ∧
        ((s.port p).up = true → (t.port p).link = (s.port p).link ∧ (t.port p).nbrValid = false ∧ .hello p (speaks .joining false) ∈ t.out.sent)) ∧
    (∀ (port : PortId) (i : HelloInfo), (s.port port.toNat).up = true →
      let p := port.toNat
      let x := s.port p
      (f.mstate = .out → i.reply = false → sends (exec (.hello port i) s) f [.hello p (speaks .out true)]) ∧
      (f.mstate = .live → i.reply = false → i.nbrLive = true → i.hw = f.hw → ∃ t, exec (.hello port i) s = .next t ∧
        t = { s with ports := t.ports, out := { s.out with sent := s.out.sent ++ [.hello p (speaks .live true)] } } ∧
        (∀ n, n ≠ p → t.port n = s.port n) ∧ t.port p = { x with foreign := false }) ∧
      (f.mstate = .live → i.reply = true → i.nbrLive = true → i.hw ≠ f.hw → x.splitTold = false → s.flt.lockstep = false →
        ∃ t, exec (.hello port i) s = .next t ∧
          t = { s with ports := t.ports, evt := Counted s t, flt := { s.flt with latch := s.flt.latch ++ [(⟨eFabSplit, 3, BitVec.ofNat 16 p, none, nameW 11 p, 0⟩, 1, s.time)] } } ∧
          (∀ n, n ≠ p → t.port n = s.port n) ∧ t.port p = { x with nbr := i.nbr, nbrValid := true, nbrHw := some i.hw, foreign := true, splitTold := true }) ∧
      (f.mstate = .joining → f.sent = false → i.reply = true → i.nbrLive = true →
        let h := match f.helloHw with
          | some h => if h.toNat < i.hw.toNat then h else i.hw
          | none => i.hw
        ∃ t, exec (.hello port i) s = .next t ∧ t.fab.helloHw = some h ∧ (t.port p).nbrValid = true ∧ (t.port p).nbr = i.nbr ∧
          ((∀ q, q < 32 → (s.port q).link ≠ .training ∧ ((s.port q).up = false ∨ q = p ∨ (s.port q).nbrValid = true)) →
            t.fab.sent = true ∧ .join h.toNat ∈ t.out.sent) ∧
          ((∃ q, q < 32 ∧ (s.port q).link = .training) → t.fab.sent = false ∧ t.out = s.out))) ∧
    (f.mstate = .joining → f.waiting = [] → s.boot.flrAt = none → (∀ src l e h, (∀ i, s.jobStreams i = []) → ended (exec (.note src (.epochConfirm l e h)) s)
        { f with mstate := .live, live := l.foldl (fun t d => tput t d true) [], epoch := e, hw := h, isHw := decide (h.toNat = o), helloHw := none, sent := false, done := true, err := 0 }) ∧
      ∀ src c, ∃ t, exec (.note src (.joinRefused c)) s = .next t ∧ t.fab.mstate = .out ∧ t.fab.err = c ∧ t.fab.done = true ∧ t.fab.live = []) ∧
    (s.member = true → f.isHw = true → ∀ (d : BitVec 16) (pin : BitVec 17),
      (s.isLive d.toNat = true → sends (exec (.join d pin) s) f [.notice d.toNat (.joinRefused eFabDup)]) ∧
      (s.isLive d.toNat = false → .join d ∉ f.changes → pin ≠ own17 →
        sends (exec (.join d pin) s) f [.notice d.toNat (.joinRefused eFabSplit)]) ∧
      (s.isLive d.toNat = false → pin = own17 → f.changes = [] → f.ackWait = [] →
        let ms := s.liveSet.filter fun x => decide (x ≠ o ∧ x ≠ d.toNat)
        (ms ≠ [] → sends (exec (.join d pin) s) { f with epoch := f.epoch + 1, live := tput f.live d.toNat true, changes := [.join d], ackWait := ms }
          (ms.map fun x => .member x (f.epoch + 1) (.join d))) ∧
        (ms = [] → ∃ l, sends (exec (.join d pin) s) { f with epoch := f.epoch + 1, live := tput f.live d.toNat true }
          [.notice d.toNat (.epochConfirm l (f.epoch + 1) f.hw)] ∧ d.toNat ∈ l)) ∧
      (∀ e : BitVec 16, f.changes = [.join d] → f.ackWait = [e.toNat] →
        ∃ l, sends (exec (.membershipAck e) s) { f with changes := [], ackWait := [] } [.notice d.toNat (.epochConfirm l f.epoch f.hw)]) ∧
      (∀ e : BitVec 16, e.toNat ∉ f.ackWait → exec (.membershipAck e) s = .next s) ∧
      (f.ackWait ≠ [] → s.isLive d.toNat = true → d.toNat ≠ o → .leave d ∉ f.changes →
        exec (.leave d) s = .next { s with fab := { f with changes := f.changes ++ [.leave d] } })) ∧
    (s.member = true → s.Quiet → ∀ (e : W32) (c : Change),
      (e ≠ f.epoch + 1 → exec (.membershipNotice e c) s = .next s) ∧
      (e = f.epoch + 1 → ∀ d : BitVec 16, d.toNat ≠ o → f.hw ≠ d →
        sends (exec (.membershipNotice e (.join d)) s) { f with epoch := e, live := tput f.live d.toNat true } [.memberAck f.hw.toNat] ∧
        ∀ c, c = .leave d ∨ c = .loss d → ∃ t, exec (.membershipNotice e c) s = .next t ∧ t.fab.epoch = e ∧ t.fab.mstate = f.mstate ∧
          tget false t.fab.live d.toNat = false ∧ (∀ x, x ≠ d.toNat → tget false t.fab.live x = tget false f.live x) ∧
          .memberAck f.hw.toNat ∈ t.out.sent ∧ t.mem = s.mem ∧ (∀ m ∈ t.mis, m.home ≠ d) ∧ (∀ x ∈ t.ctxs, x.2.used = true → x.2.dev ≠ d) ∧
          (∀ n, t.group n = { s.group n with refs := (s.group n).refs - BitVec.ofNat 32 (tget 0 (s.group n).far d.toNat), far := tput (s.group n).far d.toNat 0 } ∨
            s.group n = .none ∧ t.group n = .none) ∧
          (c = .loss d → (f.reqs.map Prod.fst).Pairwise (· < ·) → ∀ q ∈ f.reqs, ∀ r, q.2 = some r → r.pkt.dst = d → tget none t.fab.reqs q.1 = none))) ∧
    (f.mstate ≠ .live → exec .fabLeave s = .next s) ∧
    (f.mstate = .live → (∃ i : StreamId, (s.strm i).state ≠ .empty) → ended (exec .fabLeave s) { f with done := true, err := eBusy }) ∧
    (f.mstate = .live → (∀ i : StreamId, (s.strm i).state = .empty) → s.mis = [] → f.isHw = false →
      ((∀ q ∈ f.reqs, q.2 = none) → f.waiting = [] →
        sends (exec .fabLeave s) { f with mstate := .leaving, err := 0, sent := true } [.leave f.hw.toNat]) ∧
      ((∃ q ∈ f.reqs, q.2 ≠ none) → sends (exec .fabLeave s) { f with mstate := .leaving, err := 0, sent := false } [])) ∧
    ∀ d : BitVec 16,
      (s.member = true → s.judges d.toNat = true → tget false f.live d.toNat = true → d.toNat ≠ o → d.toNat ∉ f.suspects →
        ∃ ps, sends (exec (.suspect d) s) { f with suspects := f.suspects ++ [d.toNat] } [.ping d.toNat ps] ∧
          ∀ p, p ∈ ps ↔ p < 32 ∧ (tget 0 f.routes d.toNat).toNat / 2 ^ p % 2 = 1 ∧ (s.port p).up = true ∧ (s.port p).foreign = false) ∧
      (s.judges d.toNat = false ∨ s.member = false → exec (.suspect d) s = .next s) ∧
      (s.member = true → sends (exec (.ping d false) s) f [.pong d.toNat]) ∧
      exec (.ping d true) s = .next { s with fab := { f with suspects := f.suspects.filter fun x => decide (x ≠ d.toNat) } } ∧
      (d.toNat ∉ f.suspects → exec (.pingTimeout d) s = .next s) ∧
      (d.toNat ∈ f.suspects → f.mstate = .live → tget false f.live d.toNat = true → d.toNat ≠ o → f.isHw = true → f.changes = [] → f.ackWait = [] → s.flt.lockstep = false →
        ∃ t, exec (.pingTimeout d) s = .next t ∧ tget false t.fab.live d.toNat = false ∧ t.fab.epoch = f.epoch + 1 ∧ d.toNat ∉ t.fab.suspects ∧
          (⟨eFabLost, 5, 0, none, 0, 0⟩, 1, s.time) ∈ t.flt.latch ∧
          ∀ x, tget false f.live x = true → (x, true) ∈ f.live → x ≠ o → x ≠ d.toNat → .member x (f.epoch + 1) (.loss d) ∈ t.out.sent)

/-- Fabric registers: FAB_RT operations read or write the entry of their index and set done, an entry with a reserved bit and an
undefined op being refused; a retrain keeps sequence numbers and replay; another device number is refused and counted unless the
device is out, where its own streams, contexts and work take the new one (R358, R372, R483). -/
def Obligations.FabricRegisters : Prop :=
  ∀ (s : State), s.boot.phase = .running →
    (∀ index : BitVec 16,
      let r := tget 0 s.fab.routes index.toNat
      let res (o : Res) (f : Fab) : Prop := o = .next { s with fab := f }
      res (exec (.fabRtRead index) s) { s.fab with rtIndex := index, rtData := r, rtDone := true, rtErr := 0 } ∧
      res (exec (.fabRtOpRefused index) s) { s.fab with rtIndex := index, rtDone := true, rtErr := eHandle } ∧
      (s.fab.rtData.toNat / 2 ^ 33 ≠ 0 → res (exec (.fabRtWrite index) s) { s.fab with rtIndex := index, rtDone := true, rtErr := eOperand }) ∧
      (s.fab.rtData.toNat / 2 ^ 33 = 0 → ∃ t, exec (.fabRtWrite index) s = .next t ∧
        t = { s with fab := { s.fab with rtIndex := index, rtDone := true, rtErr := 0, routes := t.fab.routes } } ∧
        tget 0 t.fab.routes index.toNat = s.fab.rtData ∧ ∀ n, n ≠ index.toNat → tget 0 t.fab.routes n = tget 0 s.fab.routes n)) ∧
    (∀ port : PortId, let p := port.toNat
      (s.pins.corePower = true → (s.port p).enable = true → bit s.pins.prsnt p = true →
        PortRes (exec (.fabPortRetrain port) s) s p { s.port p with link := .training } []) ∧
      ((s.port p).enable = false ∨ bit s.pins.prsnt p = false → exec (.fabPortRetrain port) s = .next s)) ∧
    ∀ v : W64,
      (s.fab.mstate ≠ .out → v.toNat % 2 ^ 16 ≠ s.own → CountsOne (exec (.fabCfgWrite v) s) s evRegWriteRefused) ∧
      (s.fab.mstate ≠ .out → v.toNat % 2 ^ 16 = s.own → ∃ t, exec (.fabCfgWrite v) s = .next t ∧
        t.fab = { s.fab with cfg := BitVec.ofNat 64 (v.toNat % 2 ^ 45) } ∧ t.mem = s.mem ∧ (∀ c, t.ctx c = s.ctx c)) ∧
      (s.fab.mstate = .out → ∃ t, exec (.fabCfgWrite v) s = .next t ∧
        t = { s with fab := { s.fab with cfg := BitVec.ofNat 64 (v.toNat % 2 ^ 45) }, ctxs := t.ctxs, streams := t.streams, mis := t.mis, cores := t.cores } ∧
        t.own = v.toNat % 2 ^ 16 ∧
        (∀ c, (s.ctx c).used = true → (s.ctx c).dev.toNat = s.own → t.ctx c = { s.ctx c with dev := BitVec.ofNat 16 (v.toNat % 2 ^ 16) }) ∧
        (∀ c, (s.ctx c).dev.toNat ≠ s.own → t.ctx c = s.ctx c) ∧
        ∀ i, (∀ l ∈ (s.strm i).leaves, l.1 = s.own) → ∀ l, l ∈ (t.strm i).leaves ↔ l.1 = t.own ∧ (s.own, l.2) ∈ (s.strm i).leaves)

/-- A write to STRM_JOB while its stream is not EMPTY is refused with E_BUSY and counted, and the old value is kept; in EMPTY the
register takes it (R379). KILL leaves the register, cold, warm and function-level reset, once it completes, return it to its reset
value. -/
def Obligations.JobRegister : Prop :=
  ∀ (s : State) (i : StreamId) (v : W64), s.boot.phase = .running →
    ((s.strm i).state ≠ .empty → ∀ pace, CountsOne (exec (.strmJobWrite i pace v) s) s evRegWriteRefused) ∧
    ((s.strm i).state = .empty →
      exec (.strmJobWrite i false v) s = .next (s.setSreg i { s.sreg i with job := BitVec.ofNat 64 (v.toNat % 2 ^ 33) }) ∧
      exec (.strmJobWrite i true v) s = .next (s.setSreg i { s.sreg i with paceMatch := bit v 0 })) ∧
    (∀ e, s.Fetches i → EntryFor e 8 → ∃ t, exec (.kill i e) s = .next t ∧ (t.sreg i).job = (s.sreg i).job) ∧
    ∀ t, ((∃ id, exec (.perstAssert id) s = .next t) ∨ exec .pwrEnFall s = .next t) ∧ s.pins.standby = true ∧ s.pins.pwrEn = true ∨
        exec .functionLevelReset s = .next t ∧ s.hostUp = true ∧ t.boot.flrAt = none ∨
        (∃ k tag, exec (.ack k) s = .next t ∨ exec (.data k) s = .next t ∨ exec (.err k) s = .next t ∨ exec (.remoteRequestTimeout tag) s = .next t) ∧
          s.boot.flrAt ≠ none ∧ t.boot.flrAt = none →
      (t.sreg i).job = 0

/-! ### The weir (R381-R397) -/

/-- One weir period: readings, the meters, the excursion account, the temperature and power terms by the law of R383 with the
caps of R385, the time charged to each reason, the refresh figure of each vault, the energy of streams by their weights; a sensor
off its neighbours for three periods is marked failed and reported; one 5 °C over its limit for three trips the device, and its
running streams fault; 10 °C over removes core power (R99, R265, R381-R392). That the term is 0 where P is not above its static
share, and how a share between two whole µJ rounds, is the model's reading (log 47, DEDUCED). The weir's other commands: the current
term every 1 µs, the static shares, droop stretches and their end, lag and pace notices, energy records sent, logged or dropped, and
the checks of WEIR_CAP, WEIR_CFG and WEIR_ELOG (R383, R385, R389, R393-R395). -/
def Obligations.WeirLaw : Prop :=
  (∀ (s : State) (inp : WeirInput), s.up = true → s.flt.lockstep = false → ∃ t, exec (.weirPeriod inp) s = .next t ∧
    let w := t.weir
    let cap := bits s.weir.cap 0 12
    let read (u : State) (x : Nat) : Int := (u.sensor x).read
    let law (n den : Int) (k : Nat) : Prop := (n ≤ 0 → k = 0) ∧ (0 < n → ((k : Int) - 1) * den < n ∧ n ≤ k * den)
    t.mem = s.mem ∧ w.cap = s.weir.cap ∧ w.cfg = s.weir.cfg ∧ w.staticP = s.weir.staticP ∧ w.staticI = s.weir.staticI ∧
    (bit s.weir.cap 12 = false ∨ cap < inp.watts100 → w.exc = 0 ∧ w.excStuck = true) ∧
    (bit s.weir.cap 12 = true → inp.watts100 ≤ cap → s.weir.excStuck = false ∨ 100 * inp.watts100 < 98 * cap →
      w.excStuck = false ∧ w.exc = if cap < inp.watts then s.weir.exc - 10000 else min 2000000 (s.weir.exc + 1000)) ∧
    (inp.watts < 2 ^ 16 → bits w.meter 0 16 = inp.watts) ∧ (inp.volts < 2 ^ 16 → bits w.meter 32 16 = inp.volts) ∧
    (inp.watts100 < 2 ^ 16 → bits w.meter 16 16 = inp.watts100) ∧ (inp.amps < 2 ^ 16 → bits w.meter 48 16 = inp.amps) ∧
    (∀ x q, x < 1024 → -2048 ≤ q → q < 2048 → (∃ a b, inp.temps = a ++ (x, q) :: b ∧ ∀ e ∈ b, e.1 ≠ x) → read t x = q) ∧
    (∀ x, (∀ e ∈ inp.temps, e.1 ≠ x) → read t x = read s x) ∧
    (∀ x, law ((bits s.weir.cfg 0 6 : Int) * (t.tempOf x - t.targetOf x)) 4 (t.tempTerm x) ∧
      t.targetOf x = 4 * (((if x < 640 then 105 else 95) : Int) - ((if x < 640 then bits s.weir.cfg 8 5 else bits s.weir.cfg 16 5) : Nat))) ∧
    (∀ i, i < 619 → t.spareIsland i = false → let k := tget (0, 0) w.fracT i
      (∀ x ∈ governors i, t.tempTerm x ≤ k.1) ∧ (0 < k.1 → ∃ x ∈ governors i, t.tempTerm x = k.1 ∧ k.2.toNat = (sensorClass x).2)) ∧
    (let p : Int := 100 * inp.watts
     let st : Int := 100 * s.weir.staticP
     let d : Int := 32768 - s.sumK
     let eff : Int := if 0 < w.exc then min 420000 (88 * inp.volts) else min (100 * cap) (67 * inp.volts)
     (p ≤ st → w.fracP = 0) ∧
     (st < p → law (4 * (bits s.weir.cfg 24 5 : Int) * (st * d + (p - st) * 32768 - eff * d)) ((p - st) * 32768) w.fracP)) ∧
    (∀ i pace, i < 619 → t.spareIsland i = false → t.flt.hold = false → w.tripping = false →
      let l := t.termsOf i pace
      let k := t.islandK i pace
      (∀ e ∈ l, min 56 e.1 ≤ k.1) ∧ (k.1 ≠ 0 → ∃ e ∈ l, k.1 = min 56 e.1 ∧ k.2 = e.2 ∧ ∀ e' ∈ l, e'.1 < e.1 ∨ e'.1 = e.1 ∧ e.2 ≤ e'.2)) ∧
    (∀ r, 0 < r → r ≤ 10 → r ≠ 8 → (tget 0 w.reasonNs r) = tget 0 s.weir.reasonNs r +
      if (List.range 619).any (fun i => decide (0 < (t.islandK i true).1) && decide ((t.islandK i true).2 = r)) then 10000 else 0) ∧
    (tget 0 w.reasonNs 8 = tget 0 s.weir.reasonNs 8 + if s.weir.stretchSeen = true ∧ t.flt.hold = false then 10000 else 0) ∧
    (∀ c, c < 512 → (t.coreK c true).1 ≤ w.kmax.toNat) ∧
    (let shared (i : StreamId) (num den : Nat) : Prop := ∃ b, b ≤ 1 ∧ (num % den = 0 → b = 0) ∧
        (t.strm i).energy = (s.strm i).energy + BitVec.ofNat 64 (num / den + b)
      let tot := (inp.work.map fun e => e.2.2).sum + inp.rest
      (inp.riffle = [] → 0 < tot → ∀ i, (s.strm i).state ≠ .empty →
        shared i (10 * inp.watts * ((inp.work.filter fun e => decide (e.2.1 = i)).map fun e => e.2.2).sum) tot) ∧
      ∀ (c : CoreId) n i x y, inp.work = [] → inp.riffle = [(c, n)] → (s.core c.toNat).rif.ics = [(some i, x), (none, y)] → 0 < x → 0 < n →
        (s.strm i).state ≠ .empty → shared i (10 * inp.watts * n * x) ((x + y) * (n + inp.rest))) ∧
    (∀ v, v < 512 → ((t.vault v).hot = true ↔ (∃ k, k < 6 ∧ 4 * 85 < t.tempOf (640 + 64 * k + v / 8)) ∨
      (s.vault v).hot = true ∧ ∃ k, k < 6 ∧ 4 * 83 ≤ t.tempOf (640 + 64 * k + v / 8))) ∧
    ((s.fab.jobs.map Prod.fst).Pairwise (· < ·) → ∀ e ∈ s.fab.jobs, (t.job e.1).isOver = decide (8 < t.localFrac e.1) ∧
      (t.job e.1).since = if e.2.isOver = decide (8 < t.localFrac e.1) then e.2.since else s.time) ∧
    (∀ x, x < 1024 → inp.temps = [] → (s.sensor x).off = 2 → (s.sensor x).failed = false →
      (let d := 2 * read s x - median2 ((sensorNbrs x).map (read s)); 120 < d ∨ d < -120) →
      (t.sensor x).failed = true ∧ bit t.hif.pend 83 = true ∧ (⟨eSensor, 7, BitVec.ofNat 16 x, none, nameW 11 x, 0⟩, 0, s.time) ∈ t.flt.latch) ∧
    (∀ x q, x < 1024 → inp.temps = [(x, q)] → q < 2048 → (4 * ((sensorClass x).1 : Int) + 20) ≤ q → (s.sensor x).failed = false → (s.sensor x).off = 0 →
      2 ≤ (s.sensor x).hot →
      (s.weir.tripping = false → w.trip = true ∧ w.tripping = true ∧ bit t.hif.pend 83 = true ∧
        (⟨eThermalTrip, 5, 0, none, 0, 0⟩, 3, s.time) ∈ t.flt.latch ∧
        (∀ i, (s.strm i).state = .running ∨ (s.strm i).state = .draining → (t.strm i).state = .faulted ∧ (t.strm i).lastErr = eThermalTrip) ∧
        (s.flt.hold = false → ∀ i pace, t.spareIsland i = false → t.islandK i pace = (56, 9))) ∧
      (4 * ((sensorClass x).1 : Int) + 40 ≤ q → t.pins.corePower = false ∧ t.pins.thermTrip = true))) ∧
  ∀ (s : State), s.up = true →
    let w := s.weir
    let only (o : Res) (x : Weir) : Prop := o = .next { s with weir := x }
    let refused (o : Res) : Prop := CountsOne o s evRegWriteRefused
    (∀ volts amps, volts < 2 ^ 16 → amps < 2 ^ 16 → ∃ m k t, exec (.currentEval volts amps) s = .next t ∧
      t = { s with weir := { w with meter := m, fracI := k }, fab := { s.fab with jobs := t.fab.jobs } } ∧
      (∀ j, t.job j = { s.job j with isOver := (t.job j).isOver, since := (t.job j).since }) ∧
      bits m 0 32 = bits w.meter 0 32 ∧ bits m 32 16 = volts ∧ bits m 48 16 = amps ∧
      let p : Int := amps
      let st : Int := w.staticI
      let d : Int := 32768 - w.meanK
      let n := 4 * (bits w.cfg 24 5 : Int) * (st * d + (p - st) * 32768 - (if 0 < w.exc then 8800 else 6700) * d)
      (p ≤ st ∨ n ≤ 0 → k = 0) ∧ (st < p → 0 < n → ((k : Int) - 1) * ((p - st) * 32768) < n ∧ n ≤ k * ((p - st) * 32768))) ∧
    (∀ p i, only (exec (.staticPowerRefresh p i) s) { w with staticP := p, staticI := i }) ∧
    (∀ i : BitVec 10, i.toNat < 586 → s.spareIsland i.toNat = false → ∃ l, only (exec (.droopStretch i) s) { w with stretchSeen := true, stretched := l } ∧
      ∀ x, x ∈ l ↔ x = i.toNat ∨ x ∈ w.stretched) ∧
    (∀ i : BitVec 10, s.spareIsland i.toNat = true ∨ 586 ≤ i.toNat → exec (.droopStretch i) s = .next s) ∧
    (∀ i : BitVec 10, ∃ l, only (exec (.nominalPeriodReturn i) s) { w with stretched := l } ∧ ∀ x, x ∈ l ↔ x ∈ w.stretched ∧ x ≠ i.toNat) ∧
    (∀ (job : BitVec 16) (floor : BitVec 6), let j := s.job job.toNat
      s.own ∈ j.members →
      (j.hw.toNat ≠ s.own → ∃ t, exec (.paceNotice job floor) s = .next t ∧
        t = { s with fab := { s.fab with jobs := t.fab.jobs }, out := { s.out with sent := s.out.sent ++ [.paceAck j.hw.toNat job] }, evt := Counted s t } ∧
        t.job job.toNat = { j with floor := floor } ∧ ∀ n, n ≠ job.toNat → t.job n = s.job n) ∧
      (job ≠ 0 → let k := s.localFrac job.toNat
        let tells (clear : Bool) : Prop := ∃ t, exec (.lagNotice job) s = .next t ∧
          t = { s with fab := { s.fab with jobs := t.fab.jobs }, out := { s.out with sent := t.out.sent }, evt := Counted s t } ∧
          (t.job job.toNat).told = (if clear then none else some (BitVec.ofNat 6 k)) ∧
          (j.hw.toNat ≠ s.own → t.out.sent = s.out.sent ++ [.lag j.hw.toNat job (BitVec.ofNat 6 k) clear]) ∧
          (j.hw.toNat = s.own → (t.job job.toNat).lags = (j.lags.filter fun e => decide (e.1 ≠ s.own)) ++ (if clear then [] else [(s.own, BitVec.ofNat 6 k)]) ∧
            (t.job job.toNat).floor = (t.job job.toNat).wanted)
        let stood := j.isOver = decide (8 < k) ∧ 100000 ≤ s.time.toNat - j.since.toNat
        (j.told = none → (8 < k → stood → tells false) ∧ (¬(8 < k ∧ stood) → exec (.lagNotice job) s = .next s)) ∧
        ∀ l, j.told = some l → let moved := (l.toNat + 4 ≤ k ∨ k + 4 ≤ l.toNat) ∧ 100000 ≤ s.time.toNat - j.toldAt.toNat
          (k ≤ 8 → stood → tells true) ∧
          (¬(k ≤ 8 ∧ stood) → (moved → tells false) ∧ (¬moved → exec (.lagNotice job) s = .next s)))) ∧
    (∀ job : BitVec 16, let j := job.toNat
      let x := s.job j
      let tells (e : BitVec 256) (uj strm ns : Nat) (by_ : Table Nat) : Prop :=
        bits e 0 64 = s.time.toNat ∧ bits e 64 64 = uj ∧ bits e 128 16 = j ∧ bits e 144 16 = s.own ∧ bits e 160 8 = strm ∧
        bits e 176 16 = 0 ∧ (ns < 2 ^ 32 → bits e 192 32 = ns) ∧ bits e 224 32 = 0 ∧ (by_ = [] → bits e 168 8 = 0) ∧
        ∀ q ∈ by_, 0 < q.2 → ∃ y ∈ by_, y.1 = bits e 168 8 ∧ q.2 ≤ y.2
      let is := s.jobStreams j
      let uj (i : StreamId) : Nat := ((s.strm i).energy - (s.strm i).told).toNat
      job ≠ 0 → x.hw.toNat ≠ s.own → (∀ q ∈ x.thrBy, q.1 < 256) → (∀ i, ∀ q ∈ (s.strm i).thrBy, q.1 < 256) →
      ∃ (t : State) (es : List (BitVec 256)), exec (.energyRecordSend job) s = .next t ∧
        t = { s with streams := t.streams, fab := { s.fab with jobs := t.fab.jobs }, out := { s.out with sent := s.out.sent ++ es.map fun e => .energy x.hw.toNat e } } ∧
        (x.whole = false → es.length = is.length ∧ ∀ (n : Nat) (i : StreamId), is[n]? = some i → ∃ e : BitVec 256, es[n]? = some e ∧
          tells e (uj i) i.toNat (s.strm i).thrNs (s.strm i).thrBy) ∧
        (x.whole = true → ∃ e, es = [e] ∧ tells e ((is.map uj).sum % 2 ^ 64) 0xFF x.thrNs x.thrBy) ∧
        (∀ i, t.strm i = if i ∈ is then { s.strm i with told := (s.strm i).energy, thrNs := 0, thrBy := [] } else s.strm i) ∧
        t.job j = { x with thrNs := 0, thrBy := [] } ∧ ∀ n, n ≠ j → t.job n = s.job n) ∧
    (∀ r, bit w.elog 52 = false → CountsOne (exec (.energyRecordReceive r) s) s evElogDrop) ∧
    (∀ r, bit w.elog 52 = true → s.memOk → (∀ ln, s.badLine ln = s.poisoned ln) → let n := 2 ^ bits w.elog 48 4
      let a := bits w.elog 0 48 + 32 * (w.elogHead.toNat % n)
      inStack a 32 = true → ∃ t, exec (.energyRecordReceive r) s = .next t ∧ t.memOk ∧
        t = { Beneath s t with mem := t.mem, evt := Counted s t, weir := { w with elogHead := BitVec.ofNat 16 ((w.elogHead.toNat + 1) % n) } } ∧
        (∀ k, k < 32 → (t.byte (a + k)).toNat = r.toNat / 256 ^ k % 256) ∧ SameBytesBut s t a 32) ∧
    ∀ v : W64, let c := v.toNat % 2 ^ 12
      (c < 1200 ∨ 3600 < c → refused (exec (.weirCapWrite v) s)) ∧
      (1200 ≤ c → c ≤ 3600 → only (exec (.weirCapWrite v) s) (if bit v 12 then { w with cap := BitVec.ofNat 64 (v.toNat % 2 ^ 13) }
        else { w with cap := BitVec.ofNat 64 (v.toNat % 2 ^ 13), exc := 0, excStuck := true })) ∧
      (let bad := bits v 0 6 = 0 ∨ 20 < bits v 8 5 ∨ 20 < bits v 16 5 ∨ bits v 24 5 = 0 ∨ bits v 32 8 < 10 ∨ 120 < bits v 32 8
       (bad → refused (exec (.weirCfgWrite v) s)) ∧
       (¬bad → ∃ q, only (exec (.weirCfgWrite v) s) { w with cfg := q } ∧ bits q 0 6 = bits v 0 6 ∧ bits q 8 5 = bits v 8 5 ∧
         bits q 16 5 = bits v 16 5 ∧ bits q 24 5 = bits v 24 5 ∧ bits q 32 8 = bits v 32 8 ∧ bits q 40 24 = 0)) ∧
      (bits v 0 12 ≠ 0 ∨ bits v 48 4 < 4 → refused (exec (.weirElogWrite v) s)) ∧
      (bits v 0 12 = 0 → 4 ≤ bits v 48 4 → only (exec (.weirElogWrite v) s)
        { w with elog := BitVec.ofNat 64 (v.toNat % 2 ^ 53), elogHead := if bit v 52 = true ∧ bit w.elog 52 = false then 0 else w.elogHead })

/-! ### The host port (R398-R416) -/

/-- BAR2: an access within the BAR reaches global address HIF_WIN + o. On this device a read is answered with the bytes that every
agent sees, poisoned if a line is, and a write stores exactly its bytes, clearing poison by whole lines only; an address outside
memory is refused. A remote access of one line becomes the packet of R362, a dead or unrouted device a Completer Abort. Before
RUNNING a read gives 0 and a write is dropped, each counted (R400-R402, R442). That D3hot answers Unsupported Request is the
model's reading (log 48, DEDUCED). -/
def Obligations.HostWindow : Prop :=
  ∀ (s : State) (off n : Nat) (bs : List Byte), s.hostUp = true → 0 < n → bs.length = n → off + n ≤ 2 ^ s.hif.bar2Log2 →
    let g := s.hif.win.toNat + off
    let a := g % 2 ^ 48
    let dev := g / 2 ^ 48
    let rd := exec (.bar2Read off n) s
    let wr := exec (.bar2Write off bs) s
    (s.hif.d3hot = true → rd = .next (s.reply .unsupported) ∧ wr = .next s) ∧
    (s.boot.phase ≠ .running → s.hif.d3hot = false → rd = .next ((s.countDev evHifBadAccess).reply (.bytes (List.replicate n 0))) ∧ CountsOne wr s evHifBadAccess) ∧
    (s.boot.phase = .running → s.hif.d3hot = false →
      (dev = s.own → inMem a n = false → rd = .next ((s.countDev evHifBadAccess).reply .unsupported) ∧ CountsOne wr s evHifBadAccess) ∧
      (dev = s.own → inMem a n = true →
        (∃ t, rd = .next t ∧ t.mem = s.mem ∧ t.out.replies = s.out.replies ++ [if s.poisonIn a n = none then .bytes (s.bytes a n) else .poisoned (s.bytes a n)] ∧
          ((∀ ln, s.badLine ln = s.poisoned ln) → t = { Beneath s t with evt := Counted s t, out := { s.out with replies := t.out.replies } })) ∧
        (s.memOk → (∀ ln, s.badLine ln = s.poisoned ln) → ∃ t, wr = .next t ∧ t.memOk ∧
          t = { Beneath s t with mem := t.mem, poison := t.poison, evt := Counted s t } ∧
          t.bytes a n = bs ∧ SameBytesBut s t a n ∧
          ∀ ln, t.poisoned ln = (s.poisoned ln && !decide (inStack a n = true ∧ a ≤ 128 * ln ∧ 128 * ln + 128 ≤ a + n)))) ∧
      (dev ≠ s.own → dev < 2 ^ 16 → a % 128 + n ≤ 128 → s.fab.waiting = [] →
        (s.isLive dev = false → rd = .next ((s.countDev evHifBadAccess).reply .completerAbort) ∧ CountsOne wr s evHifBadAccess) ∧
        (s.isLive dev = true → s.lineHeld dev a = false → ∀ tag, s.freeTag = some tag →
          let scalar := (n = 4 ∨ n = 8) ∧ a % n = 0 ∧ inStack a n = true
          let pkt (typ code : BitVec 8) (x : Nat) (mask : BitVec 128) (pay : List Byte) : Packet :=
            ⟨typ, BitVec.ofNat 16 dev, BitVec.ofNat 16 s.own, BitVec.ofNat 13 tag, BitVec.ofNat 48 x, code, 64, mask, pay⟩
          let line := a - a % 128
          let goes (o : Res) (k : Packet) (who : Requester) : Prop := ∀ p, s.routePort k = some p → ∃ t, o = .next t ∧
            t = { s with ports := t.ports, out := { s.out with packets := t.out.packets }, evt := Counted s t, fab := { s.fab with reqs := tput s.fab.reqs tag (some ⟨k, who, false⟩) } } ∧
            (k ∈ (t.port p).queue ∨ (p, k) ∈ t.out.packets)
          (scalar → goes rd (pkt 0x01 (BitVec.ofNat 8 n) a 0 []) (.bar2 0 n) ∧ goes wr (pkt 0x03 0 a 0 bs) (.bar2 0 n)) ∧
          (¬scalar → goes rd (pkt 0x02 0 line 0 []) (.bar2 (a % 128) n) ∧
            (s.routePort (pkt 0x02 0 line 0 []) = none → rd = .next ((s.countDev evHifBadAccess).reply .completerAbort)) ∧
            ∃ mask pay, goes wr (pkt 0x04 0 line mask pay) (.bar2 0 n) ∧ pay.length = 128 ∧ (pay.drop (a % 128)).take n = bs ∧
              ∀ j, j < 128 → bit mask j = decide (a % 128 ≤ j ∧ j < a % 128 + n)))))

/-- HIF_WIN refuses a base not aligned to the BAR2 size; ring registers refuse a size out of range and a change of base or size
while enabled, enabling one sets its indices to 0 and starts the first pass, and before RUNNING no ring is enabled (R401, R403,
R405, R408, R442, R483). IRQ_PEND_CLEAR clears the bits written as 1 (R412). -/
def Obligations.HostRegisters : Prop :=
  ∀ (s : State) (v : W64), s.hostUp = true →
    let bad (old : W64) : Prop := bits v 0 4 < 4 ∨ 12 < bits v 0 4 ∨
      (bit old 4 = true ∧ (bits v 0 4 ≠ bits old 0 4 ∨ bits v 12 52 ≠ bits old 12 52))
    let starts (old : W64) : Prop := bit v 4 = true ∧ bit old 4 = false
    let w := v &&& 0xFFFFFFFFFFFFF01F
    (s.boot.phase = .running →
      (v.toNat % 2 ^ s.hif.bar2Log2 ≠ 0 → CountsOne (exec (.hifWinWrite v) s) s evRegWriteRefused) ∧
      (v.toNat % 2 ^ s.hif.bar2Log2 = 0 → exec (.hifWinWrite v) s = .next { s with hif := { s.hif with win := v } }) ∧
      (∀ i, let r := s.sreg i
        (bad r.cmdRing → CountsOne (exec (.hifRingWrite (.cmd i) v) s) s evRegWriteRefused) ∧
        (¬bad r.cmdRing → (starts r.cmdRing → exec (.hifRingWrite (.cmd i) v) s = .next (s.setSreg i { r with cmdRing := w, cmdHead := 0, cmdTail := 0 })) ∧
          (¬starts r.cmdRing → exec (.hifRingWrite (.cmd i) v) s = .next (s.setSreg i { r with cmdRing := w }))) ∧
        (bad r.cplRing → CountsOne (exec (.hifRingWrite (.cpl i) v) s) s evRegWriteRefused) ∧
        (¬bad r.cplRing → let w := v &&& 0xFFFFFFFFFFFFF03F
          (starts r.cplRing → exec (.hifRingWrite (.cpl i) v) s =
            .next (s.setSreg i { r with cplRing := w, cplWr := 0, cplHead := 0, cplPhase := true, held := [] })) ∧
          (¬starts r.cplRing → bit v 4 = true → exec (.hifRingWrite (.cpl i) v) s = .next (s.setSreg i { r with cplRing := w })) ∧
          (bit v 4 = false → exec (.hifRingWrite (.cpl i) v) s = .next (s.setSreg i { r with cplRing := w, held := [] })))) ∧
      (∀ d : ChanId, let n := d.toNat
        let old := (s.chan n).ring
        (bad old → CountsOne (exec (.hifRingWrite (.dma d) v) s) s evRegWriteRefused) ∧
        (¬bad old → (starts old → exec (.hifRingWrite (.dma d) v) s =
            .next (s.modChan n fun c => { c with ring := w, head := 0, started := 0, tail := 0, work := [], sent := false, got := [], asked := 0, owed := 0 })) ∧
          (¬starts old → exec (.hifRingWrite (.dma d) v) s = .next (s.modChan n fun c => { c with ring := w }))) ∧
        (v.toNat % 8 ≠ 0 → CountsOne (exec (.hifRingWrite (.wb d) v) s) s evRegWriteRefused) ∧
        (v.toNat % 8 = 0 → exec (.hifRingWrite (.wb d) v) s = .next (s.modChan n fun c => { c with wb := v })))) ∧
    (s.boot.phase ≠ .running → exec (.hifWinWrite v) s = .next s ∧ ∀ which, CountsOne (exec (.hifRingWrite which v) s) s (if ringEnables which v then evRegWriteRefused else evHifBadAccess)) ∧
    ∀ inst, ∃ p, exec (.irqPendClear inst v) s = .next { s with hif := { s.hif with pend := p } } ∧
      ∀ c, c < 88 → (bit p c = true ↔ bit s.hif.pend c = true ∧ ¬(c / 64 = (if inst then 1 else 0) ∧ bit v (c % 64) = true))

/-- DMA channels: a tail doorbell moves the tail of an enabled ring that it does not overfill; a due descriptor is taken, one with
fence after all earlier ones, and asks the host for its data, with 512 requests of all channels outstanding at most; a bad one halts
the channel with its error. A transfer from the device writes its bytes to the host and then the write-back, one to the device stores
them first; lines of another device go by RDL and WRL, and the transfer ends with the last answer; irq raises the channel's cause. A
halt keeps the head and resumes on restart (R362, R408-R411). The order of errors, which index a halt writes back, and when a channel
takes up the requests it owes are the model's (log 48, DEDUCED). -/
def Obligations.HostDma : Prop :=
  ∀ (s : State) (chan : ChanId), s.up = true → s.hostUp = true → s.hif.d3hot = false →
    let ch := chan.toNat
    let c := s.chan ch
    let tag (d : BitVec 256) := bits d 192 32
    let asks (t : State) : Prop := (∀ k, k ≠ ch → t.chan k = { s.chan k with asked := (t.chan k).asked, owed := (t.chan k).owed }) ∧
      (∀ k, k ≠ ch → (t.chan k).asked + (t.chan k).owed = (s.chan k).asked + (s.chan k).owed) ∧
      (s.hostAsked ≤ 512 → t.hostAsked ≤ 512)
    let halts (o : Res) (u : State → State) (d : BitVec 256) (e : Code) : Prop := ∃ t, o = .next t ∧ asks t ∧
      t.chan ch = { c with halted := true, err := e, work := [], started := c.head, sent := false, got := [], asked := 0, owed := 0 } ∧
      RaisedAs { u t with
        hif := { s.hif with dma := t.hif.dma, turn := t.hif.turn },
        out := { s.out with hostWrites := s.out.hostWrites ++ [(c.wb, leBytes 8 (c.head.toNat + e.toNat * 2 ^ 16 + tag d * 2 ^ 32))] },
        evt := Counted s t } t (74 + ch)
    let done (o : Res) (u : State → State) (l : List (W64 × List Byte)) (d : BitVec 256) (ds : List (BitVec 256)) : Prop := ∃ t, o = .next t ∧
      asks t ∧ t.chan ch = { c with head := c.head + 1, work := ds, sent := false, got := [], asked := (t.chan ch).asked, owed := (t.chan ch).owed } ∧
      let m : State := { u t with
        hif := { s.hif with dma := t.hif.dma, turn := t.hif.turn },
        out := { s.out with hostWrites := s.out.hostWrites ++ l ++ [(c.wb, leBytes 8 ((c.head + 1).toNat + tag d * 2 ^ 32))] },
        evt := Counted s t }
      (bit d 161 = true → RaisedAs m t (74 + ch)) ∧ (bit d 161 = false → t = m)
    (∀ v : W32, let x : BitVec 16 := v.setWidth 16
      let good := bit c.ring 4 = true ∧ v.toNat < 2 ^ 16 ∧ (x - c.head).toNat ≤ 2 ^ bits c.ring 0 4
      (good → exec (.dmaTailDoorbell chan v) s = .next (s.modChan ch fun c => { c with tail := x })) ∧
      (¬good → CountsOne (exec (.dmaTailDoorbell chan v) s) s evHifDbBad)) ∧
    (∀ d : BitVec 256,
      let g := bits d 64 64
      let a := g % 2 ^ 48
      let dev := g / 2 ^ 48
      let n := bits d 128 32
      let due := bit c.ring 4 = true ∧ c.halted = false ∧ c.started ≠ c.tail
      let rsv := bits d 163 29 ≠ 0 ∨ bits d 224 32 ≠ 0
      let fence := bit d 162
      let piece := 2 ^ s.hif.readLog2
      let pieces := if bit d 160 then 0 else ceilDiv (bits d 0 64 % piece + n) piece
      let pkt (typ : BitVec 8) (tag : Nat) (x : Nat) (mask : BitVec 128) (pay : List Byte) : Packet :=
        ⟨typ, BitVec.ofNat 16 dev, BitVec.ofNat 16 s.own, BitVec.ofNat 13 tag, BitVec.ofNat 48 x, 0, 64, mask, pay⟩
      let o := exec (.dmaDescriptor chan d) s
      (¬due → o = .next s) ∧
      (due → c.work = [] ∨ fence = false → ¬rsv → n = 0 ∨ dev = s.own ∧ inMem a n = true → ∃ t, o = .next t ∧ asks t ∧
        t = { s with hif := { s.hif with dma := t.hif.dma, turn := t.hif.turn }, evt := Counted s t } ∧
        t.chan ch = { c with started := c.started + 1, work := c.work ++ [d], asked := (t.chan ch).asked, owed := (t.chan ch).owed } ∧
        (t.chan ch).asked + (t.chan ch).owed = c.asked + c.owed + pieces ∧
        ((∃ k, k < 8 ∧ 0 < (t.chan k).owed) → 512 ≤ t.hostAsked)) ∧
      (due → c.work ≠ [] → fence = true ∨ rsv → o = .next s) ∧
      (due → c.work = [] → s.dmaPending ch = false →
        (rsv → halts o (fun _ => s) d eOperand) ∧
        (¬rsv → 0 < n → (dev = s.own → inMem a n = false → halts o (fun _ => s) d eBounds) ∧
          (dev ≠ s.own → (2 ^ 48 < a + n → halts o (fun _ => s) d eBounds) ∧
            (a + n ≤ 2 ^ 48 → s.isLive dev = false → halts o (fun _ => s) d eFabUnreach) ∧
            (a + n ≤ 2 ^ 48 → s.isLive dev = true → s.routePort (pkt 0x04 0 a 0 []) = none → halts o (fun _ => s) d eFabRoute)))) ∧
      ∀ ds host, c.halted = false → c.sent = false → c.work = d :: ds →
        let o := exec (.dmaDescriptorDone chan host) s
        let goes (q : Packet) (tag : Nat) (who : Requester) : Prop := ∀ p, s.routePort q = some p → ∃ t, o = .next t ∧
          t = { s with ports := t.ports, out := { s.out with packets := t.out.packets }, evt := Counted s t, fab := { s.fab with reqs := tput s.fab.reqs tag (some ⟨q, who, false⟩) }, hif := { s.hif with dma := t.hif.dma } } ∧
          t.chan ch = { c with sent := true, got := (t.chan ch).got } ∧ (∀ k, k ≠ ch → t.chan k = s.chan k) ∧
          (q ∈ (t.port p).queue ∨ (p, q) ∈ t.out.packets)
        let one := dev ≠ s.own ∧ a % 128 + n ≤ 128 ∧ s.fab.waiting = [] ∧ s.isLive dev = true ∧ s.lineHeld dev a = false
        let calm := ∀ ln, s.badLine ln = s.poisoned ln
        (n = 0 → done o (fun _ => s) [] d ds) ∧
        (0 < n → bit d 160 = true → dev = s.own → inMem a n = true → s.poisonIn a n = none → calm →
          done o (Beneath s) [(BitVec.ofNat 64 (bits d 0 64), s.bytes a n)] d ds) ∧
        (0 < n → bit d 160 = true → dev = s.own → s.poisonIn a n ≠ none → calm → s.dmaPending ch = false → halts o (Beneath s) d eStackUe) ∧
        (0 < n → bit d 160 = true → one → ∀ tag, s.freeTag = some tag →
          goes (pkt 0x02 tag (a - a % 128) 0 []) tag (.dmaRead ch 0 (a % 128) n)) ∧
        (0 < n → bit d 160 = false → host = none → s.dmaPending ch = false → halts o (fun _ => s) d eHostDma) ∧
        (∀ bs, 0 < n → bit d 160 = false → host = some bs → bs.length = n →
          (dev = s.own → inMem a n = true → s.memOk → calm →
            done o (fun t => { Beneath s t with mem := t.mem, poison := t.poison }) [] d ds ∧
            ∀ t, o = .next t → t.memOk ∧ t.bytes a n = bs ∧ SameBytesBut s t a n) ∧
          (one → ∀ tag, s.freeTag = some tag → ∃ mask pay, goes (pkt 0x04 tag (a - a % 128) mask pay) tag (.dma ch) ∧
            pay.length = 128 ∧ (pay.drop (a % 128)).take n = bs ∧ ∀ j, j < 128 → bit mask j = decide (a % 128 ≤ j ∧ j < a % 128 + n)))) ∧
    (∀ (k : Packet) (r : Req) (d : BitVec 256) (ds : List (BitVec 256)), s.Quiet → c.sent = true → c.work = d :: ds → k.dst.toNat = s.own →
      tget none s.fab.reqs k.tag.toNat = some r → r.pkt.dst = k.src → r.dropped = false →
      (∀ e ∈ s.fab.reqs, e.1 ≠ k.tag.toNat → ∀ q, e.2 = some q → q.who.isDma ch = false) →
      let freed (_ : State) : State := { s with fab := { s.fab with reqs := tput s.fab.reqs k.tag.toNat none } }
      ((s.fab.reqs.map Prod.fst).Pairwise (· < ·) → r.pkt.typ = 0x04 → r.who = .dma ch → bit d 160 = false → done (exec (.ack k) s) freed [] d ds) ∧
      ((s.fab.reqs.map Prod.fst).Pairwise (· < ·) → ∀ skip, r.pkt.typ = 0x02 → r.who = .dmaRead ch 0 skip (bits d 128 32) → bit d 160 = true → bit k.code 0 = false →
        ((k.pay.drop skip).take (bits d 128 32)).length = bits d 128 32 →
        done (exec (.data k) s) freed [(BitVec.ofNat 64 (bits d 0 64), (k.pay.drop skip).take (bits d 128 32))] d ds)) ∧
    ((c.halted = true → exec (.dmaRestart chan) s = .next (s.modChan ch fun c => { c with halted := false })) ∧
      (c.halted = false → exec (.dmaRestart chan) s = .next s))

/-- Configuration space answers Request Retry Status until the image is verified, then Vendor, Device and class codes and the
serial number, and sizes BAR2 and read requests and masks MSI-X messages, which wait for their mask bit (R399, R400, R411, R412);
D3hot holds writes and messages back until the return to D0; MCTP serves control, SPDM and secured messages, a bad PEC discards a
packet; SPDM is busy before step 4, holds four sessions, serves the certificate chain and six measurement blocks, which measure
what R467 lists, signed by the alias key; IDE keys need a session and an unlocked levee bit, an integrity failure leaves the Secure
state (R399, R413, R414, R422, R443, R461, R464-R467). Sessions of IDE_KM, certificates of empty slots and requests in FAILED beyond
those named are the model's reading (log 48, DEDUCED), the blocks' format PRESUMED, other bodies free (log 16, DESIGN CHOICE). -/
def Obligations.HostEndpoints : Prop :=
  ∀ (s : State),
    let gives (o : Res) (s0 : State) (r : Reply) : Prop := o = .next { s0 with out := { s.out with replies := s.out.replies ++ [r] } }
    (s.hostUp = true → let ready := s.boot.imageOk = true ∨ s.boot.phase = .recovery
      (¬ready → ∀ req, gives (exec (.configRequest req) s) s .retryStatus) ∧
      (ready → (∀ off : BitVec 12, let o := exec (.configRequest (.read off)) s
          (off.toNat / 4 = 0 → gives o s (.value 0x05121F4D)) ∧
          (off.toNat / 4 = 2 → ∃ v : W64, v.toNat / 256 = 0x120000 ∧ gives o { s with freeCtr := s.freeCtr + 1 } (.value v)) ∧
          let at_ := 64 + Config.serialAt
          (off.toNat / 4 = at_ + 1 → gives o s (.value (BitVec.ofNat 64 (deviceSerial.toNat % 2 ^ 32)))) ∧
          (off.toNat / 4 = at_ + 2 → gives o s (.value (BitVec.ofNat 64 (deviceSerial.toNat / 2 ^ 32)))) ∧
          (off.toNat / 4 ≠ 0 → off.toNat / 4 ≠ at_ + 1 → off.toNat / 4 ≠ at_ + 2 →
            ∃ v : W64, v.toNat < 2 ^ 32 ∧ gives o { s with freeCtr := s.freeCtr + 1 } (.value v))) ∧
        (∀ n : BitVec 3, n.toNat ≤ 5 →
          gives (exec (.configRequest (.readSize n)) s) { s with hif := { s.hif with readLog2 := 7 + n.toNat } } (.bytes [])) ∧
        (∀ n : BitVec 6, 28 ≤ n.toNat → n.toNat ≤ 36 →
          gives (exec (.configRequest (.resizeBar2 n)) s) { s with hif := { s.hif with bar2Log2 := n.toNat } } (.bytes [])) ∧
        (∀ en mask, en = false ∨ mask = true → gives (exec (.configRequest (.msixControl en mask)) s)
          { s with hif := { s.hif with msixEn := en, msixMask := mask } } (.bytes [])) ∧
        (s.hif.d3hot = false → ∀ v,
          (∀ mask, s.hif.msixEn = false ∨ s.hif.msixMask = true ∨ s.hif.msixPba = [] → exec (.configRequest (.msixVector v mask)) s =
            .next { s with hif := { s.hif with vecOpen := tput s.hif.vecOpen v.toNat (!mask) } }) ∧
          (s.hif.msixEn = true → s.hif.msixMask = false → v ∈ s.hif.msixPba →
            ∃ t, exec (.configRequest (.msixVector v false)) s = .next t ∧ v ∈ t.out.msix ∧ v ∉ t.hif.msixPba ∧
              t = { s with out := { s.out with msix := t.out.msix }, hif := { s.hif with vecOpen := tput s.hif.vecOpen v.toNat true, msixPba := t.hif.msixPba } })))) ∧
    (s.hostUp = true → exec .d3hotEnter s = .next { s with hif := { s.hif with d3hot := true } }) ∧
    (s.hif.d3hot = false → exec .d0Return s = .next s) ∧
    (s.hif.d3hot = true → ∃ t, exec .d0Return s = .next t ∧ t.hif.d3hot = false ∧ t.hif.held = [] ∧ t.hif.msixHeld = [] ∧
      t = { s with sregs := t.sregs, hif := { s.hif with d3hot := false, held := [], msixHeld := [], pend := t.hif.pend, msixPba := t.hif.msixPba }, out := { s.out with hostWrites := t.out.hostWrites, msix := t.out.msix } } ∧
      (∃ l, t.out.hostWrites = s.out.hostWrites ++ s.hif.held ++ l) ∧ (∃ l, t.out.msix = s.out.msix ++ s.hif.msixHeld ++ l) ∧
      (∀ i, (s.sreg i).unconsumed + (s.sreg i).held.length ≤ 2 ^ bits (s.sreg i).cplRing 0 4 → (t.sreg i).held = []) ∧
      ((∀ i, (s.sreg i).held = []) → t.sregs = s.sregs ∧ t.hif.pend = s.hif.pend)) ∧
    (∀ (req : SpdmReq) (smbus : Bool) (body : List Byte), (if smbus then s.pins.standby else s.hostUp) = true →
      let o := exec (.spdmRequest req smbus body) s
      let ph := s.boot.phase
      (ph = .rom → gives o s (.spdmError "Busy")) ∧
      let signs (b : List Byte) : List Byte := match s.sec.bootKey with
        | some d => b ++ sigBytes (signBytes d (Config.signedPart body b))
        | none => b
      (ph ≠ .rom → (req = .version ∨ req = .capabilities ∨ req = .algorithms → ∃ b, gives o s (.message 5 b)) ∧
        (req = .certificate 0 → ∃ b, gives o s (.message 5 (b ++ s.certChain))) ∧
        (req = .digests → ∃ b, gives o s (.message 5 (b ++ sha384 s.certChain))) ∧
        ∀ i : Byte, 0 < i.toNat → i.toNat < 6 → req = .measurement i → ∃ b, gives o s (.message 5 (signs (b ++ s.measureBlock i.toNat)))) ∧
      (ph = .failed ∨ ph = .recovery → req = .keyExchange → gives o s (.spdmError "UnexpectedRequest")) ∧
      (ph ≠ .rom → ph ≠ .failed → ph ≠ .recovery →
        (req = .challenge → ∃ b, gives o s (.message 5 (signs (b ++ sha384 s.certChain)))) ∧
        (req = .measurement 6 → ∃ b, gives o s (.message 5 (signs (b ++ s.measureBlock 6)))) ∧
        (req = .measurement 0xFF → ∃ b, gives o s (.message 5 (signs (b ++ ((List.range 6).map (· + 1)).flatMap s.measureBlock)))) ∧
        (req = .keyExchange → 4 ≤ s.hif.sessions → gives o s (.spdmError "SessionLimitExceeded")) ∧
        (req = .keyExchange → s.hif.sessions < 4 → ∃ b, gives o { s with hif := { s.hif with sessions := s.hif.sessions + 1 } } (.message 5 (signs b))) ∧
        (req = .finish ∨ req = .heartbeat ∨ req = .keyUpdate → s.hif.sessions ≠ 0 → ∃ b, gives o s (.message 5 b)) ∧
        (req = .endSession → s.hif.sessions ≠ 0 → ∃ b, gives o { s with hif := { s.hif with sessions := s.hif.sessions - 1 } } (.message 5 b)) ∧
        (req = .finish ∨ req = .heartbeat ∨ req = .keyUpdate ∨ req = .endSession → s.hif.sessions = 0 → gives o s (.spdmError "UnexpectedRequest")) ∧
        (req = .other → gives o s (.spdmError "UnsupportedRequest")))) ∧
    (s.measurement 1 = beBytes 48 Config.romDigest.toNat ∧
      s.measurement 2 = s.flashBytes ((if s.boot.slot then 0x1000000 else 0) + 0x40) 48 ++ [if s.boot.slot then 1 else 0] ++ leBytes 2 s.boot.svn.toNat ∧
      s.measurement 3 = s.flashBytes 0x2000040 48 ∧
      s.measurement 4 = leBytes 2 s.sec.floor.toNat ++ [BitVec.ofNat 8 (((List.range 4).map fun k => b2n (s.revoked k) * 2 ^ k).sum)] ∧
      s.measurement 5 = [BitVec.ofNat 8 s.sec.levee.toNat, if s.sec.dbgEn then 1 else 0, BitVec.ofNat 8 (phaseCode s.boot.phase)] ∧
      (s.measurement 6).length = 320 ∧ ∀ i, 1 ≤ i → i ≤ 6 → ∃ h, h.length = 7 ∧ s.measureBlock i = h ++ s.measurement i) ∧
    (∀ (smbus : Bool) (typ eid : Byte) (body : List Byte),
      let o := if smbus then exec (.smbusPacket true typ eid body) s else exec (.mctpMessage typ eid body) s
      let own := if smbus then s.hif.eidSmb else s.hif.eid
      exec (.smbusPacket false typ eid body) s = .next s ∧
      ((if smbus then s.pins.standby else s.hostUp) = false → o = .next s) ∧
      ((if smbus then s.pins.standby else s.hostUp) = true →
        (eid ≠ own → o = .next s) ∧
        (eid = own → typ = 0 → ∃ b, gives o (if body.getD 1 0 = 1 then
            (if smbus then { s with hif := { s.hif with eidSmb := body.getD 3 0 } } else { s with hif := { s.hif with eid := body.getD 3 0 } })
          else s) (.message 0 b)) ∧
        (eid = own → eid ≠ 0 → typ = 6 → ∃ b, gives o s (.message 6 b)) ∧
        (eid = own → eid ≠ 0 → typ = 5 → o = exec (.spdmRequest (spdmOf body) smbus body) s) ∧
        (eid = own → eid ≠ 0 → typ ≠ 0 → typ ≠ 5 → typ ≠ 6 → ∃ b, gives o s (.message 0 b)))) ∧
    (∀ k : BitVec 2, let x := s.ideOf k.toNat
      let sets (o : Res) (y : Ide) : Prop := ∃ t, o = .next t ∧ t = { s with hif := { s.hif with ide := t.hif.ide } } ∧
        t.ideOf k.toNat = y ∧ ∀ n, n ≠ k.toNat → t.ideOf n = s.ideOf n
      (s.hostUp = true → s.hif.sessions ≠ 0 → ∀ on,
        (bit s.sec.levee 1 = true → CountsOne (exec (.ideKm (.configure k on)) s) s evLeveeWriteDenied) ∧
        (bit s.sec.levee 1 = false → sets (exec (.ideKm (.configure k on)) s) { x with enabled := on, secure := x.secure && on }) ∧
        (bit s.sec.levee 1 = true → x.enabled = false → CountsOne (exec (.ideKm (.program k on)) s) s evLeveeWriteDenied) ∧
        (x.enabled = true ∨ bit s.sec.levee 1 = false →
          sets (exec (.ideKm (.program k on)) s) { x with keyed := true, secure := x.secure || (on && x.enabled) })) ∧
      (s.hif.sessions = 0 → ∀ km, exec (.ideKm km) s = .next s) ∧
      (x.secure = false → exec (.ideIntegrityFail k) s = .next s) ∧
      (x.secure = true → s.flt.lockstep = false → ∃ t, exec (.ideIntegrityFail k) s = .next t ∧
        (t.ideOf k.toNat) = { x with secure := false } ∧ (∀ n, n ≠ k.toNat → t.ideOf n = s.ideOf n) ∧
        RaisedAs { s with evt := Counted s t, hif := { s.hif with ide := t.hif.ide }, flt := { s.flt with latch := s.flt.latch ++ [(⟨eIde, 4, 0, none, 0, 0⟩, 1, s.time)] } } t 87))

/-! ### Power, start-up and resets (R418-R451) -/

/-- The boot ROM tries slot A, then slot B. The first slot to pass R435 runs. If neither passes, the device enters recovery.
BOOT_STATUS.slot shows the slot that ran, and err shows the error of slot A's rejection if slot B ran (R436). The slot of an update
that was under way has failed before (R446). -/
def Obligations.BootRom : Prop :=
  ∀ (s : State) (id : BitVec 4) (o : Res),
    (o = exec (.vinRise id) s ∧ s.pins.standby = false) ∨ (o = exec (.perstAssert id) s ∧ s.pins.standby = true ∧ s.pins.pwrEn = true) →
    let u := s.breakUpdate
    let a := u.flashCheck 0 1
    let b := u.flashCheck 0x1000000 1
    ∃ t, o = .next t ∧
      (a = 0 → t.boot.imageOk = true ∧ t.boot.slot = false ∧ t.boot.err = 0 ∧ t.boot.svn = u.slotSvn false ∧ t.boot.phase ≠ .recovery) ∧
      (a ≠ 0 → b = 0 → t.boot.imageOk = true ∧ t.boot.slot = true ∧ t.boot.err = a ∧ t.boot.svn = u.slotSvn true ∧ t.boot.phase ≠ .recovery) ∧
      (a ≠ 0 → b ≠ 0 → t.boot.imageOk = false ∧ t.boot.phase = .recovery)

/-- The pins: VIN starts the standby domain and samples SLOT_ID, its loss darkens the machine but for fuses and flash; PWR_EN turns
the rails on, releases PWR_GOOD if they are in regulation and clears THERM_TRIP#; a rail out of regulation pulls PWR_GOOD low;
PERST# samples SLOT_ID and its release trains the link once PWR_GOOD is released (R420, R421, R427, R437, R443). -/
def Obligations.PowerPins : Prop :=
  ∀ (s : State),
    let p := s.pins
    (∀ id, (p.standby = true → exec (.vinRise id) s = .next s) ∧
      (p.standby = false → ∃ t, exec (.vinRise id) s = .next t ∧ t.time = 0 ∧ t.mem = [] ∧ t.streams = [] ∧ t.sec.levee = 0 ∧ t.flt = State.reset.flt ∧
        (∀ a, a < 0x3003000 ∨ 0x3004000 ≤ a → t.flashByte a = s.breakUpdate.flashByte a) ∧ t.sec.floor = s.sec.floor ∧ t.sec.revoked = s.sec.revoked ∧
        t.pins = { State.reset.pins with standby := true, slotId := id, pwrEn := p.pwrEn, corePower := p.pwrEn, pwrGood := p.pwrEn, perst := p.perst, prsnt := p.prsnt })) ∧
    (∀ c, c = Instr.vinUndervolt ∨ c = .vinOvervolt → (p.standby = false → exec c s = .next s) ∧
      (p.standby = true → ∃ t, exec c s = .next t ∧ t = { State.reset with pending := s.pending, freeCtr := s.freeCtr, out := s.out, repairs := t.repairs, boot := { State.reset.boot with flash := s.breakUpdate.boot.flash }, sec := { State.reset.sec with revoked := s.sec.revoked, floor := s.sec.floor }, pins := { State.reset.pins with pwrEn := p.pwrEn, perst := p.perst, prsnt := p.prsnt } } ∧
        ∀ e, e ∈ t.repairs ↔ e ∈ s.repairs ∧ e.1 / 128 % 4 = 0)) ∧
    (∀ good, (p.pwrEn = true → exec (.pwrEnRise good) s = .next s) ∧
      (p.pwrEn = false → p.standby = false → exec (.pwrEnRise good) s = .next { s with pins := { p with pwrEn := true } }) ∧
      (p.pwrEn = false → p.standby = true → exec (.pwrEnRise good) s = .next
        { s with pins := { p with pwrEn := true, corePower := true, pwrGood := good, thermTrip := false }, hif := { s.hif with linkUp := good && !p.perst }, boot := { s.boot with phase := if good = true ∧ s.boot.phase = .image then .rails else s.boot.phase } })) ∧
    (p.pwrEn = false → exec .pwrEnFall s = .next s) ∧
    (p.pwrEn = true → p.standby = false → exec .pwrEnFall s = .next { s with pins := { p with pwrEn := false } }) ∧
    exec .railOutOfRegulation s = .next { s with pins := { p with pwrGood := false } } ∧
    (∀ id, p.standby = false ∨ p.pwrEn = false → exec (.perstAssert id) s = .next
      { s with pins := { p with perst := true, slotId := if p.standby then id else p.slotId } }) ∧
    exec .perstRelease s = .next
      { s with pins := { p with perst := false }, hif := { s.hif with linkUp := p.pwrGood }, boot := { s.boot with phase := if p.pwrGood = true ∧ s.boot.phase = .image then .rails else s.boot.phase } }

/-- host_ack is accepted only in phase READY, and otherwise refused with E_BOOT and counted. Its acceptance sets phase RUNNING, after
which ring enables are accepted (R444). BOOT_HOST_ACK has no err field, so that the count is the refusal's only record (R483). -/
def Obligations.HostAck : Prop :=
  ∀ s : State, s.hostUp = true →
    (s.boot.phase ≠ .ready → CountsOne (exec .hostAck s) s evRegWriteRefused) ∧
    (s.boot.phase = .ready →
      let t : State := { s with boot := { s.boot with phase := .running } }
      exec .hostAck s = .next t ∧
      ∀ (i : StreamId) (v : W64), bit v 4 = true → 4 ≤ bits v 0 4 → bits v 0 4 ≤ 12 → bit (s.sreg i).cmdRing 4 = false →
        CountsOne (exec (.hifRingWrite (.cmd i) v) s) s evRegWriteRefused ∧
        ∃ u, exec (.hifRingWrite (.cmd i) v) t = .next u ∧ bit (u.sreg i).cmdRing 4 = true ∧ bits (u.sreg i).cmdRing 0 4 = bits v 0 4 ∧
          bits (u.sreg i).cmdRing 12 52 = bits v 12 52)

/-- Steps 6 to 10 run once the image is verified and PWR_GOOD is released: repair data is checked, the stack zero-filled, failing
lanes are mapped to spares, a tier with more than four of a kind fails; two failed tiers of a vault, two failing cores of a cluster,
a second self-test failure, a cache or a monitor fail the start-up, and what only degrades is marked and reported; every fault is
recorded and READY is reached, or FAILED with the error (R226, R437-R442, R450). The operation fetch writes a candidate image that passes R435
to the named slot, in recovery with a warm restart, in RUNNING for the slot that is not running; a length above 16,777,216 is
E_BOUNDS, the running slot E_BUSY, a rejected image leaves flash unchanged, and other ops are E_HANDLE (R445, R446, R483). -/
def Obligations.StartUp : Prop :=
  (∀ (s : State) (i : StartupInput),
    let ready := s.boot.phase = .rails ∧ s.pins.pwrGood = true ∧ s.pins.corePower = true
    let o := exec (.startupContinue i) s
    let image := s.flashCheck 0x2000000 2
    let tierBad (v k : Nat) : Prop := ∃ bond, 4 < (badLanes i v k bond).length
    let tiers := i.lanes = [] ∧ i.marks = [] ∧ ∀ e ∈ s.vaults, ones 6 e.2.failed < 2
    let cores := (i.scanFail.map Prod.fst).Nodup ∧ ∀ e ∈ i.scanFail, ones 17 e.2 < 2
    let spare (c : Nat) (x : Nat) : Prop :=
      (∀ e ∈ i.scanFail, e.1.toNat = c → ∀ k, k < 17 → bit e.2 k = true → x = k) ∧
      ((∀ e ∈ i.scanFail, e.1.toNat = c → e.2 = 0) → ∀ e ∈ i.spare, (i.spare.map Prod.fst).Nodup → e.1.toNat = c → x = min 16 e.2.toNat)
    let failed (t : State) (e : Code) : Prop := t.boot = { s.boot with phase := .failed, err := e }
    (¬ready → o = .next s) ∧
    (ready → i.tripped = true → ∃ t, o = .next t ∧ failed t eThermalTrip ∧ t.pins = { s.pins with corePower := false, thermTrip := true }) ∧
    (ready → i.tripped = false → s.flt.lockstep = false → ∃ t, o = .next t ∧ t.flt.latch = [] ∧
      (image ≠ 0 → failed t image ∧ t.mem = s.mem) ∧
      (image = 0 → t.mem = [] ∧ t.poison = [] ∧
        (∀ k x, k / 128 % 4 = 1 → i.repairs = [(k, x)] → tget 0 t.repairs k = x) ∧
        (∀ l, i.lanes = [l] → l.tier.toNat < 6 → let w := tget 0 t.repairs ((l.vault.toNat * 8 + l.tier.toNat) * 512 + 256)
          bits w 0 2 = 3 ∧ bits w 2 3 = l.tier.toNat ∧ bits w 10 9 = l.lane.toNat ∧ bits w 23 3 = if l.bond then 4 else 0) ∧
        (∀ v m, i.marks = [(v, m)] → 2 ≤ ones 6 m → failed t eBootHw) ∧
        (∀ v k, v < 512 → k < 6 → tierBad v k → bit (t.vault v).failed k = true) ∧
        (∀ v k l, v < 512 → k < l → l < 6 → tierBad v k → tierBad v l → failed t eBootHw) ∧
        (tiers →
          (∀ c m, i.scanFail = [(c, m)] → 2 ≤ ones 17 m → failed t eBootHw) ∧
          (cores →
            (∀ c, c < 32 → i.selfFail = [] → spare c (bits (t.cluster c).coreSpare 0 5)) ∧
            (∀ c (m : BitVec 17) k, i.scanFail = [] → i.selfFail = [(c, m)] → k < 17 → bit m k = true → ones 17 m = 1 → bits (spareOf i c.toNat) 0 5 ≠ k →
              bits (t.cluster c.toNat).coreSpare 0 5 = k ∧ bit (t.cluster c.toNat).coreSpare (5 + k) = true ∧
              (c ∈ i.retestFail → failed t eBootHw)) ∧
            (i.selfFail = [] → i.cacheFail ≠ none → failed t eBootHw) ∧
            (i.selfFail = [] → i.cacheFail = none →
              (i.monitorFail ≠ none → failed t eBootHw) ∧
              (∀ x ∈ i.sensorFail, (t.sensor x).failed = true ∧ bit t.hif.pend 83 = true) ∧
              (∀ c, c < 32 → (s.cluster c).starting = true →
                let raw := ((i.noise.find? fun e => decide (e.1.toNat = c)).map Prod.snd).getD []
                (t.cluster c).starting = false ∧ ((t.cluster c).healthy = true ↔ ((s.cluster c).health.bits raw).2 = none)) ∧
              (i.monitorFail = none → t.boot = { s.boot with phase := .ready } ∧ t.weir.staticP = i.staticP ∧ t.weir.staticI = i.staticI ∧
                (∀ e ∈ i.videoFail, (t.engine e.toNat).withheld = true) ∧
                (i.noise = [] → i.sensorFail = [] → s.flt.latch = [] →
                  t.flt = s.flt ∧ t.out = s.out ∧ t.hif = s.hif)))))))) ∧
  ∀ (s : State) (len : BitVec 25) (slot : Bool) (image : List Byte), s.hostUp = true →
    let n := len.toNat
    let o := exec (.bootRcvFetch len slot image) s
    let e := s.imageCheck 1 n (sliceOf image)
    let ends (o : Res) (c : Code) : Prop := o = .next { s with boot := { s.boot with rcvLen := len, rcvSlot := slot, rcvDone := true, rcvErr := c } }
    let ph := s.boot.phase
    let open_ := ph = .recovery ∨ (ph = .running ∧ slot ≠ s.boot.slot)
    let written (t : State) (k : Nat) : Prop := t.flashByte k =
      if slotBase slot ≤ k ∧ k < slotBase slot + n then image.getD (k - slotBase slot) 0 else s.flashByte k
    (s.OpFree (.rcvFetch len slot) →
      (ph ≠ .recovery → ph ≠ .running → ends o eBoot) ∧
      (ph = .recovery ∨ ph = .running → n = 0 → ends o 0) ∧
      (ph = .running → slot = s.boot.slot → 0 < n → n ≤ 16777216 → ends o eBusy) ∧
      (open_ → 16777216 < n → ends o eBounds) ∧
      (open_ → 0 < n → n ≤ 16777216 → e ≠ 0 → ends o e) ∧
      (open_ → 0 < n → n ≤ 16777216 → e = 0 → ∃ t, o = .next t ∧ (∀ k, ph = .running ∨ k < 0x3003000 ∨ 0x3004000 ≤ k → written t k) ∧
        (ph = .running → t = { s with boot := { s.boot with rcvLen := len, rcvSlot := slot, rcvDone := true, rcvErr := 0, flash := t.boot.flash } }) ∧
        (ph = .recovery → t.boot.lastReset = 2 ∧ t.streams = [] ∧ t.mem = []))) ∧
    (s.busy .rcv = false → ends (exec (.bootRcvOpRefused len slot) s) eHandle) ∧
    (s.busy .rcv = true → CountsOne (exec (.bootRcvOpRefused len slot) s) s evRegWriteRefused)

/-- What the resets leave (R447-R449): a cold and a warm reset clear memory, streams, groups, pools, rings, membership, routes, levee
bits and soft repairs and keep fuses, flash and COB_TIME; a warm one also keeps fault records and counts since cold reset. A
function-level reset keeps stack, levee bits, membership and repairs, and clears the rest; blocks of remote streams are abandoned,
each stream faulting with E_RESET. It waits for outbound remote requests, the host port silent, and completes with the last answer;
without one it completes at once, in READY too (R450; log 49, DEDUCED). An update under way leaves its slot failing R435 (R446). -/
def Obligations.Resets : Prop :=
  ∀ (s : State),
    let gone (t : State) : Prop := t.mem = [] ∧ t.unspec = [] ∧ t.poison = [] ∧ t.streams = [] ∧ t.sregs = [] ∧ t.ctxs = [] ∧ t.mis = [] ∧
      t.merge = [] ∧ t.cores = [] ∧ t.groups = [] ∧ t.pools = [] ∧ t.engines = [] ∧ t.dev = .reset ∧ t.fab = .reset ∧ t.evt = State.reset.evt ∧
      t.ops = [] ∧ t.fars = [] ∧ t.upsets = [] ∧ t.sec = { State.reset.sec with revoked := s.sec.revoked, floor := s.sec.floor, bootKey := t.sec.bootKey } ∧
      t.time = s.time ∧ (∀ a, a < 0x3003000 ∨ 0x3004000 ≤ a → t.flashByte a = s.breakUpdate.flashByte a) ∧
      (∀ e, e ∈ t.repairs ↔ e ∈ s.repairs ∧ e.1 / 128 % 4 = 0) ∧ t.hif = { Hif.reset with eidSmb := s.hif.eidSmb }
    (s.pins.standby = true → s.pins.pwrEn = true →
      (∃ t, exec .pwrEnFall s = .next t ∧ gone t ∧ t.clusters = [] ∧ t.vaults = [] ∧ t.ports = [] ∧ t.weir = .reset ∧ t.flt = State.reset.flt ∧
        t.pins = { s.pins with pwrEn := false, pwrGood := false, corePower := false } ∧ t.boot.lastReset = 1 ∧ t.boot.imageOk = s.boot.imageOk ∧
        t.boot.slot = s.boot.slot ∧ t.boot.svn = s.boot.svn ∧ t.sec.bootKey = s.sec.bootKey ∧
        t.boot.phase = if s.boot.imageOk then .image else .recovery) ∧
      ∀ id, ∃ t, exec (.perstAssert id) s = .next t ∧ gone t ∧ t.boot.lastReset = 2 ∧
        t.pins = { s.pins with perst := true, slotId := id, corePower := true } ∧
        (∀ c, t.cluster c = { Cluster.reset with failCount := (s.cluster c).failCount }) ∧
        (∀ v, t.vault v = { Vault.reset with ce := (s.vault v).ce, ue := (s.vault v).ue }) ∧
        (∀ p, t.port p = { Port.reset with retries := (s.port p).retries, downs := (s.port p).downs }) ∧
        t.weir = { Weir.reset with reasonNs := s.weir.reasonNs } ∧
        t.flt = { s.flt with ring := 4, lockstep := false, hold := false }) ∧
    (s.hostUp = false → exec .functionLevelReset s = .next s) ∧
    (s.hostUp = true → (∃ q ∈ s.fab.reqs, q.2 ≠ none) → ∃ t, exec .functionLevelReset s = .next t ∧ t.boot = { s.boot with flrAt := some s.time } ∧
      t.hostUp = false ∧ (∀ i, (t.strm i).state = .empty) ∧ t.dev = s.dev ∧ t.sec = s.sec) ∧
    (∀ k r x, s.up = true → s.boot.flrAt = some x → s.fab.waiting = [] → s.fab.mstate ≠ .leaving → k.dst.toNat = s.own →
      (s.fab.reqs.map Prod.fst).Pairwise (· < ·) → tget none s.fab.reqs k.tag.toNat = some r → r.pkt.dst = k.src → r.pkt.typ = 0x04 → r.who = .posted →
      (∀ e ∈ s.fab.reqs, e.1 ≠ k.tag.toNat → e.2 = none) → ∃ t, exec (.ack k) s = .next t ∧ t.boot.flrAt = none ∧ t.boot.lastReset = 3 ∧
        t.streams = [] ∧ t.sregs = [] ∧ t.groups = [] ∧ t.pools = [] ∧ t.ops = [] ∧ t.sec.levee = s.sec.levee ∧
        t.fab = { s.fab with reqs := tput s.fab.reqs k.tag.toNat none } ∧ t.evt = { State.reset.evt with snapAt := s.evt.snapAt }) ∧
    (s.hostUp = true → (∀ q ∈ s.fab.reqs, q.2 = none) → s.fab.waiting = [] → ∃ t, exec .functionLevelReset s = .next t ∧
      (∀ i, t.strm i = .empty ∧ t.sreg i = .reset) ∧ (∀ n, t.group n = .none) ∧ (∀ n, t.pool n = .none) ∧ t.ops = [] ∧
      (∀ e, t.engine e = { Engine.reset with withheld := (s.engine e).withheld }) ∧ t.evt = { State.reset.evt with snapAt := s.evt.snapAt } ∧
      t.hif = { Hif.reset with linkUp := s.hif.linkUp, eid := s.hif.eid, eidSmb := s.hif.eidSmb, sessions := s.hif.sessions } ∧
      t.fab.mstate = s.fab.mstate ∧ t.fab.live = s.fab.live ∧ t.fab.routes = s.fab.routes ∧ t.fab.epoch = s.fab.epoch ∧
      t.sec = { s.sec with dbgEn := false, floorDone := false } ∧ t.repairs = s.repairs ∧ t.pins = s.pins ∧ t.time = s.time ∧
      t.boot = { s.boot with flash := s.breakUpdate.boot.flash, lastReset := 3, rcvAddr := 0, rcvLen := 0, rcvSlot := false, rcvDone := false, rcvErr := 0, flrAt := none } ∧
      (∀ v, t.vault v = { s.vault v with suspect := 0, ceTier := 0 }) ∧ t.flt.records = s.flt.records ∧
      (∀ c, (t.cluster c).coreSpare = (s.cluster c).coreSpare ∧ (t.cluster c).healthy = (s.cluster c).healthy ∧ (t.cluster c).pool = (s.cluster c).pool ∧
        (t.cluster c).delta = [] ∧ (t.cluster c).lines = []) ∧
      ((∀ i, (s.strm i).state = .empty) → s.mis = [] → (∀ ch, (s.chan ch).work = []) → s.memOk → t.memOk ∧
        ∀ a, t.byte a = if a < storeBase then s.byte a else 0) ∧
      (s.ctxsOk → ∀ c, (s.ctx c).used = true → (s.ctx c).dev.toNat ≠ s.own →
        t.ctx c = { s.ctx c with pc := 0, sreg := [], pred := [], vreg := [], vsr := 0, wait := .idle, stopping := false, pausing := false, granted := none, blocks := [] } ∧
        ((s.ctx c).blocks ≠ [] ∨ (s.ctx c).wait ≠ .idle →
          ∃ k n, .notice (s.ctx c).dev.toNat (.fault (s.ctx c).strm eReset (nameW 5 (coreHandle s.own k).toNat) n) ∈ t.out.sent)))

/-! ### Faults and safe states (R37, R452-R459) -/

/-- A fault at the latch is held with its class of R454 and its time. From class 1 on its stream goes to FAULTED and that stream's
contexts stop, a class 2 fault also fences its core, a class 3 fault stops every stream and treats every core as fenced; a class 0
fault changes nothing else. After a lockstep mismatch every record carries class 3 (R37, R454-R456). E_CLOCK elsewhere than on a
core, a cluster or the cobbler is not classed by the manual (log 49, DEDUCED). -/
def Obligations.FaultClasses : Prop :=
  ∀ (s : State) (f : FaultBit), s.pins.corePower = true →
    let zero := f.code = eStackTier ∨ f.code = eSensor ∨ f.code = eNoiseHealth ∨ f.code = eFabStall ∨ f.code = eLinkDown ∨
      (f.code = eStackUe ∧ f.strm = none ∧ f.srcKind = 6)
    let two := f.code = eRiffleKat ∨ f.code = eRiffleLate ∨ f.code = eVecKat ∨ (f.code = eClock ∧ f.srcKind = 0) ∨
      (f.code = eResidue ∧ f.srcKind = 0 ∧ ∃ x, (s.core f.srcIndex.toNat).residueAt = some x ∧ s.time.toNat ≤ x.toNat + 1000000)
    let three := f.code = eLockstep ∨ f.code = eThermalTrip ∨ (f.code = eClock ∧ (f.srcKind = 1 ∨ f.srcKind = 5)) ∨
      (f.code = eSecded ∧ bit f.arg0 63 = true)
    let live (i : StreamId) := (s.strm i).state = .running ∨ (s.strm i).state = .draining
    let stops (t : State) (i : StreamId) : Prop := (t.strm i).state = .faulted ∧ (t.strm i).lastErr = f.code ∧ (t.strm i).errArg = s.faultName f ∧
      ∀ c, (s.ctx c).used = true → (s.ctx c).dev.toNat = s.own → (s.ctx c).strm = i → (t.ctx c).wait = .stopped
    let latched (cls : BitVec 8) (more : State → Prop) : Prop := ∃ t, exec (.faultLatch f) s = .next t ∧ t.mem = s.mem ∧
      t.flt.latch = s.flt.latch ++ [(f, cls, s.time)] ∧ more t
    let alone (t : State) : Prop := t = { s with evt := Counted s t, flt := { s.flt with latch := t.flt.latch } }
    let byStream (t : State) : Prop := (∀ i, f.strm = some i → live i → stops t i ∧ SameStrmsBut s t i) ∧
      ((f.strm = none ∨ ∃ i, f.strm = some i ∧ ¬live i) → t.streams = s.streams ∧ t.ctxs = s.ctxs ∧ t.mis = s.mis)
    let all (t : State) : Prop := (∀ i, live i → stops t i) ∧ ∀ c, t.coreFenced c = true
    (s.flt.lockstep = false →
      (zero → latched 0 alone) ∧
      (two → latched 2 fun t => byStream t ∧ (t.core f.srcIndex.toNat).fenced = true ∧ ∀ n, n ≠ f.srcIndex.toNat → t.core n = s.core n) ∧
      (three → latched 3 all) ∧
      (¬zero → ¬two → ¬three → f.code ≠ eClock → latched 1 fun t => byStream t ∧ t.flt.hold = s.flt.hold ∧
        (f.code = eResidue → f.srcKind = 0 → (t.core f.srcIndex.toNat).mustKat = true ∧ (t.core f.srcIndex.toNat).residueAt = some s.time) ∧
        (f.code ≠ eResidue → t.cores = s.cores) ∧ (f.strm = none → f.code ≠ eResidue → alone t))) ∧
    (s.flt.lockstep = true → latched 3 all) ∧
    (s.flt.lockstep = false → ∃ t, exec .lockstepMismatch s = .next t ∧ t.flt.lockstep = true ∧ t.flt.hold = true ∧
      t.flt.latch = s.flt.latch ++ [(⟨eLockstep, 5, 0, none, 0, 0⟩, 3, s.time)] ∧
      (∀ i, live i → (t.strm i).state = .faulted ∧ (t.strm i).lastErr = eLockstep) ∧ t.mem = s.mem) ∧
    (s.flt.lockstep = true → exec .lockstepMismatch s = .next s)

/-- The record of the oldest latched fault is formed with the layout of R458, numbered on, stored at its number modulo 256,
written to the host's ring in two writes, and raises cause 82; one overwritten unread is counted in overrun (R457-R459). What
detects faults: a handshake not acknowledged names both islands; a clock monitor holds the device on a cluster island or the
cobbler, and on a core island fences the core and faults what is in flight there, macro-instructions and dispatched blocks; the scrub corrects one bit and reports two,
in a cache tag as class 3. SAFE_CORE clears a fence, after which a forced known-answer load is owed (R41, R452, R454, R455).
-/
def Obligations.FaultRecords : Prop :=
  (∀ (s : State),
    (s.flt.latch = [] → exec .faultRecord s = .next s) ∧
    ∀ f cls x l, s.flt.latch = (f, cls, x) :: l → s.hif.d3hot = false → ∃ (t : State) (r : BitVec 512), exec .faultRecord s = .next t ∧
      let n := s.flt.next.toNat
      let g := s.flt.ring
      let a : W64 := BitVec.ofNat 64 (bits g 12 52 * 4096 + 64 * (n % 2 ^ bits g 0 4))
      let w := leBytes 64 r.toNat
      bits r 0 32 = n ∧ bits r 32 16 = f.code.toNat ∧ bits r 48 8 = cls.toNat ∧ bits r 56 8 = f.srcKind.toNat ∧ bits r 64 16 = f.srcIndex.toNat ∧
      bits r 80 16 = s.own ∧ bits r 96 8 = (match f.strm with | some i => i.toNat | none => 0xFF) ∧ bits r 104 24 = 0 ∧
      bits r 128 64 = x.toNat ∧ bits r 192 64 = s.time.toNat ∧ bits r 256 64 = f.arg0.toNat ∧ bits r 320 64 = f.arg1.toNat ∧ bits r 384 128 = 0 ∧
      RaisedAs { s with flt := t.flt, out := { s.out with hostWrites := s.out.hostWrites ++ if bit g 4 then [(a + 8, w.drop 8), (a, w.take 8)] else [] } } t 82 ∧
      t.flt = { s.flt with latch := l, records := t.flt.records, read := t.flt.read, next := s.flt.next + 1, overrun := if 256 ≤ n ∧ tget true s.flt.read (n % 256) = false then satInc s.flt.overrun else s.flt.overrun } ∧
      tget 0 t.flt.records (n % 256) = r ∧ tget true t.flt.read (n % 256) = false ∧
      ∀ k, k ≠ n % 256 → tget 0 t.flt.records k = tget 0 s.flt.records k ∧ tget true t.flt.read k = tget true s.flt.read k) ∧
  ∀ (s : State), s.up = true → s.flt.lockstep = false →
    let latches (o : Res) (f : FaultBit) (cls : BitVec 8) : Prop := ∃ t, o = .next t ∧ (f, cls, s.time) ∈ t.flt.latch ∧ t.mem = s.mem ∧
      (cls = 1 → f.strm = none → t = { s with evt := Counted s t, flt := { s.flt with latch := s.flt.latch ++ [(f, 1, s.time)] } }) ∧
      (∀ i, cls = 3 ∨ f.strm = some i → (s.strm i).state = .running ∨ (s.strm i).state = .draining →
        (t.strm i).state = .faulted ∧ (t.strm i).lastErr = f.code ∧ (t.strm i).errArg = s.faultName f) ∧
      (cls = 3 → t.flt.hold = true ∧ ∀ c, t.coreFenced c = true) ∧
      (cls = 2 → (t.core f.srcIndex.toNat).fenced = true ∧ (t.core f.srcIndex.toNat).tiles = [] ∧
        ∀ i ∈ (s.core f.srcIndex.toNat).tiles.filterMap s.tileMi, i.home.toNat = s.own → (s.strm i.strm).state = .running →
          (t.strm i.strm).state = .faulted ∧ (t.strm i.strm).lastErr = f.code) ∧
      (cls = 2 → ∀ x, ctxCore x = f.srcIndex.toNat → (s.ctx x).used = true → (s.ctx x).dev.toNat = s.own → (s.ctx x).blocks ≠ [] →
        (s.strm (s.ctx x).strm).state = .running → (t.strm (s.ctx x).strm).state = .faulted ∧ (t.strm (s.ctx x).strm).lastErr = f.code)
    let src (i k n : Nat) : Prop := (k = 0 ∧ i < 544 ∧ ∃ p, i = 17 * (n / 16) + p ∧ p < 17 ∧ p = physOf (bits (s.cluster (n / 16)).coreSpare 0 5) (n % 16)) ∨
      (k = 1 ∧ i = 544 + n ∧ n < 32) ∨ (k = 2 ∧ i = 576 + n ∧ n < 10) ∨ (k = 3 ∧ i = 586 + n ∧ n < 32) ∨ (k = 4 ∧ i = 618 ∧ n = 0) ∨ (k = 5 ∧ i = 619 ∧ n = 0)
    let spare (i : Nat) := i < 544 ∧ bits (s.cluster (i / 17)).coreSpare 0 5 = i % 17
    let k8 (k : Nat) : BitVec 8 := BitVec.ofNat 8 k
    let k16 (n : Nat) : BitVec 16 := BitVec.ofNat 16 n
    (∀ (a b : BitVec 10) strm k n, src a.toNat k n → ¬spare a.toNat → b.toNat < 620 → ¬spare b.toNat →
      latches (exec (.handshakeTimeout a b strm) s) ⟨eHandshake, k8 k, k16 n, strm, nameW 10 (a.toNat * 65536 + b.toNat), 0⟩ 1) ∧
    (∀ (a : BitVec 10) k n, src a.toNat k n → ¬spare a.toNat →
      (k = 0 → ∃ st, latches (exec (.clockMonitorTrip a) s) ⟨eClock, 0, k16 n, st, 0, 0⟩ 2) ∧
      (k = 1 ∨ k = 5 → latches (exec (.clockMonitorTrip a) s) ⟨eClock, k8 k, k16 n, none, 0, 0⟩ 3)) ∧
    (∀ a : BitVec 10, 620 ≤ a.toNat ∨ spare a.toNat → exec (.clockMonitorTrip a) s = .next s) ∧
    (∀ (c : CoreId) (x : BitVec 48), exec (.secdedScrub (.store c x false)) s = .next s ∧
      latches (exec (.secdedScrub (.store c x true)) s) ⟨eSecded, 0, k16 c.toNat, none, BitVec.ofNat 64 x.toNat, 0⟩ 1) ∧
    (∀ (c : ClusterId) (x : BitVec 48), exec (.secdedScrub (.line c x false)) s = .next s ∧
      latches (exec (.secdedScrub (.line c x true)) s) ⟨eSecded, 1, k16 c.toNat, none, BitVec.ofNat 64 (x.toNat - x.toNat % 128), 0⟩ 1) ∧
    (∀ (c : ClusterId) (x : BitVec 14), exec (.secdedScrub (.tag c x false)) s = .next s ∧
      latches (exec (.secdedScrub (.tag c x true)) s) ⟨eSecded, 1, k16 c.toNat, none, BitVec.ofNat 64 (2 ^ 63 + x.toNat), 0⟩ 3) ∧
    ∀ (cl : ClusterId) (m : BitVec 16), ∃ t, exec (.safeCoreClear cl m) s = .next t ∧ t = { s with cores := t.cores } ∧
      ∀ n, t.core n = if n / 16 = cl.toNat ∧ bit m (n % 16) = true ∧ (s.core n).fenced = true
        then { s.core n with fenced := false, mustKat := true, katGate := true } else s.core n

/-- Levee bits are set by the host only and stay; keys are revoked for good, but not the one that signed the running image nor the
last; the floor rises between itself and the running image's version and applies once it is stored, in flash with its seal; a locked
write is ignored and counted (R461-R463, R465). That a write which sets a bit again counts once is the model's reading (log 49,
DEDUCED). Each boot derives the alias key from the image's digest and version, and leaves its certificate in the identity region
(R464, R465; the key derivation's parameters and the formats are free, log 57, DESIGN CHOICE). -/
def Obligations.LeveeAndKeys : Prop :=
  (∀ (s t : State) (id : BitVec 4), (exec (.vinRise id) s = .next t ∧ s.pins.standby = false) ∨
      (exec (.perstAssert id) s = .next t ∧ s.pins.standby = true ∧ s.pins.pwrEn = true) → t.boot.imageOk = true →
    let d := t.flashBytes ((if t.boot.slot then 0x1000000 else 0) + 0x40) 48
    t.sec.bootKey = some (keyFrom true (d ++ leBytes 2 t.boot.svn.toNat)) ∧
    t.flashBytes 0x3003000 4096 = imageCert d t.boot.svn.toNat) ∧
  ∀ (s : State), s.boot.phase = .running →
    let only (o : Res) (x : Sec) : Prop := ∃ t, o = .next t ∧ t = { s with sec := x, evt := Counted s t }
    let just (o : Res) (x : Sec) : Prop := o = .next { s with sec := x }
    let e := s.sec
    (∀ v, only (exec (.leveeLockWrite .host v) s) { e with levee := e.levee ||| BitVec.ofNat 4 (v.toNat % 16) } ∧
      (e.levee = 0 → just (exec (.leveeLockWrite .host v) s) { e with levee := BitVec.ofNat 4 (v.toNat % 16) }) ∧
      ∀ cx, CountsOne (exec (.leveeLockWrite (.ctx cx) v) s) s evLeveeWriteDenied) ∧
    (∀ k : BitVec 2,
      let o := exec (.secKeyRevoke k) s
      let last := ∀ j, j < 4 → j ≠ k.toNat → s.revoked j = true
      (bit e.levee 1 = true → CountsOne o s evLeveeWriteDenied) ∧
      (bit e.levee 1 = false → s.revoked k.toNat = true → just o e) ∧
      (bit e.levee 1 = false → s.revoked k.toNat = false → s.signer = k.toNat ∨ last → CountsOne o s evRegWriteRefused) ∧
      (bit e.levee 1 = false → s.revoked k.toNat = false → s.signer ≠ k.toNat → ¬last → ∃ r, just o { e with revoked := r } ∧
        ∀ j, j < 4 → bit r j = (bit e.revoked j || decide (j = k.toNat)))) ∧
    (∀ v : W64, let n := v.toNat % 2 ^ 16
      let o := exec (.secFloorWrite v) s
      let e := if v.toNat / 2 ^ 16 % 2 = 1 then { e with floorDone := false } else e
      (bit e.levee 3 = true → only o e) ∧
      (bit e.levee 3 = false → n < e.floor.toNat ∨ s.boot.svn.toNat < n → only o { e with floorDone := true }) ∧
      (bit e.levee 3 = false → e.floor.toNat ≤ n → n ≤ s.boot.svn.toNat → just o { e with floorPend := some (BitVec.ofNat 16 n) })) ∧
    (e.floorPend = none → exec .secFloorStored s = .next s) ∧
    ∀ f, e.floorPend = some f → ∃ t, exec .secFloorStored s = .next t ∧
      t = { s with sec := { e with floor := f, floorPend := none, floorDone := true }, boot := { s.boot with flash := t.boot.flash } } ∧
      t.flashBytes 0x3004000 64 = floorBytes f ∧ ∀ a, a < 0x3004000 ∨ 0x3004040 ≤ a → t.flashByte a = s.flashByte a

/-! ### Groups, events, debug and the register map (R24, R25, R468-R488) -/

/-- UNIT_GDEF operations set done with the first error of R24 or R25 and raise cause 85; a define without one defines the group at
UNIT_GDEF_SRC, a remove frees the index, an undefined op is E_HANDLE, and a refusal leaves the table alone; while an operation is in
progress an undefined op, or another operation, is refused and counted (R24, R25, R28, R29, R483). -/
def Obligations.GroupRegisters : Prop :=
  ∀ (s : State) (index : BitVec 16), s.boot.phase = .running →
    let i := index.toNat
    let src := s.dev.gdefSrc.toNat
    let ends (o : Res) (u : State → State) (e : Code) : Prop := ∃ t, o = .next t ∧
      RaisedAs { u t with dev := { s.dev with gdefIndex := index, gdefDone := true, gdefErr := e } } t 85
    let refused (o : Res) (e : Code) : Prop := ends o (fun _ => s) e
    let kept (t : State) : Prop := ∀ j, j ≠ i → (t.group j).members = (s.group j).members ∧ (t.group j).defined = (s.group j).defined
    let def_ := exec (.unitGdefDefine index) s
    let rem := exec (.unitGdefRemove index) s
    (s.busy .gdef = true → CountsOne (exec (.unitGdefOpRefused index) s) s evRegWriteRefused ∧
      (s.running .gdef ≠ some (.gdefDefine index) → CountsOne def_ s evRegWriteRefused) ∧
      (s.running .gdef ≠ some (.gdefRemove index) → CountsOne rem s evRegWriteRefused)) ∧
    (s.busy .gdef = false →
    refused (exec (.unitGdefOpRefused index) s) eHandle ∧
    (i < 0x100 → refused def_ eHandle) ∧
    (0x100 ≤ i → (s.group i).defined = true → refused def_ eBusy) ∧
    (0x100 ≤ i → (s.group i).defined = false → src % 64 ≠ 0 → refused def_ eAlign) ∧
    (0x100 ≤ i → (s.group i).defined = false → src % 64 = 0 → inMem src 32 = false → refused def_ eBounds) ∧
    (s.gdefErr i true src ≠ 0 → refused def_ (s.gdefErr i true src)) ∧
    (s.gdefErr i true src = 0 → ends def_ (fun t => { s with groups := t.groups, out := { s.out with sent := t.out.sent } }) 0 ∧ ∃ t, def_ = .next t ∧ kept t ∧
      (t.group i).defined = true ∧ (t.group i).listAddr.toNat = s.num (src + 4) 6 ∧ (t.group i).members.length = s.num src 4 % 2 ^ 20 ∧ (t.group i).bound = 0) ∧
    (i < 0x100 ∨ (s.group i).defined = false → refused rem eHandle) ∧
    (0x100 ≤ i → (s.group i).defined = true → (s.group i).refs ≠ 0 ∨ (s.group i).bound ≠ 0 → refused rem eBusy) ∧
    (0x100 ≤ i → (s.group i).defined = true → (s.group i).refs = 0 → (s.group i).bound = 0 →
      ends rem (fun t => { s with groups := t.groups, out := { s.out with sent := t.out.sent } }) 0 ∧
      ∃ t, rem = .next t ∧ (t.group i).defined = false ∧ kept t))

/-- Event counters: a selector that names no event of the catalogue, an event its level cannot select, an instance or a stream
filter out of range is refused and counted; a count takes what is written and a 1 clears ovf; freeze stops counting, clear zeroes.
A counter that selects an event counts it, modulo 2^48 with ovf; a counter of the cobbler takes what another island has counted at
that island's snapshot, with its time of receipt (R36, R468, R469, R470, R472). That code 0 is admitted everywhere is the model's
reading (log 50, DEDUCED). -/
def Obligations.EventCounters : Prop :=
  ∀ (s : State) (c : CounterId) (v : W64), s.boot.phase = .running →
    let k := counterNo c
    let ev := bits v 0 8
    let inst := bits v 20 10
    let dom := evDomain ev
    let held := bit v 11 = true ∧ 5 ≤ bits v 8 3
    let upTo (n : Nat) := inst < n ∨ inst = 0x3FF
    let ok := bits v 12 7 ≤ 64 ∧ (ev = 0 ∨ match c with
      | .core _ _ => dom = some .core ∨ dom = some .island ∨ dom = some .held ∧ ¬held
      | .cluster _ _ => dom = some .cluster ∨ (dom = some .core ∨ dom = some .held ∧ ¬held) ∧ upTo 16
      | .cobbler _ => dom = some .device ∨ dom = some .held ∧ (held ∨ upTo 512) ∨ dom = some .core ∧ upTo 512 ∨
          (dom = some .cluster ∨ dom = some .port) ∧ upTo 32 ∨ dom = some .engine ∧ upTo 10 ∨ dom = some .island ∧ upTo 620)
    (¬ok → CountsOne (exec (.evtSelWrite c v) s) s evRegWriteRefused) ∧
    (ok → ∃ t, exec (.evtSelWrite c v) s = .next t ∧ t = { s with evt := { s.evt with sel := t.evt.sel } } ∧
      (t.evtSel k).toNat = v.toNat % 2 ^ 30 ∧ ∀ j, j ≠ k → t.evtSel j = s.evtSel j) ∧
    (∃ t, exec (.evtCntWrite c v) s = .next t ∧ t = { s with evt := { s.evt with cnt := t.evt.cnt } } ∧
      bits (t.evtCnt k) 0 48 = v.toNat % 2 ^ 48 ∧ bit (t.evtCnt k) 48 = (bit (s.evtCnt k) 48 && !bit v 48) ∧ ∀ j, j ≠ k → t.evtCnt j = s.evtCnt j) ∧
    (∀ on, exec (.evtFreeze on) s = .next { s with evt := { s.evt with freeze := on } }) ∧
    (∃ t, exec .evtClear s = .next t ∧ t = { s with evt := { s.evt with cnt := t.evt.cnt, pend := [] } } ∧ ∀ j, t.evtCnt j = 0) ∧
    ((s.evt.sel.map Prod.fst).Nodup → ∀ e, e ≠ 0 → e ≠ evHeldAtBound → ∀ t, t = s.countDev e → t = { s with evt := Counted s t } ∧ ∀ j,
      let x := tget 0 s.evt.cnt j
      let on (w : W64) := 4608 ≤ j ∧ bit w 19 = true ∧ bits w 0 8 = e ∧ bits w 12 7 = 64
      (s.evt.freeze = true ∨ (∀ w, (j, w) ∈ s.evt.sel → ¬on w) → t.evtCnt j = x) ∧
      (s.evt.freeze = false → (∃ w, (j, w) ∈ s.evt.sel ∧ on w) → (t.evtCnt j).toNat =
        (bits x 0 48 + 1) % 2 ^ 48 + if bit x 48 = true ∨ bits x 0 48 = 2 ^ 48 - 1 then 2 ^ 48 else 0)) ∧
    ((s.evt.sel.map Prod.fst).Nodup → ∀ at_ st q n, at_ ≠ .device → ∀ e, ∀ t, t = s.countQ e at_ st q n → t = { s with evt := Counted s t } ∧ ∀ j,
      let taken := !s.evt.freeze && s.evt.sel.any fun x => decide (x.1 = j) && selects s j x.2 e at_ st q
      (4608 ≤ j → t.evtCnt j = s.evtCnt j ∧ tget 0 t.evt.pend j = tget 0 s.evt.pend j + if taken then n else 0) ∧
      (j < 4608 → tget 0 t.evt.pend j = tget 0 s.evt.pend j ∧
        bits (t.evtCnt j) 0 48 = (bits (s.evtCnt j) 0 48 + if taken then n else 0) % 2 ^ 48)) ∧
    ((s.evt.pend.map Prod.fst).Pairwise (· < ·) → ∀ l, ∀ t, t = s.snapshot l →
      t = { s with evt := { s.evt with cnt := t.evt.cnt, pend := t.evt.pend, snapAt := t.evt.snapAt } } ∧
      (∀ i ∈ l, tget 0 t.evt.snapAt i = s.time) ∧
      (s.evt.freeze = true → t.evt.cnt = s.evt.cnt ∧ t.evt.pend = s.evt.pend) ∧
      (s.evt.freeze = false → t.evt.pend = [] ∧ ∀ j, let n := bits (s.evtCnt j) 0 48 + tget 0 s.evt.pend j
        bits (t.evtCnt j) 0 48 = n % 2 ^ 48 ∧ bit (t.evtCnt j) 48 = (bit (s.evtCnt j) 48 || decide (2 ^ 48 ≤ n))))

/-- The debug window answers while DBG_CTL.en is 1: halt stops and lets go a core, and a step of a halted core has its selected
context, if it is ready or stands at a bound, do exactly what its instruction does, the core halted again after it; elsewhere only the
selection is taken (R487, R488). -/
def Obligations.DebugWindow : Prop :=
  ∀ (s : State) (core : CoreId), 
    let c := core.toNat
    (s.dbgOpen = false → (∀ on, exec (.dbgHalt core on) s = .next s) ∧ ∀ k, exec (.dbgStep core k) s = .next s) ∧
    (s.dbgOpen = true → (∀ on, exec (.dbgHalt core on) s = .next (s.modCore c fun x => { x with halt := on })) ∧
      ∀ k : BitVec 3, let picked := s.modCore c fun x => { x with dbgCtx := k }
        let free := picked.modCore c fun x => { x with halt := false }
        let cx := ctxOf c k.toNat
        let ready := free.canRetry cx (fun _ => true) true
        ((s.core c).halt = false ∨ ready = false → exec (.dbgStep core k) s = .next picked) ∧
        ((s.core c).halt = true → ready = true → ∀ i, s.fetch cx = some i →
          (∀ u, exec i free = .next u → exec (.dbgStep core k) s = .next (u.modCore c fun x => { x with halt := true })) ∧
          ((encodeSeq i).isSome = true → ∃ u, exec i free = .next u)))

/-- Accesses to the register map: a misaligned one is an Unsupported Request or dropped, one to no register reads 0 or is dropped and
counted, before RUNNING only the registers of R442 answer; a read of a slot gives its fields; a write of one half leaves the other,
and where a field acts at once it does what its command does. A field that starts an operation makes its register set busy, with its
own copy of the fields, and while it is busy such a write is refused with E_BUSY and counted; the operation's command carries it out
in its turn (R28, R29, R44, R402, R442, R461, R480-R484, R486). That an operation is carried out by its row, and when, is the model's
choice (log 50, DESIGN CHOICE), and so is the reading of the reserved bits of FAB_RT_DATA. -/
def Obligations.RegisterAccesses : Prop :=
  ∀ (s : State) (v : W64), s.hostUp = true →
    let wr (o : Nat) (v : W64) := exec (.registerWrite .host (BitVec.ofNat 26 o) true v) s
    let gives (off : BitVec 26) (size8 : Bool) (x : W64) : Prop :=
      exec (.registerRead .host off size8) s = .next { s with out := { s.out with replies := s.out.replies ++ [.value x] } }
    let word (o : Nat) (x : W64) : Prop := gives (BitVec.ofNat 26 o) true x ∧ (o ≠ 8 → gives (BitVec.ofNat 26 o) false (BitVec.ofNat 64 (bits x 0 32)) ∧
      gives (BitVec.ofNat 26 (o + 4)) false (BitVec.ofNat 64 (bits x 32 32)))
    let early (o : Nat) := o < 0x30 ∨ o / 8 = 0x58 / 8 ∨ o / 8 = 0x60 / 8 ∨ (0x20000 ≤ o ∧ o < 0x40000 ∧ o % 0x1000 / 8 = 0x30 / 8) ∨
      (0x66000 ≤ o ∧ o < 0x662C0) ∨ (0x66300 ≤ o ∧ o < 0x66310) ∨ (0x70000 ≤ o ∧ o < 0x74000)
    let f (l : List (Nat × Nat)) : W64 := BitVec.ofNat 64 ((l.map fun x => x.2 * 2 ^ x.1).sum)
    (∀ (off : BitVec 26) size8, off.toNat % (if size8 then 8 else 4) ≠ 0 →
      CountsOne (exec (.registerWrite .host off size8 v) s) s evHifBadAccess ∧
      exec (.registerRead .host off size8) s = .next ((s.countDev evHifBadAccess).reply .unsupported)) ∧
    (∀ (off : BitVec 26) size8, off.toNat % (if size8 then 8 else 4) = 0 → s.boot.phase ≠ .running → ¬early off.toNat →
      gives off size8 0 ∧ ∃ ev, CountsOne (exec (.registerWrite .host off size8 v) s) s ev ∧
        ev = if ringEnable (slotOf (off.toNat / 8 * 8)) (RegAcc.wr ⟨off.toNat, size8⟩ v) then evRegWriteRefused else evHifBadAccess) ∧
    (∀ (off : BitVec 26) size8, off.toNat % (if size8 then 8 else 4) = 0 → s.boot.phase = .running →
      (0x14000 ≤ off.toNat ∧ off.toNat < 0x20000) ∨ 0x102000 ≤ off.toNat ∨ (0x1000 ≤ off.toNat ∧ off.toNat < 0x10000) →
      gives off size8 0 ∧ CountsOne (exec (.registerWrite .host off size8 v) s) s evHifBadAccess) ∧
    word 0 0x0020020005120001 ∧ gives 8 true s.time ∧
    (∃ t, exec (.registerRead .host 8 false) s = .next t ∧ t = { s with timeHi := some (BitVec.ofNat 32 (bits s.time 32 32)), out := t.out } ∧
      t.out = { s.out with replies := s.out.replies ++ [.value (BitVec.ofNat 64 (bits s.time 0 32))] }) ∧
    (∀ h, s.timeHi = some h → exec (.registerRead .host 12 false) s =
      .next { s with timeHi := none, out := { s.out with replies := s.out.replies ++ [.value (h.setWidth 64)] } }) ∧
    word 0x10 (f [(0, phaseCode s.boot.phase), (4, b2n s.boot.slot), (5, s.boot.lastReset.toNat), (16, s.boot.err.toNat), (32, s.boot.svn.toNat)]) ∧
    word 0x60 (f [(0, s.flt.next.toNat), (32, s.flt.overrun.toNat)]) ∧
    (∀ c, c < 32 → word (0x20030 + 0x1000 * c) (s.cluster c).coreSpare) ∧
    word 0x66300 (BitVec.ofNat 64 (bits s.hif.pend 0 64)) ∧ word 0x66308 (BitVec.ofNat 64 (bits s.hif.pend 64 24)) ∧
    (∀ n j, n < 256 → j < 8 → ∃ t, exec (.registerRead .host (BitVec.ofNat 26 (0x70000 + 64 * n + 8 * j)) true) s = .next t ∧
      t.out = { s.out with replies := s.out.replies ++ [.value (BitVec.ofNat 64 (bits (tget 0 s.flt.records n) (64 * j) 64))] } ∧
      t = { s with out := t.out, flt := { s.flt with read := t.flt.read } } ∧ tget true t.flt.read n = true ∧ ∀ x, x ≠ n → tget true t.flt.read x = tget true s.flt.read x) ∧
    (s.boot.phase = .running →
      word 0x30 (f [(0, s.pins.slotId.toNat), (4, b2n s.faultPin), (5, b2n (decide (s.pins.cblOff ≠ 0))), (32, s.pins.prsnt.toNat)]) ∧
      word 0x28 (f [(0, s.boot.rcvLen.toNat), (25, b2n s.boot.rcvSlot), (28, b2n (s.busy .rcv)), (29, b2n s.boot.rcvDone), (32, s.boot.rcvErr.toNat)]) ∧
      word 0x90 (f [(0, b2n (s.busy .gdef)), (1, b2n s.dev.gdefDone), (16, s.dev.gdefErr.toNat)]) ∧
      word 0xB0 (f [(0, b2n (s.busy .delta)), (1, b2n s.dev.deltaDone), (16, s.dev.deltaErr.toNat), (32, s.dev.deltaRefused.toNat)]) ∧
      (let p := s.pool s.dev.kvPool.toNat
       word 0xD0 (f [(0, b2n (s.busy .pool)), (1, b2n s.dev.kvDone), (16, s.dev.kvErr.toNat), (32, p.epoch.toNat), (48, p.users.toNat)])) ∧
      word 0x110 (f [(0, s.dev.rprVault.toNat), (9, s.dev.rprTier.toNat), (12, s.dev.rprStore.toNat), (14, s.dev.rprIndex.toNat), (24, b2n (s.busy .rpr)), (25, b2n s.dev.rprDone), (32, s.dev.rprErr.toNat)]) ∧
      word 0x1A8 (s.fab.rtData &&& 0x1FFFFFFFF) ∧
      word 0x190 (f [(0, mCode s.fab.mstate), (2, b2n s.fab.isHw), (3, b2n s.fab.done), (16, s.fab.hw.toNat), (32, s.fab.err.toNat)]) ∧
      word 0x210 (f [(0, s.weir.kmax.toNat), (6, s.weir.reason.toNat), (10, b2n s.weir.trip), (32, s.weir.exc / 1000), (48, s.weir.elogHead.toNat)]) ∧
      (∀ i : StreamId, let x := s.strm i
        word (0x10000 + 0x100 * i.toNat) (f [(0, sCode x.state), (3, b2n (decide (x.state = .draining) && x.drainPaused)), (4, b2n x.dirty), (8, s.outstanding i), (16, x.lastErr.toNat), (32, x.estate.toNat)]) ∧
        word (0x10028 + 0x100 * i.toNat) x.errArg ∧ word (0x10020 + 0x100 * i.toNat) x.energy) ∧
      (∀ c, c < 512 → word (0x40000 + 0x100 * c) (f [(0, (s.core c).katFail.toNat), (8, (s.core c).katSeq.toNat), (32, (s.core c).passSeq.toNat)])) ∧
      (∀ c, c < 32 → ∀ j, j < 64 → word (0x20400 + 0x1000 * c + 8 * j) (lastCtr (s.inSlot (some c) j)) ∧ word (0x20600 + 0x1000 * c + 8 * j) (lastRet (s.inSlot (some c) j))) ∧
      (∀ p, p < 32 → word (0x63008 + 16 * p) (s.portWord p)) ∧ (∀ x, x < 1024 → word (0x68000 + 8 * x) (sensorWord (s.sensor x))) ∧
      (∀ k, k < 512 → gives (BitVec.ofNat 26 (0x61000 + 8 * k)) false (BitVec.ofNat 64 (bits (vaultWord (s.vault k)) 0 32)) ∧
        ∃ t, exec (.registerRead .host (BitVec.ofNat 26 (0x61000 + 8 * k)) true) s = .next t ∧
          t.out = { s.out with replies := s.out.replies ++ [.value (vaultWord (s.vault k))] } ∧ t.vault k = { s.vault k with ceTier := 0 } ∧ ∀ j, j ≠ k → t.vault j = s.vault j) ∧
      (let half (o : Nat) (v : W64) := exec (.registerWrite .host (BitVec.ofNat 26 o) false v) s
       let keeps (g : State → W64) (o : Nat) (u : W64 → State) : Prop := wr o v = .next (u v) ∧
         (∀ x : W64, bits x 0 32 = bits v 0 32 → bits x 32 32 = bits (g s) 32 32 → half o v = .next (u x)) ∧
         ∀ x : W64, bits x 0 32 = bits (g s) 0 32 → bits x 32 32 = bits v 0 32 → half (o + 4) v = .next (u x)
       keeps (fun s => s.dev.rprData) 0x118 (fun x => { s with dev := { s.dev with rprData := x } }) ∧
       keeps (fun s => s.fab.rtData) 0x1A8 (fun x => { s with fab := { s.fab with rtData := x } }) ∧
       ∀ i : StreamId, keeps (fun s => (s.sreg i).treeArg0) (0x10088 + 0x100 * i.toNat) (fun x => s.setSreg i { s.sreg i with treeArg0 := x }) ∧
         keeps (fun s => (s.sreg i).treeArg1) (0x10090 + 0x100 * i.toNat) (fun x => s.setSreg i { s.sreg i with treeArg1 := x })) ∧
      (let op (o : Nat) (v : W64) (c : Instr) : Prop := wr o v = exec c s
       let x16 : BitVec 16 := BitVec.ofNat 16 (bits v 0 16)
       (bit v 0 = true → op 0x18 v .hostAck) ∧ op 0x40 v (.leveeLockWrite .host v) ∧ op 0x50 v (.secFloorWrite v) ∧
       (bits v 16 2 = 3 → op 0x88 v (.unitGdefOpRefused x16)) ∧
       (bits v 3 2 = 3 → bits v 32 32 = s.dev.deltaMask.toNat → op 0xA8 v (.deltaGenOpRefused (BitVec.ofNat 3 (bits v 0 3)) (BitVec.ofNat 16 (bits v 16 16)))) ∧
       (2 ≤ bits v 26 2 → bit v 29 = false → op 0x28 v (.bootRcvOpRefused (BitVec.ofNat 25 (bits v 0 25)) (bit v 25))) ∧
       op 0x100 v (.stackIlvWrite .host (BitVec.ofNat 32 (bits v 0 32))) ∧ op 0x180 v (.fabCfgWrite v) ∧
       (bits v 0 2 = 1 → op 0x188 v .fabJoin) ∧ (bits v 0 2 = 2 → op 0x188 v .fabLeave) ∧
       (bits v 16 3 = 1 → op 0x1A0 v (.fabRtRead x16)) ∧ (bits v 16 3 = 2 → op 0x1A0 v (.fabRtWrite x16)) ∧ (bits v 16 3 = 3 → op 0x1A0 v (.fabRtOpRefused x16)) ∧
       op 0x200 v (.weirCapWrite v) ∧ op 0x208 v (.weirCfgWrite v) ∧ op 0x220 v (.weirElogWrite v) ∧ op 0x66500 v (.hifWinWrite v) ∧
       op 0x66300 v (.irqPendClear false v) ∧ op 0x66308 v (.irqPendClear true v) ∧
       (∀ i : StreamId, let b := 0x10000 + 0x100 * i.toNat
         op (b + 0x10) v (.strmJobWrite i false v) ∧ op (b + 0x18) v (.strmJobWrite i true v) ∧ op (b + 0x40) v (.schedWrite i .prog v) ∧
         op (b + 0x48) v (.schedWrite i .param v) ∧ op (b + 0x50) v (.schedWrite i .shape v) ∧ op (b + 0xC0) v (.hifRingWrite (.cmd i) v) ∧
         op (b + 0xC8) v (.hifRingWrite (.cpl i) v) ∧
         (6 ≤ bits v 0 3 → op (b + 0x80) v (.kvTreeOpRefused i (BitVec.ofNat 8 (bits v 8 8)) (BitVec.ofNat 32 (bits v 16 32)) (BitVec.ofNat 3 (bits v 0 3))))) ∧
       (∀ c : ClusterId, let b := 0x20000 + 0x1000 * c.toNat
         (bit v 0 = true → op (b + 0x18) v (.noiseRestart c)) ∧ op (b + 0x38) v (.safeCoreClear c (BitVec.ofNat 16 (bits v 0 16))) ∧
         ∀ n : BitVec 4, op (b + 0x200 + 8 * n.toNat) v (.evtSelWrite (.cluster c n) v)) ∧
       ∀ e : EngineId, e.toNat < 10 → op (0x62000 + 0x40 * e.toNat) v (.vidRingWrite e false v) ∧ op (0x62010 + 0x40 * e.toNat) v (.vidDb e)) ∧
      (bit s.sec.levee 1 = true → ∀ k, k < 4 → CountsOne (wr (0x6B000 + 8 * k) v) s evLeveeWriteDenied) ∧
      (let starts (o : Nat) (q : RegOp) : Prop := (s.busy q.set = true → CountsOne (wr o v) s evRegWriteRefused) ∧
         (s.busy q.set = false → wr o v = .next { q.written s with ops := s.ops ++ [q] })
       let x16 : BitVec 16 := BitVec.ofNat 16 (bits v 0 16)
       (bits v 16 2 = 1 → starts 0x88 (.gdefDefine x16)) ∧ (bits v 16 2 = 2 → starts 0x88 (.gdefRemove x16)) ∧
       (let slot : BitVec 3 := BitVec.ofNat 3 (bits v 0 3)
        let gen : BitVec 16 := BitVec.ofNat 16 (bits v 16 16)
        let mask : W32 := BitVec.ofNat 32 (bits v 32 32)
        (bits v 3 2 = 1 → starts 0xA8 (.deltaLoad slot gen mask)) ∧ (bits v 3 2 = 2 → starts 0xA8 (.deltaRetire slot gen mask))) ∧
       (let p : Byte := BitVec.ofNat 8 (bits v 0 8)
        (bits v 8 2 = 1 → starts 0xC8 (.poolDefine p)) ∧ (bits v 8 2 = 2 → starts 0xC8 (.poolRemove p)) ∧ (bits v 8 2 = 3 → starts 0xC8 (.poolAdvance .host p))) ∧
       (let op := bits v 21 3
        bit v 25 = false → op = 1 ∨ op = 4 ∨ op = 5 ∨ (op = 2 ∨ op = 3) ∧ bits v 12 2 = 1 →
          starts 0x110 (.rprOp (BitVec.ofNat 3 op) (BitVec.ofNat 9 (bits v 0 9)) (BitVec.ofNat 3 (bits v 9 3)) (BitVec.ofNat 2 (bits v 12 2)) (BitVec.ofNat 7 (bits v 14 7)))) ∧
       (bits v 26 2 = 1 → bit v 29 = false → starts 0x28 (.rcvFetch (BitVec.ofNat 25 (bits v 0 25)) (bit v 25))) ∧
       ∀ i : StreamId, 1 ≤ bits v 0 3 → bits v 0 3 ≤ 5 →
         starts (0x10080 + 0x100 * i.toNat) (.treeOp (BitVec.ofNat 3 (bits v 0 3)) i (BitVec.ofNat 8 (bits v 8 8)) (BitVec.ofNat 32 (bits v 16 32)))) ∧
      ∀ i q, opRow i = some q → let u := { s with ops := s.ops.erase q }
        (∀ r, s.running q.set = some r → r ≠ q → CountsOne (exec i s) s evRegWriteRefused) ∧
        (s.running q.set = some q → s.turn q = false → exec i s = .next s) ∧
        (s.running q.set = some q → s.turn q = true → u.OpFree q → q.written u = u → exec i s = exec i u) ∧
        (s.running q.set = none → s.turn q = false → exec i s = .next { q.written s with ops := s.ops ++ [q] }))

/-! ### Steps, encodings and invariants -/

/-- A step takes the command at the front of the queue and answers what exec answers for it with the rest of the queue. On an empty
queue the cobbler's clock counts one nanosecond while the standby domain has power, and nothing else happens (R44); that an idle step
is one nanosecond is the model's choice (log 1, DESIGN CHOICE). -/
def Obligations.StepRunsFront : Prop :=
  (∀ (s : State) (c : Instr) (rest : List Instr), step { s with pending := c :: rest } = exec c { s with pending := rest }) ∧
  ∀ s : State, s.pending = [] → step s = .next { s with time := if s.pins.standby then s.time + 1 else s.time }

/-- Words written out from the encoding tables decode to the instructions they stand for, and undefined ops, functions and reserved
fields to none (R123-R128). -/
def Obligations.EncodedWords : Prop :=
  ∀ (cx : CtxId) (hi : W32),
    decodeAt cx 0x00023211 hi = none ∧
    decodeAt cx 0x00023201 hi = some (.sAlu cx ⟨false, 0⟩ .sub 1 3 4) ∧
    decodeAt cx 0x06822FFF hi = some (.sAddi cx ⟨true, 2⟩ 1 2 0xFFF) ∧
    decodeAt cx 0x14043085 hi = some (.sShi cx ⟨false, 0⟩ .arithmetic 2 3 5) ∧
    decodeAt cx 0x1B021234 hi = some (.sMov16 cx 3 false 1 0x1234) ∧
    decodeAt cx 0x20043203 hi = some (.sCmp cx ⟨false, 0⟩ .ge 2 3 4) ∧
    decodeAt cx 0x60FFFFFF hi = some (.sBr cx ⟨false, 3⟩ 0x3FFFFF) ∧
    decodeAt cx 0x80043200 hi = some (.sMi cx ⟨false, 0⟩ 2 3 4) ∧
    decodeAt cx 0x8C000002 hi = some (.sFence cx ⟨false, 0⟩ .device 0) ∧
    decodeAt cx 0xF8000000 hi = some (.sEnd cx ⟨false, 0⟩) ∧
    decodeAt cx 0xF8000001 hi = none ∧
    decodeAt cx 0x1C000000 hi = none ∧
    decodeAt cx 0xFC030886 0x20000000 = some (.vFma cx ⟨false, 0⟩ { vd := 1, va := 2, vb := 3, vc := 4, me := false, vm := 0, imm := 0, fn := 0, rnd := 0, fmt := 0 }) ∧
    decodeAt cx 0xFC180000 hi = none

/-- Decoding and encoding agree: the word of every sequencer instruction decodes, with every operand at every value, to that
instruction in its context, whatever word follows (R123-R125). The two words of every vector instruction decode, with every
operand at every value, to that instruction in its context (R127, R128). -/
def Obligations.Encoding : Prop :=
  (∀ (i : Instr) (w : W32), encodeSeq i = some w → ∃ cx, ∀ hi, decodeAt cx w hi = some i) ∧
  ∀ (i : Instr) (lo hi : W32), encodeVec i = some (lo, hi) → ∃ cx, decodeAt cx lo hi = some i

/-- At reset memory is in canonical form, the context table is in order, and no command waits. -/
def Obligations.InvariantAtReset : Prop :=
  State.reset.memOk ∧ State.reset.ctxsOk ∧ State.reset.pending = []

/-- Every step keeps memory in canonical form and the context table in order: each of at most 4,096 slots listed once (an invariant
of the model's tables, R101 and R260 on what they hold). -/
def Obligations.StepKeepsTables : Prop :=
  ∀ s t : State, s.memOk → s.ctxsOk → step s = .next t → t.memOk ∧ t.ctxsOk

/-- Whatever the command, a revoked key stays revoked, and a levee bit that is set stays set but for the commands that reset the
device: a rise or loss of VIN, a fall of PWR_EN, PERST# and an image taken in recovery (R447, R448, R461, R462). -/
def Obligations.LocksHold : Prop :=
  ∀ (s t : State) (c : Instr), exec c s = .next t →
    (∀ k, bit s.sec.revoked k = true → bit t.sec.revoked k = true) ∧
    ((∀ id, c ≠ .vinRise id) → c ≠ .vinUndervolt → c ≠ .vinOvervolt → c ≠ .pwrEnFall → (∀ id, c ≠ .perstAssert id) →
      (∀ n b l, c ≠ .bootRcvFetch n b l) → ∀ k, bit s.sec.levee k = true → bit t.sec.levee k = true)
end

