-- ==== Sys2Proof/Laws/Table.lean ====
section
/-! SUPPORT. Laws of sparse tables and of the canonical memory list: reads after writes, and what keeps the form. -/

namespace Sys2Proof.Machine

/-! ### Tables -/

@[simp] theorem tget_nil {α : Type} (d : α) (n : Nat) : tget d [] n = d := rfl

@[simp] theorem tget_tput_same {α : Type} (d : α) (t : Table α) (n : Nat) (v : α) : tget d (tput t n v) n = v := by
  induction t with
  | nil => simp [tput, tget]
  | cons e t ih =>
    obtain ⟨k, w⟩ := e
    by_cases h1 : n < k
    · simp [tput, tget, h1]
    · by_cases h2 : n = k
      · simp [tput, tget, h2]
      · simp [tput, tget, h1, h2, ih]

theorem tget_tput_other {α : Type} (d : α) (t : Table α) {n m : Nat} (v : α) (h : m ≠ n) :
    tget d (tput t n v) m = tget d t m := by
  induction t with
  | nil => simp [tput, tget, h]
  | cons e t ih =>
    obtain ⟨k, w⟩ := e
    by_cases h1 : n < k
    · simp only [tput, h1, if_true, tget, h, if_false]
      by_cases h3 : m < n
      · simp [h3, show m < k by omega]
      · simp [h3]
    · by_cases h2 : n = k
      · subst h2
        simp [tput, tget, h]
      · simp only [tput, h1, h2, if_false, tget, ih]

theorem tget_tput {α : Type} (d : α) (t : Table α) (n m : Nat) (v : α) :
    tget d (tput t n v) m = if m = n then v else tget d t m := by
  by_cases h : m = n
  · simp [h]
  · simp [h, tget_tput_other d t v h]

@[simp] theorem tput_tput {α : Type} (t : Table α) (n : Nat) (v w : α) : tput (tput t n v) n w = tput t n w := by
  induction t with
  | nil => simp [tput]
  | cons e t ih =>
    obtain ⟨k, u⟩ := e
    by_cases h1 : n < k
    · simp [tput, h1]
    · by_cases h2 : n = k
      · simp [tput, h2]
      · simp [tput, h1, h2, ih]

/-! ### Canonical memory -/

theorem wfFrom_mono {d : Nat → Byte} {lo lo' : Nat} {m : List (Nat × Byte)} (h : lo' ≤ lo) (w : wfFrom d lo m = true) :
    wfFrom d lo' m = true := by
  cases m with
  | nil => rfl
  | cons e t =>
    obtain ⟨k, v⟩ := e
    simp only [wfFrom, Bool.and_eq_true, decide_eq_true_eq] at w ⊢
    exact ⟨⟨by omega, w.1.2⟩, w.2⟩

/-- An address below every listed one reads the default. -/
theorem mget_below {d : Nat → Byte} {lo : Nat} {m : List (Nat × Byte)} (w : wfFrom d lo m = true) {a : Nat} (h : a < lo) :
    mget d m a = d a := by
  cases m with
  | nil => rfl
  | cons e t =>
    obtain ⟨k, v⟩ := e
    simp only [wfFrom, Bool.and_eq_true, decide_eq_true_eq] at w
    simp [mget, show a < k by omega]

theorem mput_wfFrom {d : Nat → Byte} {m : List (Nat × Byte)} {lo : Nat} (w : wfFrom d lo m = true) {a : Nat} (h : lo ≤ a)
    (b : Byte) : wfFrom d lo (mput d m a b) = true := by
  induction m generalizing lo with
  | nil =>
    simp only [mput]
    split
    · rfl
    · next hb => simp [wfFrom, h, hb]
  | cons e t ih =>
    obtain ⟨k, v⟩ := e
    have w' := w
    simp only [wfFrom, Bool.and_eq_true, decide_eq_true_eq] at w
    simp only [mput]
    split
    · next hk =>
      split
      · exact w'
      · next hb =>
        simp only [wfFrom, Bool.and_eq_true, decide_eq_true_eq]
        exact ⟨⟨h, hb⟩, ⟨by omega, w.1.2⟩, w.2⟩
    · split
      · next hk =>
        split
        · exact wfFrom_mono (by omega) w.2
        · next hb =>
          subst hk
          simp only [wfFrom, Bool.and_eq_true, decide_eq_true_eq]
          exact ⟨⟨h, hb⟩, w.2⟩
      · simp only [wfFrom, Bool.and_eq_true, decide_eq_true_eq]
        exact ⟨w.1, ih w.2 (by omega)⟩

theorem mput_wf {d : Nat → Byte} {m : List (Nat × Byte)} (w : Memory.wf d m = true) (a : Nat) (b : Byte) :
    Memory.wf d (mput d m a b) = true := mput_wfFrom w (Nat.zero_le a) b

theorem mwrite_wf {d : Nat → Byte} {m : List (Nat × Byte)} (w : Memory.wf d m = true) (a : Nat) (bs : List Byte) :
    Memory.wf d (mwrite d m a bs) = true := by
  induction bs generalizing m a with
  | nil => exact w
  | cons b bs ih => exact ih (mput_wf w a b) (a + 1)

theorem mget_mput_other {d : Nat → Byte} {m : List (Nat × Byte)} {a x : Nat} (b : Byte) (h : x ≠ a) {lo : Nat}
    (w : wfFrom d lo m = true) : mget d (mput d m a b) x = mget d m x := by
  induction m generalizing lo with
  | nil =>
    simp only [mput]
    split
    · rfl
    · simp [mget, h]
  | cons e t ih =>
    obtain ⟨k, v⟩ := e
    simp only [wfFrom, Bool.and_eq_true, decide_eq_true_eq] at w
    simp only [mput]
    split
    · next hk =>
      split
      · rfl
      · by_cases h3 : x < a
        · simp [mget, h3, show x < k by omega]
        · simp [mget, h, h3]
    · split
      · next hk =>
        subst hk
        split
        · by_cases h3 : x < a
          · simp [mget, h3, mget_below w.2 (show x < a + 1 by omega)]
          · simp [mget, h, h3]
        · simp [mget, h]
      · simp only [mget, ih w.2]

theorem mget_mput_same {d : Nat → Byte} {m : List (Nat × Byte)} {a : Nat} (b : Byte) {lo : Nat}
    (w : wfFrom d lo m = true) : mget d (mput d m a b) a = b := by
  induction m generalizing lo with
  | nil =>
    simp only [mput]
    split
    · next h => simp [mget, h]
    · simp [mget]
  | cons e t ih =>
    obtain ⟨k, v⟩ := e
    simp only [wfFrom, Bool.and_eq_true, decide_eq_true_eq] at w
    simp only [mput]
    split
    · next hk =>
      split
      · next hb => simp [mget, hk, hb]
      · simp [mget]
    · split
      · next hk =>
        subst hk
        split
        · next hb => rw [mget_below w.2 (Nat.lt_succ_self a), hb]
        · simp [mget]
      · next h1 h2 => simp [mget, h1, h2, ih w.2]

/-- A byte outside what mwrite stores keeps. -/
theorem mget_mwrite_other {d : Nat → Byte} {m : List (Nat × Byte)} (w : Memory.wf d m = true) {a x : Nat} {bs : List Byte}
    (h : x < a ∨ a + bs.length ≤ x) : mget d (mwrite d m a bs) x = mget d m x := by
  induction bs generalizing m a with
  | nil => rfl
  | cons b bs ih =>
    simp only [List.length_cons] at h
    simp only [mwrite]
    rw [ih (mput_wf w a b) (by omega)]
    exact mget_mput_other b (by omega) w

/-- A byte mwrite stores reads back. -/
theorem mget_mwrite_at {d : Nat → Byte} {m : List (Nat × Byte)} (w : Memory.wf d m = true) {a i : Nat} {bs : List Byte}
    (h : i < bs.length) : mget d (mwrite d m a bs) (a + i) = bs[i] := by
  induction bs generalizing m a i with
  | nil => simp at h
  | cons b bs ih =>
    simp only [mwrite]
    cases i with
    | zero =>
      rw [mget_mwrite_other (mput_wf w a b) (Or.inl (by omega))]
      exact mget_mput_same b w
    | succ i =>
      simp only [List.length_cons, Nat.add_lt_add_iff_right] at h
      have := ih (mput_wf w a b) (a := a + 1) h
      simpa [Nat.add_assoc, Nat.add_comm 1 i] using this

theorem mread_mwrite_same {d : Nat → Byte} {m : List (Nat × Byte)} (w : Memory.wf d m = true) (a : Nat) (bs : List Byte) :
    mread d (mwrite d m a bs) a bs.length = bs := by
  induction bs generalizing m a with
  | nil => rfl
  | cons b bs ih =>
    simp only [mwrite, List.length_cons, mread]
    rw [ih (mput_wf w a b) (a + 1), mget_mwrite_other (mput_wf w a b) (Or.inl (by omega)), mget_mput_same b w]

theorem wfFrom_filter {d : Nat → Byte} {lo : Nat} {m : List (Nat × Byte)} (w : wfFrom d lo m = true) (p : Nat × Byte → Bool) :
    wfFrom d lo (m.filter p) = true := by
  induction m generalizing lo with
  | nil => rfl
  | cons e t ih =>
    obtain ⟨k, v⟩ := e
    simp only [wfFrom, Bool.and_eq_true, decide_eq_true_eq] at w
    simp only [List.filter]
    split
    · simp only [wfFrom, Bool.and_eq_true, decide_eq_true_eq]
      exact ⟨w.1, ih w.2⟩
    · exact wfFrom_mono (by omega) (ih w.2)

theorem mclear_wf {d : Nat → Byte} {m : List (Nat × Byte)} (w : Memory.wf d m = true) (lo hi : Nat) :
    Memory.wf d (mclear m lo hi) = true := wfFrom_filter w _

/-- The form depends on the default at listed addresses only. -/
theorem wfFrom_congr {d d' : Nat → Byte} {lo : Nat} {m : List (Nat × Byte)} (w : wfFrom d lo m = true)
    (h : ∀ e ∈ m, d' e.1 = d e.1) : wfFrom d' lo m = true := by
  induction m generalizing lo with
  | nil => rfl
  | cons e t ih =>
    obtain ⟨k, v⟩ := e
    simp only [wfFrom, Bool.and_eq_true, decide_eq_true_eq] at w ⊢
    have hk : d' k = d k := h (k, v) (List.mem_cons_self ..)
    exact ⟨⟨w.1.1, by rw [hk]; exact w.1.2⟩, ih w.2 fun e he => h e (List.mem_cons_of_mem _ he)⟩

/-! ### Memory operations of the machine keep the form -/

theorem State.putBytes_wf (s : State) (a : Nat) (bs : List Byte) (w : Memory.wf s.dflt s.mem = true) :
    Memory.wf (s.putBytes a bs).dflt (s.putBytes a bs).mem = true := mwrite_wf w a bs

theorem State.unspecify_wf (s : State) (lo hi : Nat) (w : Memory.wf s.dflt s.mem = true) :
    Memory.wf (s.unspecify lo hi).dflt (s.unspecify lo hi).mem = true := by
  refine wfFrom_congr (mclear_wf w lo hi) fun e he => ?_
  have h : e.1 < lo ∨ hi ≤ e.1 := by
    have := (List.mem_filter.mp he).2
    simpa using this
  simp only [State.dflt, State.unspecify, dfltAt]
  exact if_neg (by omega)

theorem State.reset_wf : Memory.wf State.reset.dflt State.reset.mem = true := rfl

/-- What putBytes leaves: every byte outside. -/
theorem State.putBytes_byte_other (s : State) (w : Memory.wf s.dflt s.mem = true) {a x : Nat} {bs : List Byte}
    (h : x < a ∨ a + bs.length ≤ x) : (s.putBytes a bs).byte x = s.byte x := mget_mwrite_other w h

/-- What putBytes stores reads back. -/
theorem State.putBytes_bytes (s : State) (w : Memory.wf s.dflt s.mem = true) (a : Nat) (bs : List Byte) :
    (s.putBytes a bs).bytes a bs.length = bs := mread_mwrite_same w a bs

end Sys2Proof.Machine
end

