-- ==== Sys2Proof/Laws/State.lean ====
section
/-! SUPPORT. One lemma per field per update of State: what each shared update leaves, and what it reads back. -/

namespace Sys2Proof.Machine

/-! ### setStrm -/

@[simp] theorem State.setStrm_pending (s : State) (i : StreamId) (x : Stream) : (s.setStrm i x).pending = s.pending := rfl
@[simp] theorem State.setStrm_freeCtr (s : State) (i : StreamId) (x : Stream) : (s.setStrm i x).freeCtr = s.freeCtr := rfl
@[simp] theorem State.setStrm_out (s : State) (i : StreamId) (x : Stream) : (s.setStrm i x).out = s.out := rfl
@[simp] theorem State.setStrm_mem (s : State) (i : StreamId) (x : Stream) : (s.setStrm i x).mem = s.mem := rfl
@[simp] theorem State.setStrm_unspec (s : State) (i : StreamId) (x : Stream) : (s.setStrm i x).unspec = s.unspec := rfl
@[simp] theorem State.setStrm_poison (s : State) (i : StreamId) (x : Stream) : (s.setStrm i x).poison = s.poison := rfl
@[simp] theorem State.setStrm_ops (s : State) (i : StreamId) (x : Stream) : (s.setStrm i x).ops = s.ops := rfl
@[simp] theorem State.setStrm_upsets (s : State) (i : StreamId) (x : Stream) : (s.setStrm i x).upsets = s.upsets := rfl
@[simp] theorem State.setStrm_fars (s : State) (i : StreamId) (x : Stream) : (s.setStrm i x).fars = s.fars := rfl
@[simp] theorem State.setStrm_farBuf (s : State) (i : StreamId) (x : Stream) : (s.setStrm i x).farBuf = s.farBuf := rfl
@[simp] theorem State.setStrm_time (s : State) (i : StreamId) (x : Stream) : (s.setStrm i x).time = s.time := rfl
@[simp] theorem State.setStrm_timeHi (s : State) (i : StreamId) (x : Stream) : (s.setStrm i x).timeHi = s.timeHi := rfl
@[simp] theorem State.setStrm_sregs (s : State) (i : StreamId) (x : Stream) : (s.setStrm i x).sregs = s.sregs := rfl
@[simp] theorem State.setStrm_ctxs (s : State) (i : StreamId) (x : Stream) : (s.setStrm i x).ctxs = s.ctxs := rfl
@[simp] theorem State.setStrm_mis (s : State) (i : StreamId) (x : Stream) : (s.setStrm i x).mis = s.mis := rfl
@[simp] theorem State.setStrm_merge (s : State) (i : StreamId) (x : Stream) : (s.setStrm i x).merge = s.merge := rfl
@[simp] theorem State.setStrm_cores (s : State) (i : StreamId) (x : Stream) : (s.setStrm i x).cores = s.cores := rfl
@[simp] theorem State.setStrm_clusters (s : State) (i : StreamId) (x : Stream) : (s.setStrm i x).clusters = s.clusters := rfl
@[simp] theorem State.setStrm_devRound (s : State) (i : StreamId) (x : Stream) : (s.setStrm i x).devRound = s.devRound := rfl
@[simp] theorem State.setStrm_vaults (s : State) (i : StreamId) (x : Stream) : (s.setStrm i x).vaults = s.vaults := rfl
@[simp] theorem State.setStrm_repairs (s : State) (i : StreamId) (x : Stream) : (s.setStrm i x).repairs = s.repairs := rfl
@[simp] theorem State.setStrm_groups (s : State) (i : StreamId) (x : Stream) : (s.setStrm i x).groups = s.groups := rfl
@[simp] theorem State.setStrm_pools (s : State) (i : StreamId) (x : Stream) : (s.setStrm i x).pools = s.pools := rfl
@[simp] theorem State.setStrm_engines (s : State) (i : StreamId) (x : Stream) : (s.setStrm i x).engines = s.engines := rfl
@[simp] theorem State.setStrm_ports (s : State) (i : StreamId) (x : Stream) : (s.setStrm i x).ports = s.ports := rfl
@[simp] theorem State.setStrm_dev (s : State) (i : StreamId) (x : Stream) : (s.setStrm i x).dev = s.dev := rfl
@[simp] theorem State.setStrm_fab (s : State) (i : StreamId) (x : Stream) : (s.setStrm i x).fab = s.fab := rfl
@[simp] theorem State.setStrm_weir (s : State) (i : StreamId) (x : Stream) : (s.setStrm i x).weir = s.weir := rfl
@[simp] theorem State.setStrm_hif (s : State) (i : StreamId) (x : Stream) : (s.setStrm i x).hif = s.hif := rfl
@[simp] theorem State.setStrm_pins (s : State) (i : StreamId) (x : Stream) : (s.setStrm i x).pins = s.pins := rfl
@[simp] theorem State.setStrm_boot (s : State) (i : StreamId) (x : Stream) : (s.setStrm i x).boot = s.boot := rfl
@[simp] theorem State.setStrm_sec (s : State) (i : StreamId) (x : Stream) : (s.setStrm i x).sec = s.sec := rfl
@[simp] theorem State.setStrm_flt (s : State) (i : StreamId) (x : Stream) : (s.setStrm i x).flt = s.flt := rfl
@[simp] theorem State.setStrm_evt (s : State) (i : StreamId) (x : Stream) : (s.setStrm i x).evt = s.evt := rfl

/-! ### setSreg -/

@[simp] theorem State.setSreg_pending (s : State) (i : StreamId) (x : StreamRegs) : (s.setSreg i x).pending = s.pending := rfl
@[simp] theorem State.setSreg_freeCtr (s : State) (i : StreamId) (x : StreamRegs) : (s.setSreg i x).freeCtr = s.freeCtr := rfl
@[simp] theorem State.setSreg_out (s : State) (i : StreamId) (x : StreamRegs) : (s.setSreg i x).out = s.out := rfl
@[simp] theorem State.setSreg_mem (s : State) (i : StreamId) (x : StreamRegs) : (s.setSreg i x).mem = s.mem := rfl
@[simp] theorem State.setSreg_unspec (s : State) (i : StreamId) (x : StreamRegs) : (s.setSreg i x).unspec = s.unspec := rfl
@[simp] theorem State.setSreg_poison (s : State) (i : StreamId) (x : StreamRegs) : (s.setSreg i x).poison = s.poison := rfl
@[simp] theorem State.setSreg_ops (s : State) (i : StreamId) (x : StreamRegs) : (s.setSreg i x).ops = s.ops := rfl
@[simp] theorem State.setSreg_upsets (s : State) (i : StreamId) (x : StreamRegs) : (s.setSreg i x).upsets = s.upsets := rfl
@[simp] theorem State.setSreg_fars (s : State) (i : StreamId) (x : StreamRegs) : (s.setSreg i x).fars = s.fars := rfl
@[simp] theorem State.setSreg_farBuf (s : State) (i : StreamId) (x : StreamRegs) : (s.setSreg i x).farBuf = s.farBuf := rfl
@[simp] theorem State.setSreg_time (s : State) (i : StreamId) (x : StreamRegs) : (s.setSreg i x).time = s.time := rfl
@[simp] theorem State.setSreg_timeHi (s : State) (i : StreamId) (x : StreamRegs) : (s.setSreg i x).timeHi = s.timeHi := rfl
@[simp] theorem State.setSreg_streams (s : State) (i : StreamId) (x : StreamRegs) : (s.setSreg i x).streams = s.streams := rfl
@[simp] theorem State.setSreg_ctxs (s : State) (i : StreamId) (x : StreamRegs) : (s.setSreg i x).ctxs = s.ctxs := rfl
@[simp] theorem State.setSreg_mis (s : State) (i : StreamId) (x : StreamRegs) : (s.setSreg i x).mis = s.mis := rfl
@[simp] theorem State.setSreg_merge (s : State) (i : StreamId) (x : StreamRegs) : (s.setSreg i x).merge = s.merge := rfl
@[simp] theorem State.setSreg_cores (s : State) (i : StreamId) (x : StreamRegs) : (s.setSreg i x).cores = s.cores := rfl
@[simp] theorem State.setSreg_clusters (s : State) (i : StreamId) (x : StreamRegs) : (s.setSreg i x).clusters = s.clusters := rfl
@[simp] theorem State.setSreg_devRound (s : State) (i : StreamId) (x : StreamRegs) : (s.setSreg i x).devRound = s.devRound := rfl
@[simp] theorem State.setSreg_vaults (s : State) (i : StreamId) (x : StreamRegs) : (s.setSreg i x).vaults = s.vaults := rfl
@[simp] theorem State.setSreg_repairs (s : State) (i : StreamId) (x : StreamRegs) : (s.setSreg i x).repairs = s.repairs := rfl
@[simp] theorem State.setSreg_groups (s : State) (i : StreamId) (x : StreamRegs) : (s.setSreg i x).groups = s.groups := rfl
@[simp] theorem State.setSreg_pools (s : State) (i : StreamId) (x : StreamRegs) : (s.setSreg i x).pools = s.pools := rfl
@[simp] theorem State.setSreg_engines (s : State) (i : StreamId) (x : StreamRegs) : (s.setSreg i x).engines = s.engines := rfl
@[simp] theorem State.setSreg_ports (s : State) (i : StreamId) (x : StreamRegs) : (s.setSreg i x).ports = s.ports := rfl
@[simp] theorem State.setSreg_dev (s : State) (i : StreamId) (x : StreamRegs) : (s.setSreg i x).dev = s.dev := rfl
@[simp] theorem State.setSreg_fab (s : State) (i : StreamId) (x : StreamRegs) : (s.setSreg i x).fab = s.fab := rfl
@[simp] theorem State.setSreg_weir (s : State) (i : StreamId) (x : StreamRegs) : (s.setSreg i x).weir = s.weir := rfl
@[simp] theorem State.setSreg_hif (s : State) (i : StreamId) (x : StreamRegs) : (s.setSreg i x).hif = s.hif := rfl
@[simp] theorem State.setSreg_pins (s : State) (i : StreamId) (x : StreamRegs) : (s.setSreg i x).pins = s.pins := rfl
@[simp] theorem State.setSreg_boot (s : State) (i : StreamId) (x : StreamRegs) : (s.setSreg i x).boot = s.boot := rfl
@[simp] theorem State.setSreg_sec (s : State) (i : StreamId) (x : StreamRegs) : (s.setSreg i x).sec = s.sec := rfl
@[simp] theorem State.setSreg_flt (s : State) (i : StreamId) (x : StreamRegs) : (s.setSreg i x).flt = s.flt := rfl
@[simp] theorem State.setSreg_evt (s : State) (i : StreamId) (x : StreamRegs) : (s.setSreg i x).evt = s.evt := rfl

/-! ### setCtx -/

@[simp] theorem State.setCtx_pending (s : State) (c : CtxId) (x : Ctx) : (s.setCtx c x).pending = s.pending := rfl
@[simp] theorem State.setCtx_freeCtr (s : State) (c : CtxId) (x : Ctx) : (s.setCtx c x).freeCtr = s.freeCtr := rfl
@[simp] theorem State.setCtx_out (s : State) (c : CtxId) (x : Ctx) : (s.setCtx c x).out = s.out := rfl
@[simp] theorem State.setCtx_mem (s : State) (c : CtxId) (x : Ctx) : (s.setCtx c x).mem = s.mem := rfl
@[simp] theorem State.setCtx_unspec (s : State) (c : CtxId) (x : Ctx) : (s.setCtx c x).unspec = s.unspec := rfl
@[simp] theorem State.setCtx_poison (s : State) (c : CtxId) (x : Ctx) : (s.setCtx c x).poison = s.poison := rfl
@[simp] theorem State.setCtx_ops (s : State) (c : CtxId) (x : Ctx) : (s.setCtx c x).ops = s.ops := rfl
@[simp] theorem State.setCtx_upsets (s : State) (c : CtxId) (x : Ctx) : (s.setCtx c x).upsets = s.upsets := rfl
@[simp] theorem State.setCtx_fars (s : State) (c : CtxId) (x : Ctx) : (s.setCtx c x).fars = s.fars := rfl
@[simp] theorem State.setCtx_farBuf (s : State) (c : CtxId) (x : Ctx) : (s.setCtx c x).farBuf = s.farBuf := rfl
@[simp] theorem State.setCtx_time (s : State) (c : CtxId) (x : Ctx) : (s.setCtx c x).time = s.time := rfl
@[simp] theorem State.setCtx_timeHi (s : State) (c : CtxId) (x : Ctx) : (s.setCtx c x).timeHi = s.timeHi := rfl
@[simp] theorem State.setCtx_streams (s : State) (c : CtxId) (x : Ctx) : (s.setCtx c x).streams = s.streams := rfl
@[simp] theorem State.setCtx_sregs (s : State) (c : CtxId) (x : Ctx) : (s.setCtx c x).sregs = s.sregs := rfl
@[simp] theorem State.setCtx_mis (s : State) (c : CtxId) (x : Ctx) : (s.setCtx c x).mis = s.mis := rfl
@[simp] theorem State.setCtx_merge (s : State) (c : CtxId) (x : Ctx) : (s.setCtx c x).merge = s.merge := rfl
@[simp] theorem State.setCtx_cores (s : State) (c : CtxId) (x : Ctx) : (s.setCtx c x).cores = s.cores := rfl
@[simp] theorem State.setCtx_clusters (s : State) (c : CtxId) (x : Ctx) : (s.setCtx c x).clusters = s.clusters := rfl
@[simp] theorem State.setCtx_devRound (s : State) (c : CtxId) (x : Ctx) : (s.setCtx c x).devRound = s.devRound := rfl
@[simp] theorem State.setCtx_vaults (s : State) (c : CtxId) (x : Ctx) : (s.setCtx c x).vaults = s.vaults := rfl
@[simp] theorem State.setCtx_repairs (s : State) (c : CtxId) (x : Ctx) : (s.setCtx c x).repairs = s.repairs := rfl
@[simp] theorem State.setCtx_groups (s : State) (c : CtxId) (x : Ctx) : (s.setCtx c x).groups = s.groups := rfl
@[simp] theorem State.setCtx_pools (s : State) (c : CtxId) (x : Ctx) : (s.setCtx c x).pools = s.pools := rfl
@[simp] theorem State.setCtx_engines (s : State) (c : CtxId) (x : Ctx) : (s.setCtx c x).engines = s.engines := rfl
@[simp] theorem State.setCtx_ports (s : State) (c : CtxId) (x : Ctx) : (s.setCtx c x).ports = s.ports := rfl
@[simp] theorem State.setCtx_dev (s : State) (c : CtxId) (x : Ctx) : (s.setCtx c x).dev = s.dev := rfl
@[simp] theorem State.setCtx_fab (s : State) (c : CtxId) (x : Ctx) : (s.setCtx c x).fab = s.fab := rfl
@[simp] theorem State.setCtx_weir (s : State) (c : CtxId) (x : Ctx) : (s.setCtx c x).weir = s.weir := rfl
@[simp] theorem State.setCtx_hif (s : State) (c : CtxId) (x : Ctx) : (s.setCtx c x).hif = s.hif := rfl
@[simp] theorem State.setCtx_pins (s : State) (c : CtxId) (x : Ctx) : (s.setCtx c x).pins = s.pins := rfl
@[simp] theorem State.setCtx_boot (s : State) (c : CtxId) (x : Ctx) : (s.setCtx c x).boot = s.boot := rfl
@[simp] theorem State.setCtx_sec (s : State) (c : CtxId) (x : Ctx) : (s.setCtx c x).sec = s.sec := rfl
@[simp] theorem State.setCtx_flt (s : State) (c : CtxId) (x : Ctx) : (s.setCtx c x).flt = s.flt := rfl
@[simp] theorem State.setCtx_evt (s : State) (c : CtxId) (x : Ctx) : (s.setCtx c x).evt = s.evt := rfl

/-! ### setCore -/

@[simp] theorem State.setCore_pending (s : State) (c : Nat) (x : Core) : (s.setCore c x).pending = s.pending := rfl
@[simp] theorem State.setCore_freeCtr (s : State) (c : Nat) (x : Core) : (s.setCore c x).freeCtr = s.freeCtr := rfl
@[simp] theorem State.setCore_out (s : State) (c : Nat) (x : Core) : (s.setCore c x).out = s.out := rfl
@[simp] theorem State.setCore_mem (s : State) (c : Nat) (x : Core) : (s.setCore c x).mem = s.mem := rfl
@[simp] theorem State.setCore_unspec (s : State) (c : Nat) (x : Core) : (s.setCore c x).unspec = s.unspec := rfl
@[simp] theorem State.setCore_poison (s : State) (c : Nat) (x : Core) : (s.setCore c x).poison = s.poison := rfl
@[simp] theorem State.setCore_ops (s : State) (c : Nat) (x : Core) : (s.setCore c x).ops = s.ops := rfl
@[simp] theorem State.setCore_upsets (s : State) (c : Nat) (x : Core) : (s.setCore c x).upsets = s.upsets := rfl
@[simp] theorem State.setCore_fars (s : State) (c : Nat) (x : Core) : (s.setCore c x).fars = s.fars := rfl
@[simp] theorem State.setCore_farBuf (s : State) (c : Nat) (x : Core) : (s.setCore c x).farBuf = s.farBuf := rfl
@[simp] theorem State.setCore_time (s : State) (c : Nat) (x : Core) : (s.setCore c x).time = s.time := rfl
@[simp] theorem State.setCore_timeHi (s : State) (c : Nat) (x : Core) : (s.setCore c x).timeHi = s.timeHi := rfl
@[simp] theorem State.setCore_streams (s : State) (c : Nat) (x : Core) : (s.setCore c x).streams = s.streams := rfl
@[simp] theorem State.setCore_sregs (s : State) (c : Nat) (x : Core) : (s.setCore c x).sregs = s.sregs := rfl
@[simp] theorem State.setCore_ctxs (s : State) (c : Nat) (x : Core) : (s.setCore c x).ctxs = s.ctxs := rfl
@[simp] theorem State.setCore_mis (s : State) (c : Nat) (x : Core) : (s.setCore c x).mis = s.mis := rfl
@[simp] theorem State.setCore_merge (s : State) (c : Nat) (x : Core) : (s.setCore c x).merge = s.merge := rfl
@[simp] theorem State.setCore_clusters (s : State) (c : Nat) (x : Core) : (s.setCore c x).clusters = s.clusters := rfl
@[simp] theorem State.setCore_devRound (s : State) (c : Nat) (x : Core) : (s.setCore c x).devRound = s.devRound := rfl
@[simp] theorem State.setCore_vaults (s : State) (c : Nat) (x : Core) : (s.setCore c x).vaults = s.vaults := rfl
@[simp] theorem State.setCore_repairs (s : State) (c : Nat) (x : Core) : (s.setCore c x).repairs = s.repairs := rfl
@[simp] theorem State.setCore_groups (s : State) (c : Nat) (x : Core) : (s.setCore c x).groups = s.groups := rfl
@[simp] theorem State.setCore_pools (s : State) (c : Nat) (x : Core) : (s.setCore c x).pools = s.pools := rfl
@[simp] theorem State.setCore_engines (s : State) (c : Nat) (x : Core) : (s.setCore c x).engines = s.engines := rfl
@[simp] theorem State.setCore_ports (s : State) (c : Nat) (x : Core) : (s.setCore c x).ports = s.ports := rfl
@[simp] theorem State.setCore_dev (s : State) (c : Nat) (x : Core) : (s.setCore c x).dev = s.dev := rfl
@[simp] theorem State.setCore_fab (s : State) (c : Nat) (x : Core) : (s.setCore c x).fab = s.fab := rfl
@[simp] theorem State.setCore_weir (s : State) (c : Nat) (x : Core) : (s.setCore c x).weir = s.weir := rfl
@[simp] theorem State.setCore_hif (s : State) (c : Nat) (x : Core) : (s.setCore c x).hif = s.hif := rfl
@[simp] theorem State.setCore_pins (s : State) (c : Nat) (x : Core) : (s.setCore c x).pins = s.pins := rfl
@[simp] theorem State.setCore_boot (s : State) (c : Nat) (x : Core) : (s.setCore c x).boot = s.boot := rfl
@[simp] theorem State.setCore_sec (s : State) (c : Nat) (x : Core) : (s.setCore c x).sec = s.sec := rfl
@[simp] theorem State.setCore_flt (s : State) (c : Nat) (x : Core) : (s.setCore c x).flt = s.flt := rfl
@[simp] theorem State.setCore_evt (s : State) (c : Nat) (x : Core) : (s.setCore c x).evt = s.evt := rfl

/-! ### setCluster -/

@[simp] theorem State.setCluster_pending (s : State) (c : Nat) (x : Cluster) : (s.setCluster c x).pending = s.pending := rfl
@[simp] theorem State.setCluster_freeCtr (s : State) (c : Nat) (x : Cluster) : (s.setCluster c x).freeCtr = s.freeCtr := rfl
@[simp] theorem State.setCluster_out (s : State) (c : Nat) (x : Cluster) : (s.setCluster c x).out = s.out := rfl
@[simp] theorem State.setCluster_mem (s : State) (c : Nat) (x : Cluster) : (s.setCluster c x).mem = s.mem := rfl
@[simp] theorem State.setCluster_unspec (s : State) (c : Nat) (x : Cluster) : (s.setCluster c x).unspec = s.unspec := rfl
@[simp] theorem State.setCluster_poison (s : State) (c : Nat) (x : Cluster) : (s.setCluster c x).poison = s.poison := rfl
@[simp] theorem State.setCluster_ops (s : State) (c : Nat) (x : Cluster) : (s.setCluster c x).ops = s.ops := rfl
@[simp] theorem State.setCluster_upsets (s : State) (c : Nat) (x : Cluster) : (s.setCluster c x).upsets = s.upsets := rfl
@[simp] theorem State.setCluster_fars (s : State) (c : Nat) (x : Cluster) : (s.setCluster c x).fars = s.fars := rfl
@[simp] theorem State.setCluster_farBuf (s : State) (c : Nat) (x : Cluster) : (s.setCluster c x).farBuf = s.farBuf := rfl
@[simp] theorem State.setCluster_time (s : State) (c : Nat) (x : Cluster) : (s.setCluster c x).time = s.time := rfl
@[simp] theorem State.setCluster_timeHi (s : State) (c : Nat) (x : Cluster) : (s.setCluster c x).timeHi = s.timeHi := rfl
@[simp] theorem State.setCluster_streams (s : State) (c : Nat) (x : Cluster) : (s.setCluster c x).streams = s.streams := rfl
@[simp] theorem State.setCluster_sregs (s : State) (c : Nat) (x : Cluster) : (s.setCluster c x).sregs = s.sregs := rfl
@[simp] theorem State.setCluster_ctxs (s : State) (c : Nat) (x : Cluster) : (s.setCluster c x).ctxs = s.ctxs := rfl
@[simp] theorem State.setCluster_mis (s : State) (c : Nat) (x : Cluster) : (s.setCluster c x).mis = s.mis := rfl
@[simp] theorem State.setCluster_merge (s : State) (c : Nat) (x : Cluster) : (s.setCluster c x).merge = s.merge := rfl
@[simp] theorem State.setCluster_cores (s : State) (c : Nat) (x : Cluster) : (s.setCluster c x).cores = s.cores := rfl
@[simp] theorem State.setCluster_devRound (s : State) (c : Nat) (x : Cluster) : (s.setCluster c x).devRound = s.devRound := rfl
@[simp] theorem State.setCluster_vaults (s : State) (c : Nat) (x : Cluster) : (s.setCluster c x).vaults = s.vaults := rfl
@[simp] theorem State.setCluster_repairs (s : State) (c : Nat) (x : Cluster) : (s.setCluster c x).repairs = s.repairs := rfl
@[simp] theorem State.setCluster_groups (s : State) (c : Nat) (x : Cluster) : (s.setCluster c x).groups = s.groups := rfl
@[simp] theorem State.setCluster_pools (s : State) (c : Nat) (x : Cluster) : (s.setCluster c x).pools = s.pools := rfl
@[simp] theorem State.setCluster_engines (s : State) (c : Nat) (x : Cluster) : (s.setCluster c x).engines = s.engines := rfl
@[simp] theorem State.setCluster_ports (s : State) (c : Nat) (x : Cluster) : (s.setCluster c x).ports = s.ports := rfl
@[simp] theorem State.setCluster_dev (s : State) (c : Nat) (x : Cluster) : (s.setCluster c x).dev = s.dev := rfl
@[simp] theorem State.setCluster_fab (s : State) (c : Nat) (x : Cluster) : (s.setCluster c x).fab = s.fab := rfl
@[simp] theorem State.setCluster_weir (s : State) (c : Nat) (x : Cluster) : (s.setCluster c x).weir = s.weir := rfl
@[simp] theorem State.setCluster_hif (s : State) (c : Nat) (x : Cluster) : (s.setCluster c x).hif = s.hif := rfl
@[simp] theorem State.setCluster_pins (s : State) (c : Nat) (x : Cluster) : (s.setCluster c x).pins = s.pins := rfl
@[simp] theorem State.setCluster_boot (s : State) (c : Nat) (x : Cluster) : (s.setCluster c x).boot = s.boot := rfl
@[simp] theorem State.setCluster_sec (s : State) (c : Nat) (x : Cluster) : (s.setCluster c x).sec = s.sec := rfl
@[simp] theorem State.setCluster_flt (s : State) (c : Nat) (x : Cluster) : (s.setCluster c x).flt = s.flt := rfl
@[simp] theorem State.setCluster_evt (s : State) (c : Nat) (x : Cluster) : (s.setCluster c x).evt = s.evt := rfl

/-! ### modVault -/

@[simp] theorem State.modVault_pending (s : State) (v : Nat) (f : Vault → Vault) : (s.modVault v f).pending = s.pending := rfl
@[simp] theorem State.modVault_freeCtr (s : State) (v : Nat) (f : Vault → Vault) : (s.modVault v f).freeCtr = s.freeCtr := rfl
@[simp] theorem State.modVault_out (s : State) (v : Nat) (f : Vault → Vault) : (s.modVault v f).out = s.out := rfl
@[simp] theorem State.modVault_mem (s : State) (v : Nat) (f : Vault → Vault) : (s.modVault v f).mem = s.mem := rfl
@[simp] theorem State.modVault_unspec (s : State) (v : Nat) (f : Vault → Vault) : (s.modVault v f).unspec = s.unspec := rfl
@[simp] theorem State.modVault_poison (s : State) (v : Nat) (f : Vault → Vault) : (s.modVault v f).poison = s.poison := rfl
@[simp] theorem State.modVault_ops (s : State) (v : Nat) (f : Vault → Vault) : (s.modVault v f).ops = s.ops := rfl
@[simp] theorem State.modVault_upsets (s : State) (v : Nat) (f : Vault → Vault) : (s.modVault v f).upsets = s.upsets := rfl
@[simp] theorem State.modVault_fars (s : State) (v : Nat) (f : Vault → Vault) : (s.modVault v f).fars = s.fars := rfl
@[simp] theorem State.modVault_farBuf (s : State) (v : Nat) (f : Vault → Vault) : (s.modVault v f).farBuf = s.farBuf := rfl
@[simp] theorem State.modVault_time (s : State) (v : Nat) (f : Vault → Vault) : (s.modVault v f).time = s.time := rfl
@[simp] theorem State.modVault_timeHi (s : State) (v : Nat) (f : Vault → Vault) : (s.modVault v f).timeHi = s.timeHi := rfl
@[simp] theorem State.modVault_streams (s : State) (v : Nat) (f : Vault → Vault) : (s.modVault v f).streams = s.streams := rfl
@[simp] theorem State.modVault_sregs (s : State) (v : Nat) (f : Vault → Vault) : (s.modVault v f).sregs = s.sregs := rfl
@[simp] theorem State.modVault_ctxs (s : State) (v : Nat) (f : Vault → Vault) : (s.modVault v f).ctxs = s.ctxs := rfl
@[simp] theorem State.modVault_mis (s : State) (v : Nat) (f : Vault → Vault) : (s.modVault v f).mis = s.mis := rfl
@[simp] theorem State.modVault_merge (s : State) (v : Nat) (f : Vault → Vault) : (s.modVault v f).merge = s.merge := rfl
@[simp] theorem State.modVault_cores (s : State) (v : Nat) (f : Vault → Vault) : (s.modVault v f).cores = s.cores := rfl
@[simp] theorem State.modVault_clusters (s : State) (v : Nat) (f : Vault → Vault) : (s.modVault v f).clusters = s.clusters := rfl
@[simp] theorem State.modVault_devRound (s : State) (v : Nat) (f : Vault → Vault) : (s.modVault v f).devRound = s.devRound := rfl
@[simp] theorem State.modVault_repairs (s : State) (v : Nat) (f : Vault → Vault) : (s.modVault v f).repairs = s.repairs := rfl
@[simp] theorem State.modVault_groups (s : State) (v : Nat) (f : Vault → Vault) : (s.modVault v f).groups = s.groups := rfl
@[simp] theorem State.modVault_pools (s : State) (v : Nat) (f : Vault → Vault) : (s.modVault v f).pools = s.pools := rfl
@[simp] theorem State.modVault_engines (s : State) (v : Nat) (f : Vault → Vault) : (s.modVault v f).engines = s.engines := rfl
@[simp] theorem State.modVault_ports (s : State) (v : Nat) (f : Vault → Vault) : (s.modVault v f).ports = s.ports := rfl
@[simp] theorem State.modVault_dev (s : State) (v : Nat) (f : Vault → Vault) : (s.modVault v f).dev = s.dev := rfl
@[simp] theorem State.modVault_fab (s : State) (v : Nat) (f : Vault → Vault) : (s.modVault v f).fab = s.fab := rfl
@[simp] theorem State.modVault_weir (s : State) (v : Nat) (f : Vault → Vault) : (s.modVault v f).weir = s.weir := rfl
@[simp] theorem State.modVault_hif (s : State) (v : Nat) (f : Vault → Vault) : (s.modVault v f).hif = s.hif := rfl
@[simp] theorem State.modVault_pins (s : State) (v : Nat) (f : Vault → Vault) : (s.modVault v f).pins = s.pins := rfl
@[simp] theorem State.modVault_boot (s : State) (v : Nat) (f : Vault → Vault) : (s.modVault v f).boot = s.boot := rfl
@[simp] theorem State.modVault_sec (s : State) (v : Nat) (f : Vault → Vault) : (s.modVault v f).sec = s.sec := rfl
@[simp] theorem State.modVault_flt (s : State) (v : Nat) (f : Vault → Vault) : (s.modVault v f).flt = s.flt := rfl
@[simp] theorem State.modVault_evt (s : State) (v : Nat) (f : Vault → Vault) : (s.modVault v f).evt = s.evt := rfl

/-! ### modGroup -/

@[simp] theorem State.modGroup_pending (s : State) (i : Nat) (f : Group → Group) : (s.modGroup i f).pending = s.pending := rfl
@[simp] theorem State.modGroup_freeCtr (s : State) (i : Nat) (f : Group → Group) : (s.modGroup i f).freeCtr = s.freeCtr := rfl
@[simp] theorem State.modGroup_out (s : State) (i : Nat) (f : Group → Group) : (s.modGroup i f).out = s.out := rfl
@[simp] theorem State.modGroup_mem (s : State) (i : Nat) (f : Group → Group) : (s.modGroup i f).mem = s.mem := rfl
@[simp] theorem State.modGroup_unspec (s : State) (i : Nat) (f : Group → Group) : (s.modGroup i f).unspec = s.unspec := rfl
@[simp] theorem State.modGroup_poison (s : State) (i : Nat) (f : Group → Group) : (s.modGroup i f).poison = s.poison := rfl
@[simp] theorem State.modGroup_ops (s : State) (i : Nat) (f : Group → Group) : (s.modGroup i f).ops = s.ops := rfl
@[simp] theorem State.modGroup_upsets (s : State) (i : Nat) (f : Group → Group) : (s.modGroup i f).upsets = s.upsets := rfl
@[simp] theorem State.modGroup_fars (s : State) (i : Nat) (f : Group → Group) : (s.modGroup i f).fars = s.fars := rfl
@[simp] theorem State.modGroup_farBuf (s : State) (i : Nat) (f : Group → Group) : (s.modGroup i f).farBuf = s.farBuf := rfl
@[simp] theorem State.modGroup_time (s : State) (i : Nat) (f : Group → Group) : (s.modGroup i f).time = s.time := rfl
@[simp] theorem State.modGroup_timeHi (s : State) (i : Nat) (f : Group → Group) : (s.modGroup i f).timeHi = s.timeHi := rfl
@[simp] theorem State.modGroup_streams (s : State) (i : Nat) (f : Group → Group) : (s.modGroup i f).streams = s.streams := rfl
@[simp] theorem State.modGroup_sregs (s : State) (i : Nat) (f : Group → Group) : (s.modGroup i f).sregs = s.sregs := rfl
@[simp] theorem State.modGroup_ctxs (s : State) (i : Nat) (f : Group → Group) : (s.modGroup i f).ctxs = s.ctxs := rfl
@[simp] theorem State.modGroup_mis (s : State) (i : Nat) (f : Group → Group) : (s.modGroup i f).mis = s.mis := rfl
@[simp] theorem State.modGroup_merge (s : State) (i : Nat) (f : Group → Group) : (s.modGroup i f).merge = s.merge := rfl
@[simp] theorem State.modGroup_cores (s : State) (i : Nat) (f : Group → Group) : (s.modGroup i f).cores = s.cores := rfl
@[simp] theorem State.modGroup_clusters (s : State) (i : Nat) (f : Group → Group) : (s.modGroup i f).clusters = s.clusters := rfl
@[simp] theorem State.modGroup_devRound (s : State) (i : Nat) (f : Group → Group) : (s.modGroup i f).devRound = s.devRound := rfl
@[simp] theorem State.modGroup_vaults (s : State) (i : Nat) (f : Group → Group) : (s.modGroup i f).vaults = s.vaults := rfl
@[simp] theorem State.modGroup_repairs (s : State) (i : Nat) (f : Group → Group) : (s.modGroup i f).repairs = s.repairs := rfl
@[simp] theorem State.modGroup_pools (s : State) (i : Nat) (f : Group → Group) : (s.modGroup i f).pools = s.pools := rfl
@[simp] theorem State.modGroup_engines (s : State) (i : Nat) (f : Group → Group) : (s.modGroup i f).engines = s.engines := rfl
@[simp] theorem State.modGroup_ports (s : State) (i : Nat) (f : Group → Group) : (s.modGroup i f).ports = s.ports := rfl
@[simp] theorem State.modGroup_dev (s : State) (i : Nat) (f : Group → Group) : (s.modGroup i f).dev = s.dev := rfl
@[simp] theorem State.modGroup_fab (s : State) (i : Nat) (f : Group → Group) : (s.modGroup i f).fab = s.fab := rfl
@[simp] theorem State.modGroup_weir (s : State) (i : Nat) (f : Group → Group) : (s.modGroup i f).weir = s.weir := rfl
@[simp] theorem State.modGroup_hif (s : State) (i : Nat) (f : Group → Group) : (s.modGroup i f).hif = s.hif := rfl
@[simp] theorem State.modGroup_pins (s : State) (i : Nat) (f : Group → Group) : (s.modGroup i f).pins = s.pins := rfl
@[simp] theorem State.modGroup_boot (s : State) (i : Nat) (f : Group → Group) : (s.modGroup i f).boot = s.boot := rfl
@[simp] theorem State.modGroup_sec (s : State) (i : Nat) (f : Group → Group) : (s.modGroup i f).sec = s.sec := rfl
@[simp] theorem State.modGroup_flt (s : State) (i : Nat) (f : Group → Group) : (s.modGroup i f).flt = s.flt := rfl
@[simp] theorem State.modGroup_evt (s : State) (i : Nat) (f : Group → Group) : (s.modGroup i f).evt = s.evt := rfl

/-! ### modPool -/

@[simp] theorem State.modPool_pending (s : State) (p : Nat) (f : Pool → Pool) : (s.modPool p f).pending = s.pending := rfl
@[simp] theorem State.modPool_freeCtr (s : State) (p : Nat) (f : Pool → Pool) : (s.modPool p f).freeCtr = s.freeCtr := rfl
@[simp] theorem State.modPool_out (s : State) (p : Nat) (f : Pool → Pool) : (s.modPool p f).out = s.out := rfl
@[simp] theorem State.modPool_mem (s : State) (p : Nat) (f : Pool → Pool) : (s.modPool p f).mem = s.mem := rfl
@[simp] theorem State.modPool_unspec (s : State) (p : Nat) (f : Pool → Pool) : (s.modPool p f).unspec = s.unspec := rfl
@[simp] theorem State.modPool_poison (s : State) (p : Nat) (f : Pool → Pool) : (s.modPool p f).poison = s.poison := rfl
@[simp] theorem State.modPool_ops (s : State) (p : Nat) (f : Pool → Pool) : (s.modPool p f).ops = s.ops := rfl
@[simp] theorem State.modPool_upsets (s : State) (p : Nat) (f : Pool → Pool) : (s.modPool p f).upsets = s.upsets := rfl
@[simp] theorem State.modPool_fars (s : State) (p : Nat) (f : Pool → Pool) : (s.modPool p f).fars = s.fars := rfl
@[simp] theorem State.modPool_farBuf (s : State) (p : Nat) (f : Pool → Pool) : (s.modPool p f).farBuf = s.farBuf := rfl
@[simp] theorem State.modPool_time (s : State) (p : Nat) (f : Pool → Pool) : (s.modPool p f).time = s.time := rfl
@[simp] theorem State.modPool_timeHi (s : State) (p : Nat) (f : Pool → Pool) : (s.modPool p f).timeHi = s.timeHi := rfl
@[simp] theorem State.modPool_streams (s : State) (p : Nat) (f : Pool → Pool) : (s.modPool p f).streams = s.streams := rfl
@[simp] theorem State.modPool_sregs (s : State) (p : Nat) (f : Pool → Pool) : (s.modPool p f).sregs = s.sregs := rfl
@[simp] theorem State.modPool_ctxs (s : State) (p : Nat) (f : Pool → Pool) : (s.modPool p f).ctxs = s.ctxs := rfl
@[simp] theorem State.modPool_mis (s : State) (p : Nat) (f : Pool → Pool) : (s.modPool p f).mis = s.mis := rfl
@[simp] theorem State.modPool_merge (s : State) (p : Nat) (f : Pool → Pool) : (s.modPool p f).merge = s.merge := rfl
@[simp] theorem State.modPool_cores (s : State) (p : Nat) (f : Pool → Pool) : (s.modPool p f).cores = s.cores := rfl
@[simp] theorem State.modPool_clusters (s : State) (p : Nat) (f : Pool → Pool) : (s.modPool p f).clusters = s.clusters := rfl
@[simp] theorem State.modPool_devRound (s : State) (p : Nat) (f : Pool → Pool) : (s.modPool p f).devRound = s.devRound := rfl
@[simp] theorem State.modPool_vaults (s : State) (p : Nat) (f : Pool → Pool) : (s.modPool p f).vaults = s.vaults := rfl
@[simp] theorem State.modPool_repairs (s : State) (p : Nat) (f : Pool → Pool) : (s.modPool p f).repairs = s.repairs := rfl
@[simp] theorem State.modPool_groups (s : State) (p : Nat) (f : Pool → Pool) : (s.modPool p f).groups = s.groups := rfl
@[simp] theorem State.modPool_engines (s : State) (p : Nat) (f : Pool → Pool) : (s.modPool p f).engines = s.engines := rfl
@[simp] theorem State.modPool_ports (s : State) (p : Nat) (f : Pool → Pool) : (s.modPool p f).ports = s.ports := rfl
@[simp] theorem State.modPool_dev (s : State) (p : Nat) (f : Pool → Pool) : (s.modPool p f).dev = s.dev := rfl
@[simp] theorem State.modPool_fab (s : State) (p : Nat) (f : Pool → Pool) : (s.modPool p f).fab = s.fab := rfl
@[simp] theorem State.modPool_weir (s : State) (p : Nat) (f : Pool → Pool) : (s.modPool p f).weir = s.weir := rfl
@[simp] theorem State.modPool_hif (s : State) (p : Nat) (f : Pool → Pool) : (s.modPool p f).hif = s.hif := rfl
@[simp] theorem State.modPool_pins (s : State) (p : Nat) (f : Pool → Pool) : (s.modPool p f).pins = s.pins := rfl
@[simp] theorem State.modPool_boot (s : State) (p : Nat) (f : Pool → Pool) : (s.modPool p f).boot = s.boot := rfl
@[simp] theorem State.modPool_sec (s : State) (p : Nat) (f : Pool → Pool) : (s.modPool p f).sec = s.sec := rfl
@[simp] theorem State.modPool_flt (s : State) (p : Nat) (f : Pool → Pool) : (s.modPool p f).flt = s.flt := rfl
@[simp] theorem State.modPool_evt (s : State) (p : Nat) (f : Pool → Pool) : (s.modPool p f).evt = s.evt := rfl

/-! ### modEngine -/

@[simp] theorem State.modEngine_pending (s : State) (e : Nat) (f : Engine → Engine) : (s.modEngine e f).pending = s.pending := rfl
@[simp] theorem State.modEngine_freeCtr (s : State) (e : Nat) (f : Engine → Engine) : (s.modEngine e f).freeCtr = s.freeCtr := rfl
@[simp] theorem State.modEngine_out (s : State) (e : Nat) (f : Engine → Engine) : (s.modEngine e f).out = s.out := rfl
@[simp] theorem State.modEngine_mem (s : State) (e : Nat) (f : Engine → Engine) : (s.modEngine e f).mem = s.mem := rfl
@[simp] theorem State.modEngine_unspec (s : State) (e : Nat) (f : Engine → Engine) : (s.modEngine e f).unspec = s.unspec := rfl
@[simp] theorem State.modEngine_poison (s : State) (e : Nat) (f : Engine → Engine) : (s.modEngine e f).poison = s.poison := rfl
@[simp] theorem State.modEngine_ops (s : State) (e : Nat) (f : Engine → Engine) : (s.modEngine e f).ops = s.ops := rfl
@[simp] theorem State.modEngine_upsets (s : State) (e : Nat) (f : Engine → Engine) : (s.modEngine e f).upsets = s.upsets := rfl
@[simp] theorem State.modEngine_fars (s : State) (e : Nat) (f : Engine → Engine) : (s.modEngine e f).fars = s.fars := rfl
@[simp] theorem State.modEngine_farBuf (s : State) (e : Nat) (f : Engine → Engine) : (s.modEngine e f).farBuf = s.farBuf := rfl
@[simp] theorem State.modEngine_time (s : State) (e : Nat) (f : Engine → Engine) : (s.modEngine e f).time = s.time := rfl
@[simp] theorem State.modEngine_timeHi (s : State) (e : Nat) (f : Engine → Engine) : (s.modEngine e f).timeHi = s.timeHi := rfl
@[simp] theorem State.modEngine_streams (s : State) (e : Nat) (f : Engine → Engine) : (s.modEngine e f).streams = s.streams := rfl
@[simp] theorem State.modEngine_sregs (s : State) (e : Nat) (f : Engine → Engine) : (s.modEngine e f).sregs = s.sregs := rfl
@[simp] theorem State.modEngine_ctxs (s : State) (e : Nat) (f : Engine → Engine) : (s.modEngine e f).ctxs = s.ctxs := rfl
@[simp] theorem State.modEngine_mis (s : State) (e : Nat) (f : Engine → Engine) : (s.modEngine e f).mis = s.mis := rfl
@[simp] theorem State.modEngine_merge (s : State) (e : Nat) (f : Engine → Engine) : (s.modEngine e f).merge = s.merge := rfl
@[simp] theorem State.modEngine_cores (s : State) (e : Nat) (f : Engine → Engine) : (s.modEngine e f).cores = s.cores := rfl
@[simp] theorem State.modEngine_clusters (s : State) (e : Nat) (f : Engine → Engine) : (s.modEngine e f).clusters = s.clusters := rfl
@[simp] theorem State.modEngine_devRound (s : State) (e : Nat) (f : Engine → Engine) : (s.modEngine e f).devRound = s.devRound := rfl
@[simp] theorem State.modEngine_vaults (s : State) (e : Nat) (f : Engine → Engine) : (s.modEngine e f).vaults = s.vaults := rfl
@[simp] theorem State.modEngine_repairs (s : State) (e : Nat) (f : Engine → Engine) : (s.modEngine e f).repairs = s.repairs := rfl
@[simp] theorem State.modEngine_groups (s : State) (e : Nat) (f : Engine → Engine) : (s.modEngine e f).groups = s.groups := rfl
@[simp] theorem State.modEngine_pools (s : State) (e : Nat) (f : Engine → Engine) : (s.modEngine e f).pools = s.pools := rfl
@[simp] theorem State.modEngine_ports (s : State) (e : Nat) (f : Engine → Engine) : (s.modEngine e f).ports = s.ports := rfl
@[simp] theorem State.modEngine_dev (s : State) (e : Nat) (f : Engine → Engine) : (s.modEngine e f).dev = s.dev := rfl
@[simp] theorem State.modEngine_fab (s : State) (e : Nat) (f : Engine → Engine) : (s.modEngine e f).fab = s.fab := rfl
@[simp] theorem State.modEngine_weir (s : State) (e : Nat) (f : Engine → Engine) : (s.modEngine e f).weir = s.weir := rfl
@[simp] theorem State.modEngine_hif (s : State) (e : Nat) (f : Engine → Engine) : (s.modEngine e f).hif = s.hif := rfl
@[simp] theorem State.modEngine_pins (s : State) (e : Nat) (f : Engine → Engine) : (s.modEngine e f).pins = s.pins := rfl
@[simp] theorem State.modEngine_boot (s : State) (e : Nat) (f : Engine → Engine) : (s.modEngine e f).boot = s.boot := rfl
@[simp] theorem State.modEngine_sec (s : State) (e : Nat) (f : Engine → Engine) : (s.modEngine e f).sec = s.sec := rfl
@[simp] theorem State.modEngine_flt (s : State) (e : Nat) (f : Engine → Engine) : (s.modEngine e f).flt = s.flt := rfl
@[simp] theorem State.modEngine_evt (s : State) (e : Nat) (f : Engine → Engine) : (s.modEngine e f).evt = s.evt := rfl

/-! ### modPort -/

@[simp] theorem State.modPort_pending (s : State) (p : Nat) (f : Port → Port) : (s.modPort p f).pending = s.pending := rfl
@[simp] theorem State.modPort_freeCtr (s : State) (p : Nat) (f : Port → Port) : (s.modPort p f).freeCtr = s.freeCtr := rfl
@[simp] theorem State.modPort_out (s : State) (p : Nat) (f : Port → Port) : (s.modPort p f).out = s.out := rfl
@[simp] theorem State.modPort_mem (s : State) (p : Nat) (f : Port → Port) : (s.modPort p f).mem = s.mem := rfl
@[simp] theorem State.modPort_unspec (s : State) (p : Nat) (f : Port → Port) : (s.modPort p f).unspec = s.unspec := rfl
@[simp] theorem State.modPort_poison (s : State) (p : Nat) (f : Port → Port) : (s.modPort p f).poison = s.poison := rfl
@[simp] theorem State.modPort_ops (s : State) (p : Nat) (f : Port → Port) : (s.modPort p f).ops = s.ops := rfl
@[simp] theorem State.modPort_upsets (s : State) (p : Nat) (f : Port → Port) : (s.modPort p f).upsets = s.upsets := rfl
@[simp] theorem State.modPort_fars (s : State) (p : Nat) (f : Port → Port) : (s.modPort p f).fars = s.fars := rfl
@[simp] theorem State.modPort_farBuf (s : State) (p : Nat) (f : Port → Port) : (s.modPort p f).farBuf = s.farBuf := rfl
@[simp] theorem State.modPort_time (s : State) (p : Nat) (f : Port → Port) : (s.modPort p f).time = s.time := rfl
@[simp] theorem State.modPort_timeHi (s : State) (p : Nat) (f : Port → Port) : (s.modPort p f).timeHi = s.timeHi := rfl
@[simp] theorem State.modPort_streams (s : State) (p : Nat) (f : Port → Port) : (s.modPort p f).streams = s.streams := rfl
@[simp] theorem State.modPort_sregs (s : State) (p : Nat) (f : Port → Port) : (s.modPort p f).sregs = s.sregs := rfl
@[simp] theorem State.modPort_ctxs (s : State) (p : Nat) (f : Port → Port) : (s.modPort p f).ctxs = s.ctxs := rfl
@[simp] theorem State.modPort_mis (s : State) (p : Nat) (f : Port → Port) : (s.modPort p f).mis = s.mis := rfl
@[simp] theorem State.modPort_merge (s : State) (p : Nat) (f : Port → Port) : (s.modPort p f).merge = s.merge := rfl
@[simp] theorem State.modPort_cores (s : State) (p : Nat) (f : Port → Port) : (s.modPort p f).cores = s.cores := rfl
@[simp] theorem State.modPort_clusters (s : State) (p : Nat) (f : Port → Port) : (s.modPort p f).clusters = s.clusters := rfl
@[simp] theorem State.modPort_devRound (s : State) (p : Nat) (f : Port → Port) : (s.modPort p f).devRound = s.devRound := rfl
@[simp] theorem State.modPort_vaults (s : State) (p : Nat) (f : Port → Port) : (s.modPort p f).vaults = s.vaults := rfl
@[simp] theorem State.modPort_repairs (s : State) (p : Nat) (f : Port → Port) : (s.modPort p f).repairs = s.repairs := rfl
@[simp] theorem State.modPort_groups (s : State) (p : Nat) (f : Port → Port) : (s.modPort p f).groups = s.groups := rfl
@[simp] theorem State.modPort_pools (s : State) (p : Nat) (f : Port → Port) : (s.modPort p f).pools = s.pools := rfl
@[simp] theorem State.modPort_engines (s : State) (p : Nat) (f : Port → Port) : (s.modPort p f).engines = s.engines := rfl
@[simp] theorem State.modPort_dev (s : State) (p : Nat) (f : Port → Port) : (s.modPort p f).dev = s.dev := rfl
@[simp] theorem State.modPort_fab (s : State) (p : Nat) (f : Port → Port) : (s.modPort p f).fab = s.fab := rfl
@[simp] theorem State.modPort_weir (s : State) (p : Nat) (f : Port → Port) : (s.modPort p f).weir = s.weir := rfl
@[simp] theorem State.modPort_hif (s : State) (p : Nat) (f : Port → Port) : (s.modPort p f).hif = s.hif := rfl
@[simp] theorem State.modPort_pins (s : State) (p : Nat) (f : Port → Port) : (s.modPort p f).pins = s.pins := rfl
@[simp] theorem State.modPort_boot (s : State) (p : Nat) (f : Port → Port) : (s.modPort p f).boot = s.boot := rfl
@[simp] theorem State.modPort_sec (s : State) (p : Nat) (f : Port → Port) : (s.modPort p f).sec = s.sec := rfl
@[simp] theorem State.modPort_flt (s : State) (p : Nat) (f : Port → Port) : (s.modPort p f).flt = s.flt := rfl
@[simp] theorem State.modPort_evt (s : State) (p : Nat) (f : Port → Port) : (s.modPort p f).evt = s.evt := rfl

/-! ### modChan -/

@[simp] theorem State.modChan_pending (s : State) (d : Nat) (f : Chan → Chan) : (s.modChan d f).pending = s.pending := rfl
@[simp] theorem State.modChan_freeCtr (s : State) (d : Nat) (f : Chan → Chan) : (s.modChan d f).freeCtr = s.freeCtr := rfl
@[simp] theorem State.modChan_out (s : State) (d : Nat) (f : Chan → Chan) : (s.modChan d f).out = s.out := rfl
@[simp] theorem State.modChan_mem (s : State) (d : Nat) (f : Chan → Chan) : (s.modChan d f).mem = s.mem := rfl
@[simp] theorem State.modChan_unspec (s : State) (d : Nat) (f : Chan → Chan) : (s.modChan d f).unspec = s.unspec := rfl
@[simp] theorem State.modChan_poison (s : State) (d : Nat) (f : Chan → Chan) : (s.modChan d f).poison = s.poison := rfl
@[simp] theorem State.modChan_ops (s : State) (d : Nat) (f : Chan → Chan) : (s.modChan d f).ops = s.ops := rfl
@[simp] theorem State.modChan_upsets (s : State) (d : Nat) (f : Chan → Chan) : (s.modChan d f).upsets = s.upsets := rfl
@[simp] theorem State.modChan_fars (s : State) (d : Nat) (f : Chan → Chan) : (s.modChan d f).fars = s.fars := rfl
@[simp] theorem State.modChan_farBuf (s : State) (d : Nat) (f : Chan → Chan) : (s.modChan d f).farBuf = s.farBuf := rfl
@[simp] theorem State.modChan_time (s : State) (d : Nat) (f : Chan → Chan) : (s.modChan d f).time = s.time := rfl
@[simp] theorem State.modChan_timeHi (s : State) (d : Nat) (f : Chan → Chan) : (s.modChan d f).timeHi = s.timeHi := rfl
@[simp] theorem State.modChan_streams (s : State) (d : Nat) (f : Chan → Chan) : (s.modChan d f).streams = s.streams := rfl
@[simp] theorem State.modChan_sregs (s : State) (d : Nat) (f : Chan → Chan) : (s.modChan d f).sregs = s.sregs := rfl
@[simp] theorem State.modChan_ctxs (s : State) (d : Nat) (f : Chan → Chan) : (s.modChan d f).ctxs = s.ctxs := rfl
@[simp] theorem State.modChan_mis (s : State) (d : Nat) (f : Chan → Chan) : (s.modChan d f).mis = s.mis := rfl
@[simp] theorem State.modChan_merge (s : State) (d : Nat) (f : Chan → Chan) : (s.modChan d f).merge = s.merge := rfl
@[simp] theorem State.modChan_cores (s : State) (d : Nat) (f : Chan → Chan) : (s.modChan d f).cores = s.cores := rfl
@[simp] theorem State.modChan_clusters (s : State) (d : Nat) (f : Chan → Chan) : (s.modChan d f).clusters = s.clusters := rfl
@[simp] theorem State.modChan_devRound (s : State) (d : Nat) (f : Chan → Chan) : (s.modChan d f).devRound = s.devRound := rfl
@[simp] theorem State.modChan_vaults (s : State) (d : Nat) (f : Chan → Chan) : (s.modChan d f).vaults = s.vaults := rfl
@[simp] theorem State.modChan_repairs (s : State) (d : Nat) (f : Chan → Chan) : (s.modChan d f).repairs = s.repairs := rfl
@[simp] theorem State.modChan_groups (s : State) (d : Nat) (f : Chan → Chan) : (s.modChan d f).groups = s.groups := rfl
@[simp] theorem State.modChan_pools (s : State) (d : Nat) (f : Chan → Chan) : (s.modChan d f).pools = s.pools := rfl
@[simp] theorem State.modChan_engines (s : State) (d : Nat) (f : Chan → Chan) : (s.modChan d f).engines = s.engines := rfl
@[simp] theorem State.modChan_ports (s : State) (d : Nat) (f : Chan → Chan) : (s.modChan d f).ports = s.ports := rfl
@[simp] theorem State.modChan_dev (s : State) (d : Nat) (f : Chan → Chan) : (s.modChan d f).dev = s.dev := rfl
@[simp] theorem State.modChan_fab (s : State) (d : Nat) (f : Chan → Chan) : (s.modChan d f).fab = s.fab := rfl
@[simp] theorem State.modChan_weir (s : State) (d : Nat) (f : Chan → Chan) : (s.modChan d f).weir = s.weir := rfl
@[simp] theorem State.modChan_pins (s : State) (d : Nat) (f : Chan → Chan) : (s.modChan d f).pins = s.pins := rfl
@[simp] theorem State.modChan_boot (s : State) (d : Nat) (f : Chan → Chan) : (s.modChan d f).boot = s.boot := rfl
@[simp] theorem State.modChan_sec (s : State) (d : Nat) (f : Chan → Chan) : (s.modChan d f).sec = s.sec := rfl
@[simp] theorem State.modChan_flt (s : State) (d : Nat) (f : Chan → Chan) : (s.modChan d f).flt = s.flt := rfl
@[simp] theorem State.modChan_evt (s : State) (d : Nat) (f : Chan → Chan) : (s.modChan d f).evt = s.evt := rfl

/-! ### modSensor -/

@[simp] theorem State.modSensor_pending (s : State) (x : Nat) (f : Sensor → Sensor) : (s.modSensor x f).pending = s.pending := rfl
@[simp] theorem State.modSensor_freeCtr (s : State) (x : Nat) (f : Sensor → Sensor) : (s.modSensor x f).freeCtr = s.freeCtr := rfl
@[simp] theorem State.modSensor_out (s : State) (x : Nat) (f : Sensor → Sensor) : (s.modSensor x f).out = s.out := rfl
@[simp] theorem State.modSensor_mem (s : State) (x : Nat) (f : Sensor → Sensor) : (s.modSensor x f).mem = s.mem := rfl
@[simp] theorem State.modSensor_unspec (s : State) (x : Nat) (f : Sensor → Sensor) : (s.modSensor x f).unspec = s.unspec := rfl
@[simp] theorem State.modSensor_poison (s : State) (x : Nat) (f : Sensor → Sensor) : (s.modSensor x f).poison = s.poison := rfl
@[simp] theorem State.modSensor_ops (s : State) (x : Nat) (f : Sensor → Sensor) : (s.modSensor x f).ops = s.ops := rfl
@[simp] theorem State.modSensor_upsets (s : State) (x : Nat) (f : Sensor → Sensor) : (s.modSensor x f).upsets = s.upsets := rfl
@[simp] theorem State.modSensor_fars (s : State) (x : Nat) (f : Sensor → Sensor) : (s.modSensor x f).fars = s.fars := rfl
@[simp] theorem State.modSensor_farBuf (s : State) (x : Nat) (f : Sensor → Sensor) : (s.modSensor x f).farBuf = s.farBuf := rfl
@[simp] theorem State.modSensor_time (s : State) (x : Nat) (f : Sensor → Sensor) : (s.modSensor x f).time = s.time := rfl
@[simp] theorem State.modSensor_timeHi (s : State) (x : Nat) (f : Sensor → Sensor) : (s.modSensor x f).timeHi = s.timeHi := rfl
@[simp] theorem State.modSensor_streams (s : State) (x : Nat) (f : Sensor → Sensor) : (s.modSensor x f).streams = s.streams := rfl
@[simp] theorem State.modSensor_sregs (s : State) (x : Nat) (f : Sensor → Sensor) : (s.modSensor x f).sregs = s.sregs := rfl
@[simp] theorem State.modSensor_ctxs (s : State) (x : Nat) (f : Sensor → Sensor) : (s.modSensor x f).ctxs = s.ctxs := rfl
@[simp] theorem State.modSensor_mis (s : State) (x : Nat) (f : Sensor → Sensor) : (s.modSensor x f).mis = s.mis := rfl
@[simp] theorem State.modSensor_merge (s : State) (x : Nat) (f : Sensor → Sensor) : (s.modSensor x f).merge = s.merge := rfl
@[simp] theorem State.modSensor_cores (s : State) (x : Nat) (f : Sensor → Sensor) : (s.modSensor x f).cores = s.cores := rfl
@[simp] theorem State.modSensor_clusters (s : State) (x : Nat) (f : Sensor → Sensor) : (s.modSensor x f).clusters = s.clusters := rfl
@[simp] theorem State.modSensor_devRound (s : State) (x : Nat) (f : Sensor → Sensor) : (s.modSensor x f).devRound = s.devRound := rfl
@[simp] theorem State.modSensor_vaults (s : State) (x : Nat) (f : Sensor → Sensor) : (s.modSensor x f).vaults = s.vaults := rfl
@[simp] theorem State.modSensor_repairs (s : State) (x : Nat) (f : Sensor → Sensor) : (s.modSensor x f).repairs = s.repairs := rfl
@[simp] theorem State.modSensor_groups (s : State) (x : Nat) (f : Sensor → Sensor) : (s.modSensor x f).groups = s.groups := rfl
@[simp] theorem State.modSensor_pools (s : State) (x : Nat) (f : Sensor → Sensor) : (s.modSensor x f).pools = s.pools := rfl
@[simp] theorem State.modSensor_engines (s : State) (x : Nat) (f : Sensor → Sensor) : (s.modSensor x f).engines = s.engines := rfl
@[simp] theorem State.modSensor_ports (s : State) (x : Nat) (f : Sensor → Sensor) : (s.modSensor x f).ports = s.ports := rfl
@[simp] theorem State.modSensor_dev (s : State) (x : Nat) (f : Sensor → Sensor) : (s.modSensor x f).dev = s.dev := rfl
@[simp] theorem State.modSensor_fab (s : State) (x : Nat) (f : Sensor → Sensor) : (s.modSensor x f).fab = s.fab := rfl
@[simp] theorem State.modSensor_hif (s : State) (x : Nat) (f : Sensor → Sensor) : (s.modSensor x f).hif = s.hif := rfl
@[simp] theorem State.modSensor_pins (s : State) (x : Nat) (f : Sensor → Sensor) : (s.modSensor x f).pins = s.pins := rfl
@[simp] theorem State.modSensor_boot (s : State) (x : Nat) (f : Sensor → Sensor) : (s.modSensor x f).boot = s.boot := rfl
@[simp] theorem State.modSensor_sec (s : State) (x : Nat) (f : Sensor → Sensor) : (s.modSensor x f).sec = s.sec := rfl
@[simp] theorem State.modSensor_flt (s : State) (x : Nat) (f : Sensor → Sensor) : (s.modSensor x f).flt = s.flt := rfl
@[simp] theorem State.modSensor_evt (s : State) (x : Nat) (f : Sensor → Sensor) : (s.modSensor x f).evt = s.evt := rfl

/-! ### takeFree -/

@[simp] theorem State.takeFree_pending (s : State) : (s.takeFree).pending = s.pending := rfl
@[simp] theorem State.takeFree_out (s : State) : (s.takeFree).out = s.out := rfl
@[simp] theorem State.takeFree_mem (s : State) : (s.takeFree).mem = s.mem := rfl
@[simp] theorem State.takeFree_unspec (s : State) : (s.takeFree).unspec = s.unspec := rfl
@[simp] theorem State.takeFree_poison (s : State) : (s.takeFree).poison = s.poison := rfl
@[simp] theorem State.takeFree_ops (s : State) : (s.takeFree).ops = s.ops := rfl
@[simp] theorem State.takeFree_upsets (s : State) : (s.takeFree).upsets = s.upsets := rfl
@[simp] theorem State.takeFree_fars (s : State) : (s.takeFree).fars = s.fars := rfl
@[simp] theorem State.takeFree_farBuf (s : State) : (s.takeFree).farBuf = s.farBuf := rfl
@[simp] theorem State.takeFree_time (s : State) : (s.takeFree).time = s.time := rfl
@[simp] theorem State.takeFree_timeHi (s : State) : (s.takeFree).timeHi = s.timeHi := rfl
@[simp] theorem State.takeFree_streams (s : State) : (s.takeFree).streams = s.streams := rfl
@[simp] theorem State.takeFree_sregs (s : State) : (s.takeFree).sregs = s.sregs := rfl
@[simp] theorem State.takeFree_ctxs (s : State) : (s.takeFree).ctxs = s.ctxs := rfl
@[simp] theorem State.takeFree_mis (s : State) : (s.takeFree).mis = s.mis := rfl
@[simp] theorem State.takeFree_merge (s : State) : (s.takeFree).merge = s.merge := rfl
@[simp] theorem State.takeFree_cores (s : State) : (s.takeFree).cores = s.cores := rfl
@[simp] theorem State.takeFree_clusters (s : State) : (s.takeFree).clusters = s.clusters := rfl
@[simp] theorem State.takeFree_devRound (s : State) : (s.takeFree).devRound = s.devRound := rfl
@[simp] theorem State.takeFree_vaults (s : State) : (s.takeFree).vaults = s.vaults := rfl
@[simp] theorem State.takeFree_repairs (s : State) : (s.takeFree).repairs = s.repairs := rfl
@[simp] theorem State.takeFree_groups (s : State) : (s.takeFree).groups = s.groups := rfl
@[simp] theorem State.takeFree_pools (s : State) : (s.takeFree).pools = s.pools := rfl
@[simp] theorem State.takeFree_engines (s : State) : (s.takeFree).engines = s.engines := rfl
@[simp] theorem State.takeFree_ports (s : State) : (s.takeFree).ports = s.ports := rfl
@[simp] theorem State.takeFree_dev (s : State) : (s.takeFree).dev = s.dev := rfl
@[simp] theorem State.takeFree_fab (s : State) : (s.takeFree).fab = s.fab := rfl
@[simp] theorem State.takeFree_weir (s : State) : (s.takeFree).weir = s.weir := rfl
@[simp] theorem State.takeFree_hif (s : State) : (s.takeFree).hif = s.hif := rfl
@[simp] theorem State.takeFree_pins (s : State) : (s.takeFree).pins = s.pins := rfl
@[simp] theorem State.takeFree_boot (s : State) : (s.takeFree).boot = s.boot := rfl
@[simp] theorem State.takeFree_sec (s : State) : (s.takeFree).sec = s.sec := rfl
@[simp] theorem State.takeFree_flt (s : State) : (s.takeFree).flt = s.flt := rfl
@[simp] theorem State.takeFree_evt (s : State) : (s.takeFree).evt = s.evt := rfl

/-! ### reply -/

@[simp] theorem State.reply_pending (s : State) (r : Reply) : (s.reply r).pending = s.pending := rfl
@[simp] theorem State.reply_freeCtr (s : State) (r : Reply) : (s.reply r).freeCtr = s.freeCtr := rfl
@[simp] theorem State.reply_mem (s : State) (r : Reply) : (s.reply r).mem = s.mem := rfl
@[simp] theorem State.reply_unspec (s : State) (r : Reply) : (s.reply r).unspec = s.unspec := rfl
@[simp] theorem State.reply_poison (s : State) (r : Reply) : (s.reply r).poison = s.poison := rfl
@[simp] theorem State.reply_ops (s : State) (r : Reply) : (s.reply r).ops = s.ops := rfl
@[simp] theorem State.reply_upsets (s : State) (r : Reply) : (s.reply r).upsets = s.upsets := rfl
@[simp] theorem State.reply_fars (s : State) (r : Reply) : (s.reply r).fars = s.fars := rfl
@[simp] theorem State.reply_farBuf (s : State) (r : Reply) : (s.reply r).farBuf = s.farBuf := rfl
@[simp] theorem State.reply_time (s : State) (r : Reply) : (s.reply r).time = s.time := rfl
@[simp] theorem State.reply_timeHi (s : State) (r : Reply) : (s.reply r).timeHi = s.timeHi := rfl
@[simp] theorem State.reply_streams (s : State) (r : Reply) : (s.reply r).streams = s.streams := rfl
@[simp] theorem State.reply_sregs (s : State) (r : Reply) : (s.reply r).sregs = s.sregs := rfl
@[simp] theorem State.reply_ctxs (s : State) (r : Reply) : (s.reply r).ctxs = s.ctxs := rfl
@[simp] theorem State.reply_mis (s : State) (r : Reply) : (s.reply r).mis = s.mis := rfl
@[simp] theorem State.reply_merge (s : State) (r : Reply) : (s.reply r).merge = s.merge := rfl
@[simp] theorem State.reply_cores (s : State) (r : Reply) : (s.reply r).cores = s.cores := rfl
@[simp] theorem State.reply_clusters (s : State) (r : Reply) : (s.reply r).clusters = s.clusters := rfl
@[simp] theorem State.reply_devRound (s : State) (r : Reply) : (s.reply r).devRound = s.devRound := rfl
@[simp] theorem State.reply_vaults (s : State) (r : Reply) : (s.reply r).vaults = s.vaults := rfl
@[simp] theorem State.reply_repairs (s : State) (r : Reply) : (s.reply r).repairs = s.repairs := rfl
@[simp] theorem State.reply_groups (s : State) (r : Reply) : (s.reply r).groups = s.groups := rfl
@[simp] theorem State.reply_pools (s : State) (r : Reply) : (s.reply r).pools = s.pools := rfl
@[simp] theorem State.reply_engines (s : State) (r : Reply) : (s.reply r).engines = s.engines := rfl
@[simp] theorem State.reply_ports (s : State) (r : Reply) : (s.reply r).ports = s.ports := rfl
@[simp] theorem State.reply_dev (s : State) (r : Reply) : (s.reply r).dev = s.dev := rfl
@[simp] theorem State.reply_fab (s : State) (r : Reply) : (s.reply r).fab = s.fab := rfl
@[simp] theorem State.reply_weir (s : State) (r : Reply) : (s.reply r).weir = s.weir := rfl
@[simp] theorem State.reply_hif (s : State) (r : Reply) : (s.reply r).hif = s.hif := rfl
@[simp] theorem State.reply_pins (s : State) (r : Reply) : (s.reply r).pins = s.pins := rfl
@[simp] theorem State.reply_boot (s : State) (r : Reply) : (s.reply r).boot = s.boot := rfl
@[simp] theorem State.reply_sec (s : State) (r : Reply) : (s.reply r).sec = s.sec := rfl
@[simp] theorem State.reply_flt (s : State) (r : Reply) : (s.reply r).flt = s.flt := rfl
@[simp] theorem State.reply_evt (s : State) (r : Reply) : (s.reply r).evt = s.evt := rfl

/-! ### send -/

@[simp] theorem State.send_pending (s : State) (m : Sent) : (s.send m).pending = s.pending := rfl
@[simp] theorem State.send_freeCtr (s : State) (m : Sent) : (s.send m).freeCtr = s.freeCtr := rfl
@[simp] theorem State.send_mem (s : State) (m : Sent) : (s.send m).mem = s.mem := rfl
@[simp] theorem State.send_unspec (s : State) (m : Sent) : (s.send m).unspec = s.unspec := rfl
@[simp] theorem State.send_poison (s : State) (m : Sent) : (s.send m).poison = s.poison := rfl
@[simp] theorem State.send_ops (s : State) (m : Sent) : (s.send m).ops = s.ops := rfl
@[simp] theorem State.send_upsets (s : State) (m : Sent) : (s.send m).upsets = s.upsets := rfl
@[simp] theorem State.send_fars (s : State) (m : Sent) : (s.send m).fars = s.fars := rfl
@[simp] theorem State.send_farBuf (s : State) (m : Sent) : (s.send m).farBuf = s.farBuf := rfl
@[simp] theorem State.send_time (s : State) (m : Sent) : (s.send m).time = s.time := rfl
@[simp] theorem State.send_timeHi (s : State) (m : Sent) : (s.send m).timeHi = s.timeHi := rfl
@[simp] theorem State.send_streams (s : State) (m : Sent) : (s.send m).streams = s.streams := rfl
@[simp] theorem State.send_sregs (s : State) (m : Sent) : (s.send m).sregs = s.sregs := rfl
@[simp] theorem State.send_ctxs (s : State) (m : Sent) : (s.send m).ctxs = s.ctxs := rfl
@[simp] theorem State.send_mis (s : State) (m : Sent) : (s.send m).mis = s.mis := rfl
@[simp] theorem State.send_merge (s : State) (m : Sent) : (s.send m).merge = s.merge := rfl
@[simp] theorem State.send_cores (s : State) (m : Sent) : (s.send m).cores = s.cores := rfl
@[simp] theorem State.send_clusters (s : State) (m : Sent) : (s.send m).clusters = s.clusters := rfl
@[simp] theorem State.send_devRound (s : State) (m : Sent) : (s.send m).devRound = s.devRound := rfl
@[simp] theorem State.send_vaults (s : State) (m : Sent) : (s.send m).vaults = s.vaults := rfl
@[simp] theorem State.send_repairs (s : State) (m : Sent) : (s.send m).repairs = s.repairs := rfl
@[simp] theorem State.send_groups (s : State) (m : Sent) : (s.send m).groups = s.groups := rfl
@[simp] theorem State.send_pools (s : State) (m : Sent) : (s.send m).pools = s.pools := rfl
@[simp] theorem State.send_engines (s : State) (m : Sent) : (s.send m).engines = s.engines := rfl
@[simp] theorem State.send_ports (s : State) (m : Sent) : (s.send m).ports = s.ports := rfl
@[simp] theorem State.send_dev (s : State) (m : Sent) : (s.send m).dev = s.dev := rfl
@[simp] theorem State.send_fab (s : State) (m : Sent) : (s.send m).fab = s.fab := rfl
@[simp] theorem State.send_weir (s : State) (m : Sent) : (s.send m).weir = s.weir := rfl
@[simp] theorem State.send_hif (s : State) (m : Sent) : (s.send m).hif = s.hif := rfl
@[simp] theorem State.send_pins (s : State) (m : Sent) : (s.send m).pins = s.pins := rfl
@[simp] theorem State.send_boot (s : State) (m : Sent) : (s.send m).boot = s.boot := rfl
@[simp] theorem State.send_sec (s : State) (m : Sent) : (s.send m).sec = s.sec := rfl
@[simp] theorem State.send_flt (s : State) (m : Sent) : (s.send m).flt = s.flt := rfl
@[simp] theorem State.send_evt (s : State) (m : Sent) : (s.send m).evt = s.evt := rfl

/-! ### setPoison -/

@[simp] theorem State.setPoison_pending (s : State) (ln : Nat) (p : Bool) : (s.setPoison ln p).pending = s.pending := rfl
@[simp] theorem State.setPoison_freeCtr (s : State) (ln : Nat) (p : Bool) : (s.setPoison ln p).freeCtr = s.freeCtr := rfl
@[simp] theorem State.setPoison_out (s : State) (ln : Nat) (p : Bool) : (s.setPoison ln p).out = s.out := rfl
@[simp] theorem State.setPoison_mem (s : State) (ln : Nat) (p : Bool) : (s.setPoison ln p).mem = s.mem := rfl
@[simp] theorem State.setPoison_unspec (s : State) (ln : Nat) (p : Bool) : (s.setPoison ln p).unspec = s.unspec := rfl
@[simp] theorem State.setPoison_ops (s : State) (ln : Nat) (p : Bool) : (s.setPoison ln p).ops = s.ops := rfl
@[simp] theorem State.setPoison_upsets (s : State) (ln : Nat) (p : Bool) : (s.setPoison ln p).upsets = s.upsets := rfl
@[simp] theorem State.setPoison_fars (s : State) (ln : Nat) (p : Bool) : (s.setPoison ln p).fars = s.fars := rfl
@[simp] theorem State.setPoison_farBuf (s : State) (ln : Nat) (p : Bool) : (s.setPoison ln p).farBuf = s.farBuf := rfl
@[simp] theorem State.setPoison_time (s : State) (ln : Nat) (p : Bool) : (s.setPoison ln p).time = s.time := rfl
@[simp] theorem State.setPoison_timeHi (s : State) (ln : Nat) (p : Bool) : (s.setPoison ln p).timeHi = s.timeHi := rfl
@[simp] theorem State.setPoison_streams (s : State) (ln : Nat) (p : Bool) : (s.setPoison ln p).streams = s.streams := rfl
@[simp] theorem State.setPoison_sregs (s : State) (ln : Nat) (p : Bool) : (s.setPoison ln p).sregs = s.sregs := rfl
@[simp] theorem State.setPoison_ctxs (s : State) (ln : Nat) (p : Bool) : (s.setPoison ln p).ctxs = s.ctxs := rfl
@[simp] theorem State.setPoison_mis (s : State) (ln : Nat) (p : Bool) : (s.setPoison ln p).mis = s.mis := rfl
@[simp] theorem State.setPoison_merge (s : State) (ln : Nat) (p : Bool) : (s.setPoison ln p).merge = s.merge := rfl
@[simp] theorem State.setPoison_cores (s : State) (ln : Nat) (p : Bool) : (s.setPoison ln p).cores = s.cores := rfl
@[simp] theorem State.setPoison_clusters (s : State) (ln : Nat) (p : Bool) : (s.setPoison ln p).clusters = s.clusters := rfl
@[simp] theorem State.setPoison_devRound (s : State) (ln : Nat) (p : Bool) : (s.setPoison ln p).devRound = s.devRound := rfl
@[simp] theorem State.setPoison_vaults (s : State) (ln : Nat) (p : Bool) : (s.setPoison ln p).vaults = s.vaults := rfl
@[simp] theorem State.setPoison_repairs (s : State) (ln : Nat) (p : Bool) : (s.setPoison ln p).repairs = s.repairs := rfl
@[simp] theorem State.setPoison_groups (s : State) (ln : Nat) (p : Bool) : (s.setPoison ln p).groups = s.groups := rfl
@[simp] theorem State.setPoison_pools (s : State) (ln : Nat) (p : Bool) : (s.setPoison ln p).pools = s.pools := rfl
@[simp] theorem State.setPoison_engines (s : State) (ln : Nat) (p : Bool) : (s.setPoison ln p).engines = s.engines := rfl
@[simp] theorem State.setPoison_ports (s : State) (ln : Nat) (p : Bool) : (s.setPoison ln p).ports = s.ports := rfl
@[simp] theorem State.setPoison_dev (s : State) (ln : Nat) (p : Bool) : (s.setPoison ln p).dev = s.dev := rfl
@[simp] theorem State.setPoison_fab (s : State) (ln : Nat) (p : Bool) : (s.setPoison ln p).fab = s.fab := rfl
@[simp] theorem State.setPoison_weir (s : State) (ln : Nat) (p : Bool) : (s.setPoison ln p).weir = s.weir := rfl
@[simp] theorem State.setPoison_hif (s : State) (ln : Nat) (p : Bool) : (s.setPoison ln p).hif = s.hif := rfl
@[simp] theorem State.setPoison_pins (s : State) (ln : Nat) (p : Bool) : (s.setPoison ln p).pins = s.pins := rfl
@[simp] theorem State.setPoison_boot (s : State) (ln : Nat) (p : Bool) : (s.setPoison ln p).boot = s.boot := rfl
@[simp] theorem State.setPoison_sec (s : State) (ln : Nat) (p : Bool) : (s.setPoison ln p).sec = s.sec := rfl
@[simp] theorem State.setPoison_flt (s : State) (ln : Nat) (p : Bool) : (s.setPoison ln p).flt = s.flt := rfl
@[simp] theorem State.setPoison_evt (s : State) (ln : Nat) (p : Bool) : (s.setPoison ln p).evt = s.evt := rfl

/-! ### putBytes -/

@[simp] theorem State.putBytes_pending (s : State) (a : Nat) (bs : List Byte) : (s.putBytes a bs).pending = s.pending := rfl
@[simp] theorem State.putBytes_freeCtr (s : State) (a : Nat) (bs : List Byte) : (s.putBytes a bs).freeCtr = s.freeCtr := rfl
@[simp] theorem State.putBytes_out (s : State) (a : Nat) (bs : List Byte) : (s.putBytes a bs).out = s.out := rfl
@[simp] theorem State.putBytes_unspec (s : State) (a : Nat) (bs : List Byte) : (s.putBytes a bs).unspec = s.unspec := rfl
@[simp] theorem State.putBytes_poison (s : State) (a : Nat) (bs : List Byte) : (s.putBytes a bs).poison = s.poison := rfl
@[simp] theorem State.putBytes_ops (s : State) (a : Nat) (bs : List Byte) : (s.putBytes a bs).ops = s.ops := rfl
@[simp] theorem State.putBytes_upsets (s : State) (a : Nat) (bs : List Byte) : (s.putBytes a bs).upsets = s.upsets := rfl
@[simp] theorem State.putBytes_fars (s : State) (a : Nat) (bs : List Byte) : (s.putBytes a bs).fars = s.fars := rfl
@[simp] theorem State.putBytes_farBuf (s : State) (a : Nat) (bs : List Byte) : (s.putBytes a bs).farBuf = s.farBuf := rfl
@[simp] theorem State.putBytes_time (s : State) (a : Nat) (bs : List Byte) : (s.putBytes a bs).time = s.time := rfl
@[simp] theorem State.putBytes_timeHi (s : State) (a : Nat) (bs : List Byte) : (s.putBytes a bs).timeHi = s.timeHi := rfl
@[simp] theorem State.putBytes_streams (s : State) (a : Nat) (bs : List Byte) : (s.putBytes a bs).streams = s.streams := rfl
@[simp] theorem State.putBytes_sregs (s : State) (a : Nat) (bs : List Byte) : (s.putBytes a bs).sregs = s.sregs := rfl
@[simp] theorem State.putBytes_ctxs (s : State) (a : Nat) (bs : List Byte) : (s.putBytes a bs).ctxs = s.ctxs := rfl
@[simp] theorem State.putBytes_mis (s : State) (a : Nat) (bs : List Byte) : (s.putBytes a bs).mis = s.mis := rfl
@[simp] theorem State.putBytes_merge (s : State) (a : Nat) (bs : List Byte) : (s.putBytes a bs).merge = s.merge := rfl
@[simp] theorem State.putBytes_cores (s : State) (a : Nat) (bs : List Byte) : (s.putBytes a bs).cores = s.cores := rfl
@[simp] theorem State.putBytes_clusters (s : State) (a : Nat) (bs : List Byte) : (s.putBytes a bs).clusters = s.clusters := rfl
@[simp] theorem State.putBytes_devRound (s : State) (a : Nat) (bs : List Byte) : (s.putBytes a bs).devRound = s.devRound := rfl
@[simp] theorem State.putBytes_vaults (s : State) (a : Nat) (bs : List Byte) : (s.putBytes a bs).vaults = s.vaults := rfl
@[simp] theorem State.putBytes_repairs (s : State) (a : Nat) (bs : List Byte) : (s.putBytes a bs).repairs = s.repairs := rfl
@[simp] theorem State.putBytes_groups (s : State) (a : Nat) (bs : List Byte) : (s.putBytes a bs).groups = s.groups := rfl
@[simp] theorem State.putBytes_pools (s : State) (a : Nat) (bs : List Byte) : (s.putBytes a bs).pools = s.pools := rfl
@[simp] theorem State.putBytes_engines (s : State) (a : Nat) (bs : List Byte) : (s.putBytes a bs).engines = s.engines := rfl
@[simp] theorem State.putBytes_ports (s : State) (a : Nat) (bs : List Byte) : (s.putBytes a bs).ports = s.ports := rfl
@[simp] theorem State.putBytes_dev (s : State) (a : Nat) (bs : List Byte) : (s.putBytes a bs).dev = s.dev := rfl
@[simp] theorem State.putBytes_fab (s : State) (a : Nat) (bs : List Byte) : (s.putBytes a bs).fab = s.fab := rfl
@[simp] theorem State.putBytes_weir (s : State) (a : Nat) (bs : List Byte) : (s.putBytes a bs).weir = s.weir := rfl
@[simp] theorem State.putBytes_hif (s : State) (a : Nat) (bs : List Byte) : (s.putBytes a bs).hif = s.hif := rfl
@[simp] theorem State.putBytes_pins (s : State) (a : Nat) (bs : List Byte) : (s.putBytes a bs).pins = s.pins := rfl
@[simp] theorem State.putBytes_boot (s : State) (a : Nat) (bs : List Byte) : (s.putBytes a bs).boot = s.boot := rfl
@[simp] theorem State.putBytes_sec (s : State) (a : Nat) (bs : List Byte) : (s.putBytes a bs).sec = s.sec := rfl
@[simp] theorem State.putBytes_flt (s : State) (a : Nat) (bs : List Byte) : (s.putBytes a bs).flt = s.flt := rfl
@[simp] theorem State.putBytes_evt (s : State) (a : Nat) (bs : List Byte) : (s.putBytes a bs).evt = s.evt := rfl

/-! ### countQ, count, countDev: only the counters change -/

theorem State.countQ_frame (s : State) (ev : Nat) (at_ : At) (st : Option StreamId) (q n : Nat) :
    s.countQ ev at_ st q n = { s with evt := { s.evt with cnt := (s.countQ ev at_ st q n).evt.cnt, pend := (s.countQ ev at_ st q n).evt.pend } } := by
  unfold State.countQ
  split <;> rfl

@[simp] theorem State.countQ_pending (s : State) (ev : Nat) (at_ : At) (st : Option StreamId) (q n : Nat) :
    (s.countQ ev at_ st q n).pending = s.pending := by rw [State.countQ_frame]
@[simp] theorem State.countQ_freeCtr (s : State) (ev : Nat) (at_ : At) (st : Option StreamId) (q n : Nat) :
    (s.countQ ev at_ st q n).freeCtr = s.freeCtr := by rw [State.countQ_frame]
@[simp] theorem State.countQ_out (s : State) (ev : Nat) (at_ : At) (st : Option StreamId) (q n : Nat) :
    (s.countQ ev at_ st q n).out = s.out := by rw [State.countQ_frame]
@[simp] theorem State.countQ_mem (s : State) (ev : Nat) (at_ : At) (st : Option StreamId) (q n : Nat) :
    (s.countQ ev at_ st q n).mem = s.mem := by rw [State.countQ_frame]
@[simp] theorem State.countQ_unspec (s : State) (ev : Nat) (at_ : At) (st : Option StreamId) (q n : Nat) :
    (s.countQ ev at_ st q n).unspec = s.unspec := by rw [State.countQ_frame]
@[simp] theorem State.countQ_poison (s : State) (ev : Nat) (at_ : At) (st : Option StreamId) (q n : Nat) :
    (s.countQ ev at_ st q n).poison = s.poison := by rw [State.countQ_frame]
@[simp] theorem State.countQ_ops (s : State) (ev : Nat) (at_ : At) (st : Option StreamId) (q n : Nat) :
    (s.countQ ev at_ st q n).ops = s.ops := by rw [State.countQ_frame]
@[simp] theorem State.countQ_upsets (s : State) (ev : Nat) (at_ : At) (st : Option StreamId) (q n : Nat) :
    (s.countQ ev at_ st q n).upsets = s.upsets := by rw [State.countQ_frame]
@[simp] theorem State.countQ_fars (s : State) (ev : Nat) (at_ : At) (st : Option StreamId) (q n : Nat) :
    (s.countQ ev at_ st q n).fars = s.fars := by rw [State.countQ_frame]
@[simp] theorem State.countQ_farBuf (s : State) (ev : Nat) (at_ : At) (st : Option StreamId) (q n : Nat) :
    (s.countQ ev at_ st q n).farBuf = s.farBuf := by rw [State.countQ_frame]
@[simp] theorem State.countQ_time (s : State) (ev : Nat) (at_ : At) (st : Option StreamId) (q n : Nat) :
    (s.countQ ev at_ st q n).time = s.time := by rw [State.countQ_frame]
@[simp] theorem State.countQ_timeHi (s : State) (ev : Nat) (at_ : At) (st : Option StreamId) (q n : Nat) :
    (s.countQ ev at_ st q n).timeHi = s.timeHi := by rw [State.countQ_frame]
@[simp] theorem State.countQ_streams (s : State) (ev : Nat) (at_ : At) (st : Option StreamId) (q n : Nat) :
    (s.countQ ev at_ st q n).streams = s.streams := by rw [State.countQ_frame]
@[simp] theorem State.countQ_sregs (s : State) (ev : Nat) (at_ : At) (st : Option StreamId) (q n : Nat) :
    (s.countQ ev at_ st q n).sregs = s.sregs := by rw [State.countQ_frame]
@[simp] theorem State.countQ_ctxs (s : State) (ev : Nat) (at_ : At) (st : Option StreamId) (q n : Nat) :
    (s.countQ ev at_ st q n).ctxs = s.ctxs := by rw [State.countQ_frame]
@[simp] theorem State.countQ_mis (s : State) (ev : Nat) (at_ : At) (st : Option StreamId) (q n : Nat) :
    (s.countQ ev at_ st q n).mis = s.mis := by rw [State.countQ_frame]
@[simp] theorem State.countQ_merge (s : State) (ev : Nat) (at_ : At) (st : Option StreamId) (q n : Nat) :
    (s.countQ ev at_ st q n).merge = s.merge := by rw [State.countQ_frame]
@[simp] theorem State.countQ_cores (s : State) (ev : Nat) (at_ : At) (st : Option StreamId) (q n : Nat) :
    (s.countQ ev at_ st q n).cores = s.cores := by rw [State.countQ_frame]
@[simp] theorem State.countQ_clusters (s : State) (ev : Nat) (at_ : At) (st : Option StreamId) (q n : Nat) :
    (s.countQ ev at_ st q n).clusters = s.clusters := by rw [State.countQ_frame]
@[simp] theorem State.countQ_devRound (s : State) (ev : Nat) (at_ : At) (st : Option StreamId) (q n : Nat) :
    (s.countQ ev at_ st q n).devRound = s.devRound := by rw [State.countQ_frame]
@[simp] theorem State.countQ_vaults (s : State) (ev : Nat) (at_ : At) (st : Option StreamId) (q n : Nat) :
    (s.countQ ev at_ st q n).vaults = s.vaults := by rw [State.countQ_frame]
@[simp] theorem State.countQ_repairs (s : State) (ev : Nat) (at_ : At) (st : Option StreamId) (q n : Nat) :
    (s.countQ ev at_ st q n).repairs = s.repairs := by rw [State.countQ_frame]
@[simp] theorem State.countQ_groups (s : State) (ev : Nat) (at_ : At) (st : Option StreamId) (q n : Nat) :
    (s.countQ ev at_ st q n).groups = s.groups := by rw [State.countQ_frame]
@[simp] theorem State.countQ_pools (s : State) (ev : Nat) (at_ : At) (st : Option StreamId) (q n : Nat) :
    (s.countQ ev at_ st q n).pools = s.pools := by rw [State.countQ_frame]
@[simp] theorem State.countQ_engines (s : State) (ev : Nat) (at_ : At) (st : Option StreamId) (q n : Nat) :
    (s.countQ ev at_ st q n).engines = s.engines := by rw [State.countQ_frame]
@[simp] theorem State.countQ_ports (s : State) (ev : Nat) (at_ : At) (st : Option StreamId) (q n : Nat) :
    (s.countQ ev at_ st q n).ports = s.ports := by rw [State.countQ_frame]
@[simp] theorem State.countQ_dev (s : State) (ev : Nat) (at_ : At) (st : Option StreamId) (q n : Nat) :
    (s.countQ ev at_ st q n).dev = s.dev := by rw [State.countQ_frame]
@[simp] theorem State.countQ_fab (s : State) (ev : Nat) (at_ : At) (st : Option StreamId) (q n : Nat) :
    (s.countQ ev at_ st q n).fab = s.fab := by rw [State.countQ_frame]
@[simp] theorem State.countQ_weir (s : State) (ev : Nat) (at_ : At) (st : Option StreamId) (q n : Nat) :
    (s.countQ ev at_ st q n).weir = s.weir := by rw [State.countQ_frame]
@[simp] theorem State.countQ_hif (s : State) (ev : Nat) (at_ : At) (st : Option StreamId) (q n : Nat) :
    (s.countQ ev at_ st q n).hif = s.hif := by rw [State.countQ_frame]
@[simp] theorem State.countQ_pins (s : State) (ev : Nat) (at_ : At) (st : Option StreamId) (q n : Nat) :
    (s.countQ ev at_ st q n).pins = s.pins := by rw [State.countQ_frame]
@[simp] theorem State.countQ_boot (s : State) (ev : Nat) (at_ : At) (st : Option StreamId) (q n : Nat) :
    (s.countQ ev at_ st q n).boot = s.boot := by rw [State.countQ_frame]
@[simp] theorem State.countQ_sec (s : State) (ev : Nat) (at_ : At) (st : Option StreamId) (q n : Nat) :
    (s.countQ ev at_ st q n).sec = s.sec := by rw [State.countQ_frame]
@[simp] theorem State.countQ_flt (s : State) (ev : Nat) (at_ : At) (st : Option StreamId) (q n : Nat) :
    (s.countQ ev at_ st q n).flt = s.flt := by rw [State.countQ_frame]
@[simp] theorem State.count_pending (s : State) (ev : Nat) (at_ : At) (st : Option StreamId) (n : Nat) :
    (s.count ev at_ st n).pending = s.pending := State.countQ_pending s ev at_ st 0 n
@[simp] theorem State.count_freeCtr (s : State) (ev : Nat) (at_ : At) (st : Option StreamId) (n : Nat) :
    (s.count ev at_ st n).freeCtr = s.freeCtr := State.countQ_freeCtr s ev at_ st 0 n
@[simp] theorem State.count_out (s : State) (ev : Nat) (at_ : At) (st : Option StreamId) (n : Nat) :
    (s.count ev at_ st n).out = s.out := State.countQ_out s ev at_ st 0 n
@[simp] theorem State.count_mem (s : State) (ev : Nat) (at_ : At) (st : Option StreamId) (n : Nat) :
    (s.count ev at_ st n).mem = s.mem := State.countQ_mem s ev at_ st 0 n
@[simp] theorem State.count_unspec (s : State) (ev : Nat) (at_ : At) (st : Option StreamId) (n : Nat) :
    (s.count ev at_ st n).unspec = s.unspec := State.countQ_unspec s ev at_ st 0 n
@[simp] theorem State.count_poison (s : State) (ev : Nat) (at_ : At) (st : Option StreamId) (n : Nat) :
    (s.count ev at_ st n).poison = s.poison := State.countQ_poison s ev at_ st 0 n
@[simp] theorem State.count_ops (s : State) (ev : Nat) (at_ : At) (st : Option StreamId) (n : Nat) :
    (s.count ev at_ st n).ops = s.ops := State.countQ_ops s ev at_ st 0 n
@[simp] theorem State.count_upsets (s : State) (ev : Nat) (at_ : At) (st : Option StreamId) (n : Nat) :
    (s.count ev at_ st n).upsets = s.upsets := State.countQ_upsets s ev at_ st 0 n
@[simp] theorem State.count_fars (s : State) (ev : Nat) (at_ : At) (st : Option StreamId) (n : Nat) :
    (s.count ev at_ st n).fars = s.fars := State.countQ_fars s ev at_ st 0 n
@[simp] theorem State.count_farBuf (s : State) (ev : Nat) (at_ : At) (st : Option StreamId) (n : Nat) :
    (s.count ev at_ st n).farBuf = s.farBuf := State.countQ_farBuf s ev at_ st 0 n
@[simp] theorem State.count_time (s : State) (ev : Nat) (at_ : At) (st : Option StreamId) (n : Nat) :
    (s.count ev at_ st n).time = s.time := State.countQ_time s ev at_ st 0 n
@[simp] theorem State.count_timeHi (s : State) (ev : Nat) (at_ : At) (st : Option StreamId) (n : Nat) :
    (s.count ev at_ st n).timeHi = s.timeHi := State.countQ_timeHi s ev at_ st 0 n
@[simp] theorem State.count_streams (s : State) (ev : Nat) (at_ : At) (st : Option StreamId) (n : Nat) :
    (s.count ev at_ st n).streams = s.streams := State.countQ_streams s ev at_ st 0 n
@[simp] theorem State.count_sregs (s : State) (ev : Nat) (at_ : At) (st : Option StreamId) (n : Nat) :
    (s.count ev at_ st n).sregs = s.sregs := State.countQ_sregs s ev at_ st 0 n
@[simp] theorem State.count_ctxs (s : State) (ev : Nat) (at_ : At) (st : Option StreamId) (n : Nat) :
    (s.count ev at_ st n).ctxs = s.ctxs := State.countQ_ctxs s ev at_ st 0 n
@[simp] theorem State.count_mis (s : State) (ev : Nat) (at_ : At) (st : Option StreamId) (n : Nat) :
    (s.count ev at_ st n).mis = s.mis := State.countQ_mis s ev at_ st 0 n
@[simp] theorem State.count_merge (s : State) (ev : Nat) (at_ : At) (st : Option StreamId) (n : Nat) :
    (s.count ev at_ st n).merge = s.merge := State.countQ_merge s ev at_ st 0 n
@[simp] theorem State.count_cores (s : State) (ev : Nat) (at_ : At) (st : Option StreamId) (n : Nat) :
    (s.count ev at_ st n).cores = s.cores := State.countQ_cores s ev at_ st 0 n
@[simp] theorem State.count_clusters (s : State) (ev : Nat) (at_ : At) (st : Option StreamId) (n : Nat) :
    (s.count ev at_ st n).clusters = s.clusters := State.countQ_clusters s ev at_ st 0 n
@[simp] theorem State.count_devRound (s : State) (ev : Nat) (at_ : At) (st : Option StreamId) (n : Nat) :
    (s.count ev at_ st n).devRound = s.devRound := State.countQ_devRound s ev at_ st 0 n
@[simp] theorem State.count_vaults (s : State) (ev : Nat) (at_ : At) (st : Option StreamId) (n : Nat) :
    (s.count ev at_ st n).vaults = s.vaults := State.countQ_vaults s ev at_ st 0 n
@[simp] theorem State.count_repairs (s : State) (ev : Nat) (at_ : At) (st : Option StreamId) (n : Nat) :
    (s.count ev at_ st n).repairs = s.repairs := State.countQ_repairs s ev at_ st 0 n
@[simp] theorem State.count_groups (s : State) (ev : Nat) (at_ : At) (st : Option StreamId) (n : Nat) :
    (s.count ev at_ st n).groups = s.groups := State.countQ_groups s ev at_ st 0 n
@[simp] theorem State.count_pools (s : State) (ev : Nat) (at_ : At) (st : Option StreamId) (n : Nat) :
    (s.count ev at_ st n).pools = s.pools := State.countQ_pools s ev at_ st 0 n
@[simp] theorem State.count_engines (s : State) (ev : Nat) (at_ : At) (st : Option StreamId) (n : Nat) :
    (s.count ev at_ st n).engines = s.engines := State.countQ_engines s ev at_ st 0 n
@[simp] theorem State.count_ports (s : State) (ev : Nat) (at_ : At) (st : Option StreamId) (n : Nat) :
    (s.count ev at_ st n).ports = s.ports := State.countQ_ports s ev at_ st 0 n
@[simp] theorem State.count_dev (s : State) (ev : Nat) (at_ : At) (st : Option StreamId) (n : Nat) :
    (s.count ev at_ st n).dev = s.dev := State.countQ_dev s ev at_ st 0 n
@[simp] theorem State.count_fab (s : State) (ev : Nat) (at_ : At) (st : Option StreamId) (n : Nat) :
    (s.count ev at_ st n).fab = s.fab := State.countQ_fab s ev at_ st 0 n
@[simp] theorem State.count_weir (s : State) (ev : Nat) (at_ : At) (st : Option StreamId) (n : Nat) :
    (s.count ev at_ st n).weir = s.weir := State.countQ_weir s ev at_ st 0 n
@[simp] theorem State.count_hif (s : State) (ev : Nat) (at_ : At) (st : Option StreamId) (n : Nat) :
    (s.count ev at_ st n).hif = s.hif := State.countQ_hif s ev at_ st 0 n
@[simp] theorem State.count_pins (s : State) (ev : Nat) (at_ : At) (st : Option StreamId) (n : Nat) :
    (s.count ev at_ st n).pins = s.pins := State.countQ_pins s ev at_ st 0 n
@[simp] theorem State.count_boot (s : State) (ev : Nat) (at_ : At) (st : Option StreamId) (n : Nat) :
    (s.count ev at_ st n).boot = s.boot := State.countQ_boot s ev at_ st 0 n
@[simp] theorem State.count_sec (s : State) (ev : Nat) (at_ : At) (st : Option StreamId) (n : Nat) :
    (s.count ev at_ st n).sec = s.sec := State.countQ_sec s ev at_ st 0 n
@[simp] theorem State.count_flt (s : State) (ev : Nat) (at_ : At) (st : Option StreamId) (n : Nat) :
    (s.count ev at_ st n).flt = s.flt := State.countQ_flt s ev at_ st 0 n
@[simp] theorem State.countDev_pending (s : State) (ev : Nat) : (s.countDev ev).pending = s.pending :=
  State.count_pending s ev .device none 1
@[simp] theorem State.countDev_freeCtr (s : State) (ev : Nat) : (s.countDev ev).freeCtr = s.freeCtr :=
  State.count_freeCtr s ev .device none 1
@[simp] theorem State.countDev_out (s : State) (ev : Nat) : (s.countDev ev).out = s.out :=
  State.count_out s ev .device none 1
@[simp] theorem State.countDev_mem (s : State) (ev : Nat) : (s.countDev ev).mem = s.mem :=
  State.count_mem s ev .device none 1
@[simp] theorem State.countDev_unspec (s : State) (ev : Nat) : (s.countDev ev).unspec = s.unspec :=
  State.count_unspec s ev .device none 1
@[simp] theorem State.countDev_poison (s : State) (ev : Nat) : (s.countDev ev).poison = s.poison :=
  State.count_poison s ev .device none 1
@[simp] theorem State.countDev_ops (s : State) (ev : Nat) : (s.countDev ev).ops = s.ops :=
  State.count_ops s ev .device none 1
@[simp] theorem State.countDev_upsets (s : State) (ev : Nat) : (s.countDev ev).upsets = s.upsets :=
  State.count_upsets s ev .device none 1
@[simp] theorem State.countDev_fars (s : State) (ev : Nat) : (s.countDev ev).fars = s.fars :=
  State.count_fars s ev .device none 1
@[simp] theorem State.countDev_farBuf (s : State) (ev : Nat) : (s.countDev ev).farBuf = s.farBuf :=
  State.count_farBuf s ev .device none 1
@[simp] theorem State.countDev_time (s : State) (ev : Nat) : (s.countDev ev).time = s.time :=
  State.count_time s ev .device none 1
@[simp] theorem State.countDev_timeHi (s : State) (ev : Nat) : (s.countDev ev).timeHi = s.timeHi :=
  State.count_timeHi s ev .device none 1
@[simp] theorem State.countDev_streams (s : State) (ev : Nat) : (s.countDev ev).streams = s.streams :=
  State.count_streams s ev .device none 1
@[simp] theorem State.countDev_sregs (s : State) (ev : Nat) : (s.countDev ev).sregs = s.sregs :=
  State.count_sregs s ev .device none 1
@[simp] theorem State.countDev_ctxs (s : State) (ev : Nat) : (s.countDev ev).ctxs = s.ctxs :=
  State.count_ctxs s ev .device none 1
@[simp] theorem State.countDev_mis (s : State) (ev : Nat) : (s.countDev ev).mis = s.mis :=
  State.count_mis s ev .device none 1
@[simp] theorem State.countDev_merge (s : State) (ev : Nat) : (s.countDev ev).merge = s.merge :=
  State.count_merge s ev .device none 1
@[simp] theorem State.countDev_cores (s : State) (ev : Nat) : (s.countDev ev).cores = s.cores :=
  State.count_cores s ev .device none 1
@[simp] theorem State.countDev_clusters (s : State) (ev : Nat) : (s.countDev ev).clusters = s.clusters :=
  State.count_clusters s ev .device none 1
@[simp] theorem State.countDev_devRound (s : State) (ev : Nat) : (s.countDev ev).devRound = s.devRound :=
  State.count_devRound s ev .device none 1
@[simp] theorem State.countDev_vaults (s : State) (ev : Nat) : (s.countDev ev).vaults = s.vaults :=
  State.count_vaults s ev .device none 1
@[simp] theorem State.countDev_repairs (s : State) (ev : Nat) : (s.countDev ev).repairs = s.repairs :=
  State.count_repairs s ev .device none 1
@[simp] theorem State.countDev_groups (s : State) (ev : Nat) : (s.countDev ev).groups = s.groups :=
  State.count_groups s ev .device none 1
@[simp] theorem State.countDev_pools (s : State) (ev : Nat) : (s.countDev ev).pools = s.pools :=
  State.count_pools s ev .device none 1
@[simp] theorem State.countDev_engines (s : State) (ev : Nat) : (s.countDev ev).engines = s.engines :=
  State.count_engines s ev .device none 1
@[simp] theorem State.countDev_ports (s : State) (ev : Nat) : (s.countDev ev).ports = s.ports :=
  State.count_ports s ev .device none 1
@[simp] theorem State.countDev_dev (s : State) (ev : Nat) : (s.countDev ev).dev = s.dev :=
  State.count_dev s ev .device none 1
@[simp] theorem State.countDev_fab (s : State) (ev : Nat) : (s.countDev ev).fab = s.fab :=
  State.count_fab s ev .device none 1
@[simp] theorem State.countDev_weir (s : State) (ev : Nat) : (s.countDev ev).weir = s.weir :=
  State.count_weir s ev .device none 1
@[simp] theorem State.countDev_hif (s : State) (ev : Nat) : (s.countDev ev).hif = s.hif :=
  State.count_hif s ev .device none 1
@[simp] theorem State.countDev_pins (s : State) (ev : Nat) : (s.countDev ev).pins = s.pins :=
  State.count_pins s ev .device none 1
@[simp] theorem State.countDev_boot (s : State) (ev : Nat) : (s.countDev ev).boot = s.boot :=
  State.count_boot s ev .device none 1
@[simp] theorem State.countDev_sec (s : State) (ev : Nat) : (s.countDev ev).sec = s.sec :=
  State.count_sec s ev .device none 1
@[simp] theorem State.countDev_flt (s : State) (ev : Nat) : (s.countDev ev).flt = s.flt :=
  State.count_flt s ev .device none 1

theorem State.count_frame (s : State) (ev : Nat) (at_ : At) (st : Option StreamId) (n : Nat) :
    s.count ev at_ st n = { s with evt := { s.evt with cnt := (s.count ev at_ st n).evt.cnt, pend := (s.count ev at_ st n).evt.pend } } :=
  State.countQ_frame s ev at_ st 0 n

theorem State.countDev_frame (s : State) (ev : Nat) :
    s.countDev ev = { s with evt := { s.evt with cnt := (s.countDev ev).evt.cnt, pend := (s.countDev ev).evt.pend } } :=
  State.count_frame s ev .device none 1

/-! ### mod in terms of set -/

@[simp] theorem State.modStrm_def (s : State) (i : StreamId) (f : Stream → Stream) :
    s.modStrm i f = s.setStrm i (f (s.strm i)) := rfl
@[simp] theorem State.modSreg_def (s : State) (i : StreamId) (f : StreamRegs → StreamRegs) :
    s.modSreg i f = s.setSreg i (f (s.sreg i)) := rfl
@[simp] theorem State.modCtx_def (s : State) (c : CtxId) (f : Ctx → Ctx) : s.modCtx c f = s.setCtx c (f (s.ctx c)) := rfl
@[simp] theorem State.modCore_def (s : State) (c : Nat) (f : Core → Core) : s.modCore c f = s.setCore c (f (s.core c)) := rfl
@[simp] theorem State.modCluster_def (s : State) (c : Nat) (f : Cluster → Cluster) :
    s.modCluster c f = s.setCluster c (f (s.cluster c)) := rfl

/-! ### Reads after writes of instances -/

theorem bv_toNat_ne {w : Nat} {a b : BitVec w} (h : a ≠ b) : a.toNat ≠ b.toNat := fun e => h (BitVec.eq_of_toNat_eq e)

@[simp] theorem State.strm_setStrm (s : State) (i : StreamId) (x : Stream) : (s.setStrm i x).strm i = x := by
  simp [State.strm, State.setStrm]
theorem State.strm_setStrm_other (s : State) {i j : StreamId} (x : Stream) (h : j ≠ i) : (s.setStrm i x).strm j = s.strm j := by
  simp [State.strm, State.setStrm, tget_tput_other _ _ _ (bv_toNat_ne h)]
@[simp] theorem State.sreg_setSreg (s : State) (i : StreamId) (x : StreamRegs) : (s.setSreg i x).sreg i = x := by
  simp [State.sreg, State.setSreg]
theorem State.sreg_setSreg_other (s : State) {i j : StreamId} (x : StreamRegs) (h : j ≠ i) :
    (s.setSreg i x).sreg j = s.sreg j := by
  simp [State.sreg, State.setSreg, tget_tput_other _ _ _ (bv_toNat_ne h)]
@[simp] theorem State.ctx_setCtx (s : State) (c : CtxId) (x : Ctx) : (s.setCtx c x).ctx c = x := by
  simp [State.ctx, State.setCtx]
theorem State.ctx_setCtx_other (s : State) {c e : CtxId} (x : Ctx) (h : e ≠ c) : (s.setCtx c x).ctx e = s.ctx e := by
  simp [State.ctx, State.setCtx, tget_tput_other _ _ _ (bv_toNat_ne h)]
@[simp] theorem State.core_setCore (s : State) (c : Nat) (x : Core) : (s.setCore c x).core c = x := by
  simp [State.core, State.setCore]
theorem State.core_setCore_other (s : State) {c e : Nat} (x : Core) (h : e ≠ c) : (s.setCore c x).core e = s.core e := by
  simp [State.core, State.setCore, tget_tput_other _ _ _ h]
@[simp] theorem State.cluster_setCluster (s : State) (c : Nat) (x : Cluster) : (s.setCluster c x).cluster c = x := by
  simp [State.cluster, State.setCluster]
theorem State.cluster_setCluster_other (s : State) {c e : Nat} (x : Cluster) (h : e ≠ c) :
    (s.setCluster c x).cluster e = s.cluster e := by
  simp [State.cluster, State.setCluster, tget_tput_other _ _ _ h]
@[simp] theorem State.vault_modVault (s : State) (v : Nat) (f : Vault → Vault) :
    (s.modVault v f).vault v = f (s.vault v) := by simp [State.vault, State.modVault]
@[simp] theorem State.group_modGroup (s : State) (i : Nat) (f : Group → Group) :
    (s.modGroup i f).group i = f (s.group i) := by simp [State.group, State.modGroup]
@[simp] theorem State.pool_modPool (s : State) (p : Nat) (f : Pool → Pool) : (s.modPool p f).pool p = f (s.pool p) := by
  simp [State.pool, State.modPool]
@[simp] theorem State.engine_modEngine (s : State) (e : Nat) (f : Engine → Engine) :
    (s.modEngine e f).engine e = f (s.engine e) := by simp [State.engine, State.modEngine]
@[simp] theorem State.port_modPort (s : State) (p : Nat) (f : Port → Port) : (s.modPort p f).port p = f (s.port p) := by
  simp [State.port, State.modPort]
@[simp] theorem State.chan_modChan (s : State) (d : Nat) (f : Chan → Chan) : (s.modChan d f).chan d = f (s.chan d) := by
  simp [State.chan, State.modChan]
@[simp] theorem State.sensor_modSensor (s : State) (x : Nat) (f : Sensor → Sensor) :
    (s.modSensor x f).sensor x = f (s.sensor x) := by simp [State.sensor, State.modSensor]

/-! ### Accessors see only their field -/

@[simp] theorem State.strm_setSreg (s : State) (i : StreamId) (x : StreamRegs) (k : StreamId) :
    (s.setSreg i x).strm k = s.strm k := rfl
@[simp] theorem State.strm_setCtx (s : State) (c : CtxId) (x : Ctx) (i : StreamId) :
    (s.setCtx c x).strm i = s.strm i := rfl
@[simp] theorem State.strm_setCore (s : State) (c : Nat) (x : Core) (i : StreamId) :
    (s.setCore c x).strm i = s.strm i := rfl
@[simp] theorem State.strm_setCluster (s : State) (c : Nat) (x : Cluster) (i : StreamId) :
    (s.setCluster c x).strm i = s.strm i := rfl
@[simp] theorem State.strm_modVault (s : State) (v : Nat) (f : Vault → Vault) (i : StreamId) :
    (s.modVault v f).strm i = s.strm i := rfl
@[simp] theorem State.strm_modGroup (s : State) (i : Nat) (f : Group → Group) (k : StreamId) :
    (s.modGroup i f).strm k = s.strm k := rfl
@[simp] theorem State.strm_modPool (s : State) (p : Nat) (f : Pool → Pool) (i : StreamId) :
    (s.modPool p f).strm i = s.strm i := rfl
@[simp] theorem State.strm_modEngine (s : State) (e : Nat) (f : Engine → Engine) (i : StreamId) :
    (s.modEngine e f).strm i = s.strm i := rfl
@[simp] theorem State.strm_modPort (s : State) (p : Nat) (f : Port → Port) (i : StreamId) :
    (s.modPort p f).strm i = s.strm i := rfl
@[simp] theorem State.strm_modChan (s : State) (d : Nat) (f : Chan → Chan) (i : StreamId) :
    (s.modChan d f).strm i = s.strm i := rfl
@[simp] theorem State.strm_modSensor (s : State) (x : Nat) (f : Sensor → Sensor) (i : StreamId) :
    (s.modSensor x f).strm i = s.strm i := rfl
@[simp] theorem State.strm_takeFree (s : State) (i : StreamId) :
    (s.takeFree).strm i = s.strm i := rfl
@[simp] theorem State.strm_reply (s : State) (r : Reply) (i : StreamId) :
    (s.reply r).strm i = s.strm i := rfl
@[simp] theorem State.strm_send (s : State) (m : Sent) (i : StreamId) :
    (s.send m).strm i = s.strm i := rfl
@[simp] theorem State.strm_setPoison (s : State) (ln : Nat) (p : Bool) (i : StreamId) :
    (s.setPoison ln p).strm i = s.strm i := rfl
@[simp] theorem State.strm_putBytes (s : State) (a : Nat) (bs : List Byte) (i : StreamId) :
    (s.putBytes a bs).strm i = s.strm i := rfl
@[simp] theorem State.strm_count (s : State) (ev : Nat) (at_ : At) (st : Option StreamId) (n : Nat) (i : StreamId) :
    (s.count ev at_ st n).strm i = s.strm i := by simp [State.strm]
@[simp] theorem State.strm_countQ (s : State) (ev : Nat) (at_ : At) (st : Option StreamId) (q n : Nat) (i : StreamId) :
    (s.countQ ev at_ st q n).strm i = s.strm i := by simp [State.strm]
@[simp] theorem State.sreg_setStrm (s : State) (i : StreamId) (x : Stream) (k : StreamId) :
    (s.setStrm i x).sreg k = s.sreg k := rfl
@[simp] theorem State.sreg_setCtx (s : State) (c : CtxId) (x : Ctx) (i : StreamId) :
    (s.setCtx c x).sreg i = s.sreg i := rfl
@[simp] theorem State.sreg_setCore (s : State) (c : Nat) (x : Core) (i : StreamId) :
    (s.setCore c x).sreg i = s.sreg i := rfl
@[simp] theorem State.sreg_setCluster (s : State) (c : Nat) (x : Cluster) (i : StreamId) :
    (s.setCluster c x).sreg i = s.sreg i := rfl
@[simp] theorem State.sreg_modVault (s : State) (v : Nat) (f : Vault → Vault) (i : StreamId) :
    (s.modVault v f).sreg i = s.sreg i := rfl
@[simp] theorem State.sreg_modGroup (s : State) (i : Nat) (f : Group → Group) (k : StreamId) :
    (s.modGroup i f).sreg k = s.sreg k := rfl
@[simp] theorem State.sreg_modPool (s : State) (p : Nat) (f : Pool → Pool) (i : StreamId) :
    (s.modPool p f).sreg i = s.sreg i := rfl
@[simp] theorem State.sreg_modEngine (s : State) (e : Nat) (f : Engine → Engine) (i : StreamId) :
    (s.modEngine e f).sreg i = s.sreg i := rfl
@[simp] theorem State.sreg_modPort (s : State) (p : Nat) (f : Port → Port) (i : StreamId) :
    (s.modPort p f).sreg i = s.sreg i := rfl
@[simp] theorem State.sreg_modChan (s : State) (d : Nat) (f : Chan → Chan) (i : StreamId) :
    (s.modChan d f).sreg i = s.sreg i := rfl
@[simp] theorem State.sreg_modSensor (s : State) (x : Nat) (f : Sensor → Sensor) (i : StreamId) :
    (s.modSensor x f).sreg i = s.sreg i := rfl
@[simp] theorem State.sreg_takeFree (s : State) (i : StreamId) :
    (s.takeFree).sreg i = s.sreg i := rfl
@[simp] theorem State.sreg_reply (s : State) (r : Reply) (i : StreamId) :
    (s.reply r).sreg i = s.sreg i := rfl
@[simp] theorem State.sreg_send (s : State) (m : Sent) (i : StreamId) :
    (s.send m).sreg i = s.sreg i := rfl
@[simp] theorem State.sreg_setPoison (s : State) (ln : Nat) (p : Bool) (i : StreamId) :
    (s.setPoison ln p).sreg i = s.sreg i := rfl
@[simp] theorem State.sreg_putBytes (s : State) (a : Nat) (bs : List Byte) (i : StreamId) :
    (s.putBytes a bs).sreg i = s.sreg i := rfl
@[simp] theorem State.sreg_count (s : State) (ev : Nat) (at_ : At) (st : Option StreamId) (n : Nat) (i : StreamId) :
    (s.count ev at_ st n).sreg i = s.sreg i := by simp [State.sreg]
@[simp] theorem State.sreg_countQ (s : State) (ev : Nat) (at_ : At) (st : Option StreamId) (q n : Nat) (i : StreamId) :
    (s.countQ ev at_ st q n).sreg i = s.sreg i := by simp [State.sreg]
@[simp] theorem State.ctx_setStrm (s : State) (i : StreamId) (x : Stream) (c : CtxId) :
    (s.setStrm i x).ctx c = s.ctx c := rfl
@[simp] theorem State.ctx_setSreg (s : State) (i : StreamId) (x : StreamRegs) (c : CtxId) :
    (s.setSreg i x).ctx c = s.ctx c := rfl
@[simp] theorem State.ctx_setCore (s : State) (c : Nat) (x : Core) (k : CtxId) :
    (s.setCore c x).ctx k = s.ctx k := rfl
@[simp] theorem State.ctx_setCluster (s : State) (c : Nat) (x : Cluster) (k : CtxId) :
    (s.setCluster c x).ctx k = s.ctx k := rfl
@[simp] theorem State.ctx_modVault (s : State) (v : Nat) (f : Vault → Vault) (c : CtxId) :
    (s.modVault v f).ctx c = s.ctx c := rfl
@[simp] theorem State.ctx_modGroup (s : State) (i : Nat) (f : Group → Group) (c : CtxId) :
    (s.modGroup i f).ctx c = s.ctx c := rfl
@[simp] theorem State.ctx_modPool (s : State) (p : Nat) (f : Pool → Pool) (c : CtxId) :
    (s.modPool p f).ctx c = s.ctx c := rfl
@[simp] theorem State.ctx_modEngine (s : State) (e : Nat) (f : Engine → Engine) (c : CtxId) :
    (s.modEngine e f).ctx c = s.ctx c := rfl
@[simp] theorem State.ctx_modPort (s : State) (p : Nat) (f : Port → Port) (c : CtxId) :
    (s.modPort p f).ctx c = s.ctx c := rfl
@[simp] theorem State.ctx_modChan (s : State) (d : Nat) (f : Chan → Chan) (c : CtxId) :
    (s.modChan d f).ctx c = s.ctx c := rfl
@[simp] theorem State.ctx_modSensor (s : State) (x : Nat) (f : Sensor → Sensor) (c : CtxId) :
    (s.modSensor x f).ctx c = s.ctx c := rfl
@[simp] theorem State.ctx_takeFree (s : State) (c : CtxId) :
    (s.takeFree).ctx c = s.ctx c := rfl
@[simp] theorem State.ctx_reply (s : State) (r : Reply) (c : CtxId) :
    (s.reply r).ctx c = s.ctx c := rfl
@[simp] theorem State.ctx_send (s : State) (m : Sent) (c : CtxId) :
    (s.send m).ctx c = s.ctx c := rfl
@[simp] theorem State.ctx_setPoison (s : State) (ln : Nat) (p : Bool) (c : CtxId) :
    (s.setPoison ln p).ctx c = s.ctx c := rfl
@[simp] theorem State.ctx_putBytes (s : State) (a : Nat) (bs : List Byte) (c : CtxId) :
    (s.putBytes a bs).ctx c = s.ctx c := rfl
@[simp] theorem State.ctx_count (s : State) (ev : Nat) (at_ : At) (st : Option StreamId) (n : Nat) (c : CtxId) :
    (s.count ev at_ st n).ctx c = s.ctx c := by simp [State.ctx]
@[simp] theorem State.ctx_countQ (s : State) (ev : Nat) (at_ : At) (st : Option StreamId) (q n : Nat) (c : CtxId) :
    (s.countQ ev at_ st q n).ctx c = s.ctx c := by simp [State.ctx]
@[simp] theorem State.core_setStrm (s : State) (i : StreamId) (x : Stream) (c : Nat) :
    (s.setStrm i x).core c = s.core c := rfl
@[simp] theorem State.core_setSreg (s : State) (i : StreamId) (x : StreamRegs) (c : Nat) :
    (s.setSreg i x).core c = s.core c := rfl
@[simp] theorem State.core_setCtx (s : State) (c : CtxId) (x : Ctx) (k : Nat) :
    (s.setCtx c x).core k = s.core k := rfl
@[simp] theorem State.core_setCluster (s : State) (c : Nat) (x : Cluster) (k : Nat) :
    (s.setCluster c x).core k = s.core k := rfl
@[simp] theorem State.core_modVault (s : State) (v : Nat) (f : Vault → Vault) (c : Nat) :
    (s.modVault v f).core c = s.core c := rfl
@[simp] theorem State.core_modGroup (s : State) (i : Nat) (f : Group → Group) (c : Nat) :
    (s.modGroup i f).core c = s.core c := rfl
@[simp] theorem State.core_modPool (s : State) (p : Nat) (f : Pool → Pool) (c : Nat) :
    (s.modPool p f).core c = s.core c := rfl
@[simp] theorem State.core_modEngine (s : State) (e : Nat) (f : Engine → Engine) (c : Nat) :
    (s.modEngine e f).core c = s.core c := rfl
@[simp] theorem State.core_modPort (s : State) (p : Nat) (f : Port → Port) (c : Nat) :
    (s.modPort p f).core c = s.core c := rfl
@[simp] theorem State.core_modChan (s : State) (d : Nat) (f : Chan → Chan) (c : Nat) :
    (s.modChan d f).core c = s.core c := rfl
@[simp] theorem State.core_modSensor (s : State) (x : Nat) (f : Sensor → Sensor) (c : Nat) :
    (s.modSensor x f).core c = s.core c := rfl
@[simp] theorem State.core_takeFree (s : State) (c : Nat) :
    (s.takeFree).core c = s.core c := rfl
@[simp] theorem State.core_reply (s : State) (r : Reply) (c : Nat) :
    (s.reply r).core c = s.core c := rfl
@[simp] theorem State.core_send (s : State) (m : Sent) (c : Nat) :
    (s.send m).core c = s.core c := rfl
@[simp] theorem State.core_setPoison (s : State) (ln : Nat) (p : Bool) (c : Nat) :
    (s.setPoison ln p).core c = s.core c := rfl
@[simp] theorem State.core_putBytes (s : State) (a : Nat) (bs : List Byte) (c : Nat) :
    (s.putBytes a bs).core c = s.core c := rfl
@[simp] theorem State.core_count (s : State) (ev : Nat) (at_ : At) (st : Option StreamId) (n : Nat) (c : Nat) :
    (s.count ev at_ st n).core c = s.core c := by simp [State.core]
@[simp] theorem State.core_countQ (s : State) (ev : Nat) (at_ : At) (st : Option StreamId) (q n : Nat) (c : Nat) :
    (s.countQ ev at_ st q n).core c = s.core c := by simp [State.core]
@[simp] theorem State.cluster_setStrm (s : State) (i : StreamId) (x : Stream) (c : Nat) :
    (s.setStrm i x).cluster c = s.cluster c := rfl
@[simp] theorem State.cluster_setSreg (s : State) (i : StreamId) (x : StreamRegs) (c : Nat) :
    (s.setSreg i x).cluster c = s.cluster c := rfl
@[simp] theorem State.cluster_setCtx (s : State) (c : CtxId) (x : Ctx) (k : Nat) :
    (s.setCtx c x).cluster k = s.cluster k := rfl
@[simp] theorem State.cluster_setCore (s : State) (c : Nat) (x : Core) (k : Nat) :
    (s.setCore c x).cluster k = s.cluster k := rfl
@[simp] theorem State.cluster_modVault (s : State) (v : Nat) (f : Vault → Vault) (c : Nat) :
    (s.modVault v f).cluster c = s.cluster c := rfl
@[simp] theorem State.cluster_modGroup (s : State) (i : Nat) (f : Group → Group) (c : Nat) :
    (s.modGroup i f).cluster c = s.cluster c := rfl
@[simp] theorem State.cluster_modPool (s : State) (p : Nat) (f : Pool → Pool) (c : Nat) :
    (s.modPool p f).cluster c = s.cluster c := rfl
@[simp] theorem State.cluster_modEngine (s : State) (e : Nat) (f : Engine → Engine) (c : Nat) :
    (s.modEngine e f).cluster c = s.cluster c := rfl
@[simp] theorem State.cluster_modPort (s : State) (p : Nat) (f : Port → Port) (c : Nat) :
    (s.modPort p f).cluster c = s.cluster c := rfl
@[simp] theorem State.cluster_modChan (s : State) (d : Nat) (f : Chan → Chan) (c : Nat) :
    (s.modChan d f).cluster c = s.cluster c := rfl
@[simp] theorem State.cluster_modSensor (s : State) (x : Nat) (f : Sensor → Sensor) (c : Nat) :
    (s.modSensor x f).cluster c = s.cluster c := rfl
@[simp] theorem State.cluster_takeFree (s : State) (c : Nat) :
    (s.takeFree).cluster c = s.cluster c := rfl
@[simp] theorem State.cluster_reply (s : State) (r : Reply) (c : Nat) :
    (s.reply r).cluster c = s.cluster c := rfl
@[simp] theorem State.cluster_send (s : State) (m : Sent) (c : Nat) :
    (s.send m).cluster c = s.cluster c := rfl
@[simp] theorem State.cluster_setPoison (s : State) (ln : Nat) (p : Bool) (c : Nat) :
    (s.setPoison ln p).cluster c = s.cluster c := rfl
@[simp] theorem State.cluster_putBytes (s : State) (a : Nat) (bs : List Byte) (c : Nat) :
    (s.putBytes a bs).cluster c = s.cluster c := rfl
@[simp] theorem State.cluster_count (s : State) (ev : Nat) (at_ : At) (st : Option StreamId) (n : Nat) (c : Nat) :
    (s.count ev at_ st n).cluster c = s.cluster c := by simp [State.cluster]
@[simp] theorem State.cluster_countQ (s : State) (ev : Nat) (at_ : At) (st : Option StreamId) (q n : Nat) (c : Nat) :
    (s.countQ ev at_ st q n).cluster c = s.cluster c := by simp [State.cluster]
@[simp] theorem State.vault_setStrm (s : State) (i : StreamId) (x : Stream) (v : Nat) :
    (s.setStrm i x).vault v = s.vault v := rfl
@[simp] theorem State.vault_setSreg (s : State) (i : StreamId) (x : StreamRegs) (v : Nat) :
    (s.setSreg i x).vault v = s.vault v := rfl
@[simp] theorem State.vault_setCtx (s : State) (c : CtxId) (x : Ctx) (v : Nat) :
    (s.setCtx c x).vault v = s.vault v := rfl
@[simp] theorem State.vault_setCore (s : State) (c : Nat) (x : Core) (v : Nat) :
    (s.setCore c x).vault v = s.vault v := rfl
@[simp] theorem State.vault_setCluster (s : State) (c : Nat) (x : Cluster) (v : Nat) :
    (s.setCluster c x).vault v = s.vault v := rfl
@[simp] theorem State.vault_modGroup (s : State) (i : Nat) (f : Group → Group) (v : Nat) :
    (s.modGroup i f).vault v = s.vault v := rfl
@[simp] theorem State.vault_modPool (s : State) (p : Nat) (f : Pool → Pool) (v : Nat) :
    (s.modPool p f).vault v = s.vault v := rfl
@[simp] theorem State.vault_modEngine (s : State) (e : Nat) (f : Engine → Engine) (v : Nat) :
    (s.modEngine e f).vault v = s.vault v := rfl
@[simp] theorem State.vault_modPort (s : State) (p : Nat) (f : Port → Port) (v : Nat) :
    (s.modPort p f).vault v = s.vault v := rfl
@[simp] theorem State.vault_modChan (s : State) (d : Nat) (f : Chan → Chan) (v : Nat) :
    (s.modChan d f).vault v = s.vault v := rfl
@[simp] theorem State.vault_modSensor (s : State) (x : Nat) (f : Sensor → Sensor) (v : Nat) :
    (s.modSensor x f).vault v = s.vault v := rfl
@[simp] theorem State.vault_takeFree (s : State) (v : Nat) :
    (s.takeFree).vault v = s.vault v := rfl
@[simp] theorem State.vault_reply (s : State) (r : Reply) (v : Nat) :
    (s.reply r).vault v = s.vault v := rfl
@[simp] theorem State.vault_send (s : State) (m : Sent) (v : Nat) :
    (s.send m).vault v = s.vault v := rfl
@[simp] theorem State.vault_setPoison (s : State) (ln : Nat) (p : Bool) (v : Nat) :
    (s.setPoison ln p).vault v = s.vault v := rfl
@[simp] theorem State.vault_putBytes (s : State) (a : Nat) (bs : List Byte) (v : Nat) :
    (s.putBytes a bs).vault v = s.vault v := rfl
@[simp] theorem State.vault_count (s : State) (ev : Nat) (at_ : At) (st : Option StreamId) (n : Nat) (v : Nat) :
    (s.count ev at_ st n).vault v = s.vault v := by simp [State.vault]
@[simp] theorem State.vault_countQ (s : State) (ev : Nat) (at_ : At) (st : Option StreamId) (q n : Nat) (v : Nat) :
    (s.countQ ev at_ st q n).vault v = s.vault v := by simp [State.vault]
@[simp] theorem State.group_setStrm (s : State) (i : StreamId) (x : Stream) (k : Nat) :
    (s.setStrm i x).group k = s.group k := rfl
@[simp] theorem State.group_setSreg (s : State) (i : StreamId) (x : StreamRegs) (k : Nat) :
    (s.setSreg i x).group k = s.group k := rfl
@[simp] theorem State.group_setCtx (s : State) (c : CtxId) (x : Ctx) (i : Nat) :
    (s.setCtx c x).group i = s.group i := rfl
@[simp] theorem State.group_setCore (s : State) (c : Nat) (x : Core) (i : Nat) :
    (s.setCore c x).group i = s.group i := rfl
@[simp] theorem State.group_setCluster (s : State) (c : Nat) (x : Cluster) (i : Nat) :
    (s.setCluster c x).group i = s.group i := rfl
@[simp] theorem State.group_modVault (s : State) (v : Nat) (f : Vault → Vault) (i : Nat) :
    (s.modVault v f).group i = s.group i := rfl
@[simp] theorem State.group_modPool (s : State) (p : Nat) (f : Pool → Pool) (i : Nat) :
    (s.modPool p f).group i = s.group i := rfl
@[simp] theorem State.group_modEngine (s : State) (e : Nat) (f : Engine → Engine) (i : Nat) :
    (s.modEngine e f).group i = s.group i := rfl
@[simp] theorem State.group_modPort (s : State) (p : Nat) (f : Port → Port) (i : Nat) :
    (s.modPort p f).group i = s.group i := rfl
@[simp] theorem State.group_modChan (s : State) (d : Nat) (f : Chan → Chan) (i : Nat) :
    (s.modChan d f).group i = s.group i := rfl
@[simp] theorem State.group_modSensor (s : State) (x : Nat) (f : Sensor → Sensor) (i : Nat) :
    (s.modSensor x f).group i = s.group i := rfl
@[simp] theorem State.group_takeFree (s : State) (i : Nat) :
    (s.takeFree).group i = s.group i := rfl
@[simp] theorem State.group_reply (s : State) (r : Reply) (i : Nat) :
    (s.reply r).group i = s.group i := rfl
@[simp] theorem State.group_send (s : State) (m : Sent) (i : Nat) :
    (s.send m).group i = s.group i := rfl
@[simp] theorem State.group_setPoison (s : State) (ln : Nat) (p : Bool) (i : Nat) :
    (s.setPoison ln p).group i = s.group i := rfl
@[simp] theorem State.group_putBytes (s : State) (a : Nat) (bs : List Byte) (i : Nat) :
    (s.putBytes a bs).group i = s.group i := rfl
@[simp] theorem State.group_count (s : State) (ev : Nat) (at_ : At) (st : Option StreamId) (n : Nat) (i : Nat) :
    (s.count ev at_ st n).group i = s.group i := by simp [State.group]
@[simp] theorem State.group_countQ (s : State) (ev : Nat) (at_ : At) (st : Option StreamId) (q n : Nat) (i : Nat) :
    (s.countQ ev at_ st q n).group i = s.group i := by simp [State.group]
@[simp] theorem State.pool_setStrm (s : State) (i : StreamId) (x : Stream) (p : Nat) :
    (s.setStrm i x).pool p = s.pool p := rfl
@[simp] theorem State.pool_setSreg (s : State) (i : StreamId) (x : StreamRegs) (p : Nat) :
    (s.setSreg i x).pool p = s.pool p := rfl
@[simp] theorem State.pool_setCtx (s : State) (c : CtxId) (x : Ctx) (p : Nat) :
    (s.setCtx c x).pool p = s.pool p := rfl
@[simp] theorem State.pool_setCore (s : State) (c : Nat) (x : Core) (p : Nat) :
    (s.setCore c x).pool p = s.pool p := rfl
@[simp] theorem State.pool_setCluster (s : State) (c : Nat) (x : Cluster) (p : Nat) :
    (s.setCluster c x).pool p = s.pool p := rfl
@[simp] theorem State.pool_modVault (s : State) (v : Nat) (f : Vault → Vault) (p : Nat) :
    (s.modVault v f).pool p = s.pool p := rfl
@[simp] theorem State.pool_modGroup (s : State) (i : Nat) (f : Group → Group) (p : Nat) :
    (s.modGroup i f).pool p = s.pool p := rfl
@[simp] theorem State.pool_modEngine (s : State) (e : Nat) (f : Engine → Engine) (p : Nat) :
    (s.modEngine e f).pool p = s.pool p := rfl
@[simp] theorem State.pool_modPort (s : State) (p : Nat) (f : Port → Port) (k : Nat) :
    (s.modPort p f).pool k = s.pool k := rfl
@[simp] theorem State.pool_modChan (s : State) (d : Nat) (f : Chan → Chan) (p : Nat) :
    (s.modChan d f).pool p = s.pool p := rfl
@[simp] theorem State.pool_modSensor (s : State) (x : Nat) (f : Sensor → Sensor) (p : Nat) :
    (s.modSensor x f).pool p = s.pool p := rfl
@[simp] theorem State.pool_takeFree (s : State) (p : Nat) :
    (s.takeFree).pool p = s.pool p := rfl
@[simp] theorem State.pool_reply (s : State) (r : Reply) (p : Nat) :
    (s.reply r).pool p = s.pool p := rfl
@[simp] theorem State.pool_send (s : State) (m : Sent) (p : Nat) :
    (s.send m).pool p = s.pool p := rfl
@[simp] theorem State.pool_setPoison (s : State) (ln : Nat) (p : Bool) (k : Nat) :
    (s.setPoison ln p).pool k = s.pool k := rfl
@[simp] theorem State.pool_putBytes (s : State) (a : Nat) (bs : List Byte) (p : Nat) :
    (s.putBytes a bs).pool p = s.pool p := rfl
@[simp] theorem State.pool_count (s : State) (ev : Nat) (at_ : At) (st : Option StreamId) (n : Nat) (p : Nat) :
    (s.count ev at_ st n).pool p = s.pool p := by simp [State.pool]
@[simp] theorem State.pool_countQ (s : State) (ev : Nat) (at_ : At) (st : Option StreamId) (q n : Nat) (p : Nat) :
    (s.countQ ev at_ st q n).pool p = s.pool p := by simp [State.pool]
@[simp] theorem State.engine_setStrm (s : State) (i : StreamId) (x : Stream) (e : Nat) :
    (s.setStrm i x).engine e = s.engine e := rfl
@[simp] theorem State.engine_setSreg (s : State) (i : StreamId) (x : StreamRegs) (e : Nat) :
    (s.setSreg i x).engine e = s.engine e := rfl
@[simp] theorem State.engine_setCtx (s : State) (c : CtxId) (x : Ctx) (e : Nat) :
    (s.setCtx c x).engine e = s.engine e := rfl
@[simp] theorem State.engine_setCore (s : State) (c : Nat) (x : Core) (e : Nat) :
    (s.setCore c x).engine e = s.engine e := rfl
@[simp] theorem State.engine_setCluster (s : State) (c : Nat) (x : Cluster) (e : Nat) :
    (s.setCluster c x).engine e = s.engine e := rfl
@[simp] theorem State.engine_modVault (s : State) (v : Nat) (f : Vault → Vault) (e : Nat) :
    (s.modVault v f).engine e = s.engine e := rfl
@[simp] theorem State.engine_modGroup (s : State) (i : Nat) (f : Group → Group) (e : Nat) :
    (s.modGroup i f).engine e = s.engine e := rfl
@[simp] theorem State.engine_modPool (s : State) (p : Nat) (f : Pool → Pool) (e : Nat) :
    (s.modPool p f).engine e = s.engine e := rfl
@[simp] theorem State.engine_modPort (s : State) (p : Nat) (f : Port → Port) (e : Nat) :
    (s.modPort p f).engine e = s.engine e := rfl
@[simp] theorem State.engine_modChan (s : State) (d : Nat) (f : Chan → Chan) (e : Nat) :
    (s.modChan d f).engine e = s.engine e := rfl
@[simp] theorem State.engine_modSensor (s : State) (x : Nat) (f : Sensor → Sensor) (e : Nat) :
    (s.modSensor x f).engine e = s.engine e := rfl
@[simp] theorem State.engine_takeFree (s : State) (e : Nat) :
    (s.takeFree).engine e = s.engine e := rfl
@[simp] theorem State.engine_reply (s : State) (r : Reply) (e : Nat) :
    (s.reply r).engine e = s.engine e := rfl
@[simp] theorem State.engine_send (s : State) (m : Sent) (e : Nat) :
    (s.send m).engine e = s.engine e := rfl
@[simp] theorem State.engine_setPoison (s : State) (ln : Nat) (p : Bool) (e : Nat) :
    (s.setPoison ln p).engine e = s.engine e := rfl
@[simp] theorem State.engine_putBytes (s : State) (a : Nat) (bs : List Byte) (e : Nat) :
    (s.putBytes a bs).engine e = s.engine e := rfl
@[simp] theorem State.engine_count (s : State) (ev : Nat) (at_ : At) (st : Option StreamId) (n : Nat) (e : Nat) :
    (s.count ev at_ st n).engine e = s.engine e := by simp [State.engine]
@[simp] theorem State.engine_countQ (s : State) (ev : Nat) (at_ : At) (st : Option StreamId) (q n : Nat) (e : Nat) :
    (s.countQ ev at_ st q n).engine e = s.engine e := by simp [State.engine]
@[simp] theorem State.port_setStrm (s : State) (i : StreamId) (x : Stream) (p : Nat) :
    (s.setStrm i x).port p = s.port p := rfl
@[simp] theorem State.port_setSreg (s : State) (i : StreamId) (x : StreamRegs) (p : Nat) :
    (s.setSreg i x).port p = s.port p := rfl
@[simp] theorem State.port_setCtx (s : State) (c : CtxId) (x : Ctx) (p : Nat) :
    (s.setCtx c x).port p = s.port p := rfl
@[simp] theorem State.port_setCore (s : State) (c : Nat) (x : Core) (p : Nat) :
    (s.setCore c x).port p = s.port p := rfl
@[simp] theorem State.port_setCluster (s : State) (c : Nat) (x : Cluster) (p : Nat) :
    (s.setCluster c x).port p = s.port p := rfl
@[simp] theorem State.port_modVault (s : State) (v : Nat) (f : Vault → Vault) (p : Nat) :
    (s.modVault v f).port p = s.port p := rfl
@[simp] theorem State.port_modGroup (s : State) (i : Nat) (f : Group → Group) (p : Nat) :
    (s.modGroup i f).port p = s.port p := rfl
@[simp] theorem State.port_modPool (s : State) (p : Nat) (f : Pool → Pool) (k : Nat) :
    (s.modPool p f).port k = s.port k := rfl
@[simp] theorem State.port_modEngine (s : State) (e : Nat) (f : Engine → Engine) (p : Nat) :
    (s.modEngine e f).port p = s.port p := rfl
@[simp] theorem State.port_modChan (s : State) (d : Nat) (f : Chan → Chan) (p : Nat) :
    (s.modChan d f).port p = s.port p := rfl
@[simp] theorem State.port_modSensor (s : State) (x : Nat) (f : Sensor → Sensor) (p : Nat) :
    (s.modSensor x f).port p = s.port p := rfl
@[simp] theorem State.port_takeFree (s : State) (p : Nat) :
    (s.takeFree).port p = s.port p := rfl
@[simp] theorem State.port_reply (s : State) (r : Reply) (p : Nat) :
    (s.reply r).port p = s.port p := rfl
@[simp] theorem State.port_send (s : State) (m : Sent) (p : Nat) :
    (s.send m).port p = s.port p := rfl
@[simp] theorem State.port_setPoison (s : State) (ln : Nat) (p : Bool) (k : Nat) :
    (s.setPoison ln p).port k = s.port k := rfl
@[simp] theorem State.port_putBytes (s : State) (a : Nat) (bs : List Byte) (p : Nat) :
    (s.putBytes a bs).port p = s.port p := rfl
@[simp] theorem State.port_count (s : State) (ev : Nat) (at_ : At) (st : Option StreamId) (n : Nat) (p : Nat) :
    (s.count ev at_ st n).port p = s.port p := by simp [State.port]
@[simp] theorem State.port_countQ (s : State) (ev : Nat) (at_ : At) (st : Option StreamId) (q n : Nat) (p : Nat) :
    (s.countQ ev at_ st q n).port p = s.port p := by simp [State.port]

end Sys2Proof.Machine
end

