-- ==== Sys2Proof/Laws/Ctxs.lean ====
section
/-! SUPPORT. Laws of contexts: scalar, predicate and vector registers, and the one lemma on issuing that the sequencer and
vector meanings share. -/

namespace Sys2Proof.Machine

/-! ### Registers (R102) -/

@[simp] theorem Ctx.s_zero (c : Ctx) : c.s 0 = 0 := by simp [Ctx.s]
@[simp] theorem Ctx.setS_zero (c : Ctx) (v : W64) : c.setS 0 v = c := by simp [Ctx.setS]
@[simp] theorem Ctx.p_zero (c : Ctx) : c.p 0 = true := by simp [Ctx.p]
@[simp] theorem Ctx.setP_zero (c : Ctx) (v : Bool) : c.setP 0 v = c := by simp [Ctx.setP]

theorem Ctx.s_setS_same (c : Ctx) {r : Reg} (h : r ≠ 0) (v : W64) : (c.setS r v).s r = v := by
  unfold Ctx.s Ctx.setS
  rw [if_neg h, if_neg h]
  exact tget_tput_same ..

theorem Ctx.s_setS_other (c : Ctx) {r q : Reg} (h : q ≠ r) (v : W64) : (c.setS r v).s q = c.s q := by
  unfold Ctx.setS
  split
  · rfl
  · simp [Ctx.s, tget_tput_other _ _ _ (bv_toNat_ne h)]

theorem Ctx.p_setP_same (c : Ctx) {r : BitVec 3} (h : r ≠ 0) (v : Bool) : (c.setP r v).p r = v := by
  unfold Ctx.p Ctx.setP
  rw [if_neg h, if_neg h]
  exact tget_tput_same ..

theorem Ctx.p_setP_other (c : Ctx) {r q : BitVec 3} (h : q ≠ r) (v : Bool) : (c.setP r v).p q = c.p q := by
  unfold Ctx.setP
  split
  · rfl
  · simp [Ctx.p, tget_tput_other _ _ _ (bv_toNat_ne h)]

/-- A scalar write changes no field but the scalar registers. -/
theorem Ctx.setS_frame (c : Ctx) (r : Reg) (v : W64) : c.setS r v = { c with sreg := (c.setS r v).sreg } := by
  unfold Ctx.setS
  split <;> rfl

/-- A predicate write changes no field but the predicates. -/
theorem Ctx.setP_frame (c : Ctx) (r : BitVec 3) (v : Bool) : c.setP r v = { c with pred := (c.setP r v).pred } := by
  unfold Ctx.setP
  split <;> rfl

theorem Ctx.setS_fields (c : Ctx) (r : Reg) (v : W64) :
    (c.setS r v).pc = c.pc ∧ (c.setS r v).stopping = c.stopping ∧ (c.setS r v).codeEnd = c.codeEnd ∧
    (c.setS r v).wait = c.wait ∧ (c.setS r v).granted = c.granted ∧ (c.setS r v).pred = c.pred ∧ (c.setS r v).vreg = c.vreg := by
  unfold Ctx.setS
  split <;> simp [Ctx.codeEnd]

theorem Ctx.setP_fields (c : Ctx) (r : BitVec 3) (v : Bool) :
    (c.setP r v).pc = c.pc ∧ (c.setP r v).stopping = c.stopping ∧ (c.setP r v).codeEnd = c.codeEnd ∧
    (c.setP r v).wait = c.wait ∧ (c.setP r v).granted = c.granted ∧ (c.setP r v).sreg = c.sreg ∧ (c.setP r v).vreg = c.vreg := by
  unfold Ctx.setP
  split <;> simp [Ctx.codeEnd]

/-! ### Issuing -/

/-- A context that may issue has begun nothing. -/
theorem State.canIssue_fresh {s : State} {cx : CtxId} (h : s.canIssue cx = true) :
    (s.ctx cx).wait = .ready ∧ (s.ctx cx).granted = none ∧ (s.ctx cx).begun = false := by
  simp only [State.canIssue, Bool.and_eq_true, decide_eq_true_eq, Option.isNone_iff_eq_none] at h
  exact ⟨h.1.2, h.2, by simp [Ctx.begun, h.1.2, h.2]⟩

/-- An issued instruction whose predicate holds runs its effect on the state in which SEQ_ISSUE is counted. -/
theorem State.issue_on {s : State} {cx : CtxId} {p : Pred} {n : W64} (k : State → State) (h : s.Issues cx n)
    (hp : (s.ctx cx).on p = true) : s.issue cx p n k = k (s.countCtx cx evSeqIssue 1) := by
  obtain ⟨h1, -, -, h4⟩ := h
  simp [State.issue, State.issued, h1, (State.canIssue_fresh h1).2.2, h4, hp, State.countCtx]

/-- One whose predicate does not hold only advances. -/
theorem State.issue_off {s : State} {cx : CtxId} {p : Pred} {n : W64} (k : State → State) (h : s.Issues cx n)
    (hp : (s.ctx cx).on p = false) : s.issue cx p n k = (s.countCtx cx evSeqIssue 1).advance cx n := by
  obtain ⟨h1, -, -, h4⟩ := h
  simp [State.issue, State.issued, h1, (State.canIssue_fresh h1).2.2, h4, hp, State.countCtx]

/-- One that may wait runs its effect in the same way. -/
theorem State.issueWait_on {s : State} {cx : CtxId} {p : Pred} {q : Nat → Bool} {asks : Bool} (k : State → State)
    (h : s.Issues cx 4) (hp : (s.ctx cx).on p = true) : s.issueWait cx p q asks k = k (s.countCtx cx evSeqIssue 1) := by
  obtain ⟨h1, -, -, h4⟩ := h
  have hr : s.canRetry cx q asks = true := by
    have := State.canIssue_fresh h1
    simp only [State.canIssue, Bool.and_eq_true] at h1
    simp [State.canRetry, h1.1.1, this.1, this.2.1]
  rw [State.issueWait, if_pos hr, State.issued, if_neg (by simp [(State.canIssue_fresh h1).2.2]), h4]
  simp [hp, State.countCtx]

/-- A context that may not issue is left alone. -/
theorem State.issue_not {s : State} {cx : CtxId} {p : Pred} {n : W64} (k : State → State) (h : s.canIssue cx = false) :
    s.issue cx p n k = s := by
  simp [State.issue, h]

/-- Arriving at an address inside the program. -/
theorem State.goto_ready {s : State} {cx : CtxId} {pc : W64} (h : (s.ctx cx).stopping = false)
    (hg : (s.ctx cx).granted = none) (he : pc ≠ (s.ctx cx).codeEnd) :
    s.goto cx pc = s.setCtx cx { s.ctx cx with pc := pc, wait := .ready } := by
  simp only [State.goto, h, Bool.false_eq_true, if_false, if_neg he]
  rw [← hg]

/-- Advancing inside the program. -/
theorem State.advance_ready {s : State} {cx : CtxId} {n : W64} (h : (s.ctx cx).stopping = false)
    (hg : (s.ctx cx).granted = none) (he : (s.ctx cx).pc + n ≠ (s.ctx cx).codeEnd) :
    s.advance cx n = s.setCtx cx { s.ctx cx with pc := (s.ctx cx).pc + n, wait := .ready } :=
  State.goto_ready h hg he

@[simp] theorem State.ctx_countCtx (s : State) (cx : CtxId) (ev n : Nat) (c : CtxId) : (s.countCtx cx ev n).ctx c = s.ctx c := by
  simp [State.countCtx]

theorem State.countCtx_frame (s : State) (cx : CtxId) (ev n : Nat) :
    s.countCtx cx ev n = { s with evt := Counted s (s.countCtx cx ev n) } := State.count_frame s ev _ _ n

@[simp] theorem State.setCtx_setCtx (s : State) (cx : CtxId) (x y : Ctx) : (s.setCtx cx x).setCtx cx y = s.setCtx cx y := by
  simp [State.setCtx]

/-- What the step of one context amounts to: counts, and that context. -/
theorem stepsOn_setCtx (s : State) (cx : CtxId) (n : W64) (x : Ctx) (e : Table (BitVec 49)) (p : Table Nat) :
    StepsOn s ({ s with evt := { s.evt with cnt := e, pend := p } }.setCtx cx { x with pc := (s.ctx cx).pc + n, wait := .ready }) cx n x :=
  ⟨rfl, fun _ hc => State.ctx_setCtx_other _ _ hc, State.ctx_setCtx ..⟩

/-- A register instruction whose predicate holds: its effect on the registers, then the next instruction. -/
theorem State.issueReg_on {s : State} {cx : CtxId} {p : Pred} (f : Ctx → Ctx) (h : s.Issues cx 4) (hm : s.MoreAfter cx 4)
    (hp : (s.ctx cx).on p = true) (hpc : (f (s.ctx cx)).pc = (s.ctx cx).pc)
    (hst : (f (s.ctx cx)).stopping = (s.ctx cx).stopping) (hg : (f (s.ctx cx)).granted = (s.ctx cx).granted) (hce : (f (s.ctx cx)).codeEnd = (s.ctx cx).codeEnd) :
    s.issueReg cx p f = (s.countCtx cx evSeqIssue 1).setCtx cx
      { f (s.ctx cx) with pc := (s.ctx cx).pc + 4, wait := .ready } := by
  have hs := h.2.2.1
  unfold State.issueReg
  rw [State.issue_on _ h hp, State.advance_ready]
  · simp [hpc]
  · simp [hst, hs]
  · simp [hg, (State.canIssue_fresh h.1).2.1]
  · simpa [hpc, hce, State.MoreAfter] using hm

/-- A predicated-off instruction: the next instruction. -/
theorem State.issue_skip {s : State} {cx : CtxId} {p : Pred} {n : W64} (k : State → State) (h : s.Issues cx n)
    (hm : s.MoreAfter cx n) (hp : (s.ctx cx).on p = false) : s.issue cx p n k = (s.countCtx cx evSeqIssue 1).setCtx cx
      { s.ctx cx with pc := (s.ctx cx).pc + n, wait := .ready } := by
  rw [State.issue_off _ h hp, State.advance_ready]
  · simp
  · simpa using h.2.2.1
  · simp [(State.canIssue_fresh h.1).2.1]
  · simpa [State.MoreAfter] using hm

end Sys2Proof.Machine
end

