-- ==== Sys2Proof/Laws/Ops.lean ====
section
/-! SUPPORT. Laws of the shared operations: what counting, raising a cause, posting an entry and latching a fault can change, and that
every memory operation keeps the canonical form. -/

namespace Sys2Proof.Machine

/-! ### Counting, causes and entries -/

/-- Nothing is counted while the counters are frozen (R468). -/
theorem State.countQ_frozen (s : State) (ev : Nat) (p : At) (i : Option StreamId) (q n : Nat) (h : s.evt.freeze = true) :
    s.countQ ev p i q n = s := by
  simp [State.countQ, h]

/-- What a fault, an entry or a cause may change: streams and their registers, contexts, macro-instructions, cores, what is sent, the
host port, counts, the latch and the weir. Everything else of t is as in s. -/
def FaultEffects (s t : State) : Prop :=
  t = { s with
    streams := t.streams, sregs := t.sregs, ctxs := t.ctxs, mis := t.mis, cores := t.cores, out := t.out, hif := t.hif, evt := t.evt,
    flt := t.flt, weir := t.weir }

theorem FaultEffects.refl (s : State) : FaultEffects s s := rfl

theorem FaultEffects.trans {s t u : State} (h : FaultEffects s t) (k : FaultEffects t u) : FaultEffects s u := by
  unfold FaultEffects at *
  rw [k, h]

theorem FaultEffects.mem {s t : State} (h : FaultEffects s t) : t.mem = s.mem := by
  unfold FaultEffects at h
  exact (congrArg State.mem h).trans rfl
theorem FaultEffects.unspec {s t : State} (h : FaultEffects s t) : t.unspec = s.unspec := by
  unfold FaultEffects at h
  exact (congrArg State.unspec h).trans rfl
theorem FaultEffects.poison {s t : State} (h : FaultEffects s t) : t.poison = s.poison := by
  unfold FaultEffects at h
  exact (congrArg State.poison h).trans rfl
theorem FaultEffects.sec {s t : State} (h : FaultEffects s t) : t.sec = s.sec := by
  unfold FaultEffects at h
  exact (congrArg State.sec h).trans rfl
theorem FaultEffects.pins {s t : State} (h : FaultEffects s t) : t.pins = s.pins := by
  unfold FaultEffects at h
  exact (congrArg State.pins h).trans rfl
theorem FaultEffects.boot {s t : State} (h : FaultEffects s t) : t.boot = s.boot := by
  unfold FaultEffects at h
  exact (congrArg State.boot h).trans rfl
theorem FaultEffects.fab {s t : State} (h : FaultEffects s t) : t.fab = s.fab := by
  unfold FaultEffects at h
  exact (congrArg State.fab h).trans rfl
theorem FaultEffects.clusters {s t : State} (h : FaultEffects s t) : t.clusters = s.clusters := by
  unfold FaultEffects at h
  exact (congrArg State.clusters h).trans rfl

/-- Memory reads as before. -/
theorem FaultEffects.sameBytes {s t : State} (h : FaultEffects s t) : SameBytes s t := by
  intro a
  simp only [State.byte, State.dflt, h.mem, h.unspec]

theorem FaultEffects.memOk {s t : State} (h : FaultEffects s t) (m : s.memOk) : t.memOk := by
  simpa only [State.memOk, State.dflt, h.mem, h.unspec] using m

theorem State.countQ_effects (s : State) (ev : Nat) (p : At) (i : Option StreamId) (q n : Nat) : FaultEffects s (s.countQ ev p i q n) := by
  unfold State.countQ
  split <;> rfl

theorem State.count_effects (s : State) (ev : Nat) (p : At) (i : Option StreamId) (n : Nat) : FaultEffects s (s.count ev p i n) :=
  s.countQ_effects ev p i 0 n

theorem State.sendMsix_effects (s : State) (v : BitVec 11) : FaultEffects s (s.sendMsix v) := by
  unfold State.sendMsix
  split
  · rfl
  · split
    · rfl
    · split <;> rfl

theorem State.raise_effects (s : State) (c : Nat) : FaultEffects s (s.raise c) := by
  unfold State.raise
  split
  · rfl
  · dsimp only
    split
    · unfold State.sendMsix
      split
      · rfl
      · split
        · rfl
        · split <;> rfl
    · rfl

theorem State.hostWrite_effects (s : State) (a : W64) (bs : List Byte) : FaultEffects s (s.hostWrite a bs) := by
  unfold State.hostWrite
  split <;> rfl

theorem State.setSreg_effects (s : State) (i : StreamId) (x : StreamRegs) : FaultEffects s (s.setSreg i x) := rfl
theorem State.setStrm_effects (s : State) (i : StreamId) (x : Stream) : FaultEffects s (s.setStrm i x) := rfl
theorem State.modCore_effects (s : State) (c : Nat) (f : Core → Core) : FaultEffects s (s.modCore c f) := rfl
theorem State.send_effects (s : State) (m : Sent) : FaultEffects s (s.send m) := rfl

theorem State.writeEntry_effects (s : State) (i : StreamId) (e : BitVec 256) : FaultEffects s (s.writeEntry i e) := by
  unfold State.writeEntry
  dsimp only
  split
  · exact ((((s.hostWrite_effects _ _).trans (State.hostWrite_effects _ _ _)).trans (State.setSreg_effects _ _ _))).trans
      (State.raise_effects _ _)
  · exact ((s.hostWrite_effects _ _).trans (State.hostWrite_effects _ _ _)).trans (State.setSreg_effects _ _ _)

theorem State.postEntry_effects (s : State) (i : StreamId) (e : BitVec 256) : FaultEffects s (s.postEntry i e) := by
  unfold State.postEntry
  dsimp only
  split
  · exact .refl s
  · split
    · exact s.setSreg_effects _ _
    · exact s.writeEntry_effects i e

/-- A fold of steps that each have only these effects has only these effects. -/
theorem FaultEffects.foldl {α : Type} (f : State → α → State) (h : ∀ s x, FaultEffects s (f s x)) (l : List α) (s : State) :
    FaultEffects s (l.foldl f s) := by
  induction l generalizing s with
  | nil => exact .refl s
  | cons x l ih => exact (h s x).trans (ih (f s x))

theorem State.tellFar_effects (s : State) (i : StreamId) (n : Notice) : FaultEffects s (s.tellFar i n) :=
  FaultEffects.foldl _ (fun s _ => s.send_effects _) _ s

theorem State.streamFault_effects (s : State) (i : StreamId) (code : Code) (name : W64) (r : Nat) :
    FaultEffects s (s.streamFault i code name r) := by
  unfold State.streamFault
  dsimp only
  split
  · refine FaultEffects.trans ?_ (State.postEntry_effects _ _ _)
    refine FaultEffects.trans ?_ (State.tellFar_effects _ _ _)
    exact FaultEffects.trans (s.setStrm_effects i _) rfl
  · exact .refl s

/-- The device hold beyond the faults of its streams. -/
theorem hold_effects (s : State) (code : Code) :
    FaultEffects s (if code = eThermalTrip then { s with weir := { s.weir with tripping := true, coolNs := 0 } }
      else { s with flt := { s.flt with hold := true } }) := by
  split <;> rfl

theorem State.deviceHold_effects (s : State) (code : Code) (name : W64) (r : Nat) : FaultEffects s (s.deviceHold code name r) :=
  (FaultEffects.foldl _ (fun s _ => s.streamFault_effects _ code name r) _ s).trans (hold_effects _ code)

theorem FaultEffects.ite {s b : State} (c : Prop) [Decidable c] {g : State} (hb : FaultEffects s b) (hg : FaultEffects b g) :
    FaultEffects s (if c then g else b) := by
  split
  · exact hb.trans hg
  · exact hb

/-- Latching a fault has no effect but these: memory, keys, pins, membership and the caches keep (R37, R454). -/
theorem State.latchFault_effects (s : State) (f : FaultBit) : FaultEffects s (s.latchFault f) := by
  unfold State.latchFault
  refine FaultEffects.ite _ ?_ (State.deviceHold_effects _ _ _ _)
  refine FaultEffects.ite _ ?_ (State.modCore_effects _ _ _)
  have h : FaultEffects s (if f.code = eResidue && decide (f.srcKind = 0) then
      ({ s.count evFaultsLatched .device f.strm 1 with flt := { (s.count evFaultsLatched .device f.strm 1).flt with
        latch := (s.count evFaultsLatched .device f.strm 1).flt.latch ++ [(f, BitVec.ofNat 8 (s.faultClass f),
          (s.count evFaultsLatched .device f.strm 1).time)] } } : State).modCore f.srcIndex.toNat fun c =>
            { c with mustKat := true, residueAt := some (s.count evFaultsLatched .device f.strm 1).time } else
      { s.count evFaultsLatched .device f.strm 1 with flt := { (s.count evFaultsLatched .device f.strm 1).flt with
        latch := (s.count evFaultsLatched .device f.strm 1).flt.latch ++ [(f, BitVec.ofNat 8 (s.faultClass f),
          (s.count evFaultsLatched .device f.strm 1).time)] } }) :=
    FaultEffects.ite _ ((s.count_effects ..).trans rfl) (State.modCore_effects _ _ _)
  cases hf : f.strm with
  | none => simpa only [hf] using h
  | some i =>
    simp only [hf] at h ⊢
    split
    · exact h
    · exact h.trans (State.streamFault_effects ..)

/-! ### Memory (R260, R269, R275) -/

/-- Memory of t holds what memory of s holds. -/
def SameMem (s t : State) : Prop := t.mem = s.mem ∧ t.unspec = s.unspec

theorem SameMem.refl (s : State) : SameMem s s := ⟨rfl, rfl⟩
theorem SameMem.trans {s t u : State} (h : SameMem s t) (k : SameMem t u) : SameMem s u := ⟨k.1.trans h.1, k.2.trans h.2⟩
theorem SameMem.memOk {s t : State} (h : SameMem s t) (m : s.memOk) : t.memOk := by
  simpa only [State.memOk, State.dflt, h.1, h.2] using m
theorem SameMem.sameBytes {s t : State} (h : SameMem s t) : SameBytes s t := by
  intro a
  simp only [State.byte, State.dflt, h.1, h.2]
theorem FaultEffects.sameMem {s t : State} (h : FaultEffects s t) : SameMem s t := ⟨h.mem, h.unspec⟩

theorem SameMem.ite {s b g : State} (c : Prop) [Decidable c] (hb : SameMem s b) (hg : SameMem b g) :
    SameMem s (if c then g else b) := by
  split
  · exact hb.trans hg
  · exact hb

theorem State.countHome_sameMem (s : State) (ev ln n : Nat) : SameMem s (s.countHome ev ln n) := (s.count_effects ..).sameMem
theorem State.setCline_sameMem (s : State) (ln : Nat) (x : Option Line) : SameMem s (s.setCline ln x) := ⟨rfl, rfl⟩
theorem State.tick_sameMem (s : State) (ln : Nat) : SameMem s (s.tick ln) := ⟨rfl, rfl⟩
theorem State.setPoison_sameMem (s : State) (ln : Nat) (p : Bool) : SameMem s (s.setPoison ln p) := ⟨rfl, rfl⟩
theorem State.modVault_sameMem (s : State) (v : Nat) (f : Vault → Vault) : SameMem s (s.modVault v f) := ⟨rfl, rfl⟩

theorem State.rewrite_sameMem (s : State) (v q : Nat) : SameMem s (s.rewrite v q) := ⟨rfl, rfl⟩

theorem State.vaultWrite_sameMem (s : State) (ln : Nat) : SameMem s (s.vaultWrite ln) := by
  unfold State.vaultWrite
  exact (s.rewrite_sameMem ..).trans (State.countHome_sameMem ..)

theorem State.poisonLine_sameMem (s : State) (ln : Nat) : SameMem s (s.poisonLine ln) := by
  unfold State.poisonLine
  exact (((s.rewrite_sameMem ..).trans (State.modVault_sameMem ..)).trans (State.countHome_sameMem ..)).trans
    (State.setPoison_sameMem ..)

theorem State.correctLine_sameMem (s : State) (ln : Nat) (t : BitVec 6) : SameMem s (s.correctLine ln t) := by
  unfold State.correctLine
  exact ((s.modVault_sameMem ..).trans (State.countHome_sameMem ..)).trans (State.vaultWrite_sameMem ..)

/-- A vault read changes no byte, whatever the decoder finds (R278, R279). -/
theorem State.vaultRead_sameMem (s : State) (ln : Nat) (det : Option (Nat × Nat)) : SameMem s (s.vaultRead ln det) := by
  unfold State.vaultRead
  dsimp only
  have h := s.countHome_sameMem evStackRdLines ln 1
  split
  · exact h
  · split
    · exact h
    · exact h.trans (State.correctLine_sameMem ..)
    · split
      · exact (h.trans (State.poisonLine_sameMem ..)).trans (State.latchFault_effects ..).sameMem
      · exact h.trans (State.poisonLine_sameMem ..)

theorem State.writeBack_sameMem (s : State) (ln : Nat) : SameMem s (s.writeBack ln) := by
  unfold State.writeBack
  split
  · split
    · exact (s.setCline_sameMem ..).trans (State.vaultWrite_sameMem ..)
    · exact .refl s
  · exact .refl s

theorem State.makeRoom_sameMem (s : State) (ln : Nat) : SameMem s (s.makeRoom ln) := by
  unfold State.makeRoom
  dsimp only
  split
  · exact .refl s
  · split
    · exact (s.writeBack_sameMem _).trans (State.setCline_sameMem ..)
    · exact .refl s

theorem State.classFor_sameMem (s : State) (ln : Nat) (c : LineClass) : SameMem s (s.classFor ln c).2 := by
  unfold State.classFor
  dsimp only
  split
  · split
    · exact .refl s
    · split
      · split
        · exact (s.setCline_sameMem ..).trans (State.countHome_sameMem ..)
        · exact .refl s
      · exact .refl s
  · exact .refl s

theorem State.allocLine_sameMem (s : State) (ln : Nat) (c : LineClass) (n : BitVec 16) (tag : Option (BitVec 16)) :
    SameMem s (s.allocLine ln c n tag) := by
  unfold State.allocLine
  exact (((s.classFor_sameMem ln c).trans (State.makeRoom_sameMem ..)).trans (State.setCline_sameMem ..)).trans (State.tick_sameMem ..)

theorem State.makeDirty_sameMem (s : State) (ln : Nat) : SameMem s (s.makeDirty ln) := by
  unfold State.makeDirty
  split
  · split
    · exact .refl s
    · exact s.setCline_sameMem ..
  · exact .refl s

theorem State.evictFirst_sameMem (s : State) (ln : Nat) : SameMem s (s.evictFirst ln) := by
  unfold State.evictFirst
  split
  · split
    · exact .refl s
    · exact (s.setCline_sameMem ..).trans (State.countHome_sameMem ..)
  · exact .refl s

theorem State.touchLine_sameMem (s : State) (ln : Nat) (h : Hint) (u : BitVec 16) (tag : Option (BitVec 16)) :
    SameMem s (s.touchLine ln h u tag) := by
  unfold State.touchLine
  split
  · exact .refl s
  · exact SameMem.ite _ ((s.setCline_sameMem ..).trans (State.tick_sameMem ..)) (State.evictFirst_sameMem ..)

/-- A line-path read changes no byte (R269). -/
theorem State.lineRead_sameMem (s : State) (ln : Nat) (h : Hint) (u : BitVec 16) (tag : Option (BitVec 16)) (det : Option (Nat × Nat)) :
    SameMem s (s.lineRead ln h u tag det) := by
  unfold State.lineRead
  split
  · exact (s.countHome_sameMem ..).trans (State.touchLine_sameMem ..)
  · dsimp only
    have h1 := (s.countHome_sameMem evCchMiss ln 1).trans (State.vaultRead_sameMem _ ln det)
    split
    · exact h1.trans (State.countHome_sameMem ..)
    · split
      · exact (h1.trans (State.allocLine_sameMem ..)).trans (State.evictFirst_sameMem ..)
      · exact h1.trans (State.allocLine_sameMem ..)

theorem State.awlAccept_sameMem (s : State) (cl : Nat) : SameMem s (s.awlAccept cl) := (s.count_effects ..).sameMem

/-- An awl read changes no byte (R275). -/
theorem State.awlRead_sameMem (s : State) (cl ln : Nat) (det : Option (Nat × Nat)) : SameMem s (s.awlRead cl ln det) := by
  unfold State.awlRead
  dsimp only
  have h := s.awlAccept_sameMem cl
  split
  · exact h.trans (State.countHome_sameMem ..)
  · have h1 := h.trans (State.vaultRead_sameMem _ ln det)
    split
    · exact h1.trans (State.allocLine_sameMem ..)
    · exact h1

theorem State.storeLine_memOk (s : State) (a : Nat) (bs : List Byte) (m : s.memOk) : (s.storeLine a bs).memOk := by
  unfold State.storeLine
  dsimp only
  have h : (s.putBytes a bs).memOk := s.putBytes_wf a bs m
  split
  · exact (State.setPoison_sameMem ..).memOk h
  · exact h

/-- A line-path write keeps memory canonical (R269). -/
theorem State.lineWrite_memOk (s : State) (a : Nat) (bs : List Byte) (h : Hint) (u : BitVec 16) (tag : Option (BitVec 16))
    (m : s.memOk) : (s.lineWrite a bs h u tag).memOk := by
  unfold State.lineWrite
  dsimp only
  split
  · exact (State.touchLine_sameMem ..).memOk (State.storeLine_memOk _ _ _
      (((s.countHome_sameMem ..).trans (State.makeDirty_sameMem ..)).memOk m))
  · have h1 : SameMem s (if bs.length = 128 then s else (s.countHome evCchMiss (a / 128) 1).vaultRead (a / 128) (s.atHome (a / 128))) := by
      split
      · exact .refl s
      · exact (s.countHome_sameMem ..).trans (State.vaultRead_sameMem ..)
    split
    · refine ((State.vaultWrite_sameMem ..).trans (State.countHome_sameMem ..)).memOk (State.storeLine_memOk _ _ _ ?_)
      exact (SameMem.ite _ h1 (State.countHome_sameMem ..)).memOk m
    · have h2 := State.storeLine_memOk _ a bs (((h1.trans (State.allocLine_sameMem _ (a / 128) (hintClass h)
        (if h = .last then u else 0) tag)).trans (State.makeDirty_sameMem _ (a / 128))).memOk m)
      split
      · exact (State.evictFirst_sameMem ..).memOk h2
      · exact h2

/-- A fold of steps that keep memory canonical keeps it. -/
theorem foldl_memOk {α : Type} (f : State → α → State) (h : ∀ s x, s.memOk → (f s x).memOk) (l : List α) (s : State) (m : s.memOk) :
    (l.foldl f s).memOk := by
  induction l generalizing s with
  | nil => exact m
  | cons x l ih => exact ih (f s x) (h s x m)

/-- A store anywhere keeps memory canonical. -/
theorem State.store_memOk (s : State) (a : Nat) (bs : List Byte) (h : Hint) (u : BitVec 16) (tag : Option (BitVec 16)) (m : s.memOk) :
    (s.store a bs h u tag).memOk := by
  unfold State.store
  split
  · exact foldl_memOk _ (fun s p => s.lineWrite_memOk _ _ _ _ _) _ s m
  · split
    · exact s.putBytes_wf a bs m
    · exact m

/-- A read of lines changes no byte. -/
theorem State.readLines_memOk (s : State) (a n : Nat) (h : Hint) (u : BitVec 16) (tag : Option (BitVec 16)) (m : s.memOk) :
    (s.readLines a n h u tag).memOk := by
  unfold State.readLines
  split
  · exact foldl_memOk _ (fun s ln => (s.lineRead_sameMem ..).memOk) _ s m
  · exact m

/-- An awl store keeps memory canonical (R275). -/
theorem State.awlStore_memOk (s : State) (cl a : Nat) (bs : List Byte) (det : Option (Nat × Nat)) (m : s.memOk) :
    (s.awlStore cl a bs det).memOk := by
  unfold State.awlStore
  dsimp only
  have h := s.awlAccept_sameMem cl
  split
  · exact State.storeLine_memOk _ _ _ (((h.trans (State.countHome_sameMem ..)).trans (State.makeDirty_sameMem ..)).memOk m)
  · have h1 := h.trans (State.vaultRead_sameMem _ (a / 128) det)
    split
    · exact State.storeLine_memOk _ _ _ (((h1.trans (State.allocLine_sameMem ..)).trans (State.makeDirty_sameMem ..)).memOk m)
    · exact (State.vaultWrite_sameMem ..).memOk (State.storeLine_memOk _ _ _ (h1.memOk m))

/-- An atomic keeps memory canonical (R275). -/
theorem State.awlAtomic_memOk (s : State) (cl a : Nat) (fn : AmoFn) (cmp v : W64) (det : Option (Nat × Nat)) (m : s.memOk) :
    (s.awlAtomic cl a fn cmp v det).memOk :=
  (State.countHome_sameMem ..).memOk (s.awlStore_memOk _ _ _ _ m)

/-- Invalidating a line keeps memory canonical (R273). -/
theorem State.invalidateLine_memOk (s : State) (ln : Nat) (m : s.memOk) : (s.invalidateLine ln).memOk := by
  unfold State.invalidateLine
  split
  · rename_i l _
    refine (State.setCline_sameMem ..).memOk ?_
    cases l.shadow with
    | none => exact m
    | some x => exact (State.setPoison_sameMem ..).memOk (s.putBytes_wf _ _ m)
  · exact m

end Sys2Proof.Machine
end

