-- ==== Sys2Proof/Tests/Slice0.lean ====
section
/-! SUPPORT. Tests: witnesses of the hypotheses of every statement, small steps on small states, and an ill-formed command for
each check of WellFormed. Expected values are worked out by hand from the rules cited. -/

set_option Elab.async false

namespace Sys2Proof.Tests

open Sys2Proof Sys2Proof.Machine

/-! ### Small states -/

/-- The state after a command; the state itself where the command is refused. -/
def after (i : Instr) (s : State) : State := match exec i s with | .next t => t | _ => s

/-- Whether a command answers a next state. -/
def goes (i : Instr) (s : State) : Bool := match exec i s with | .next _ => true | _ => false

/-- A machine in phase RUNNING with every domain powered and the host link up. -/
def runS : State :=
  { State.reset with
    pins := ⟨true, true, true, false, false, true, 0, 1, 0⟩
    boot := { State.reset.boot with phase := .running, imageOk := true }
    hif := { Hif.reset with linkUp := true } }

/-- A context of stream 0 at the start of a program of 256 bytes, with s1 to s3 set. -/
def ctx0 : Ctx :=
  { Ctx.free with used := true, codeBase := 0x10000000, codeLen := 0x100, pc := 0x10000000, leafCount := 1, sreg := [(1, 7), (2, 0xFFFFFFFFFFFFFFFE), (3, 3)], wait := .ready }

/-- The machine with a RUNNING stream 0 whose context 0 is c. -/
def ctxS (c : Ctx) : State :=
  { runS with
    streams := [(0, { Stream.empty with state := .running, leaves := [(0, 0)], codeAddr := 0x10000000, codeLen := 0x100 })]
    ctxs := [(0, c)] }

/-- Predicate 0, true. -/
def always : Pred := ⟨false, 0⟩

/-- Predicate 0, negated: false. -/
def never : Pred := ⟨true, 0⟩

/-! ### The sequencer -/

theorem issues_ctx0 : (ctxS ctx0).Issues 0 4 ∧ (ctxS ctx0).MoreAfter 0 4 ∧ (ctxS ctx0).Issues 0 8 ∧ (ctxS ctx0).MoreAfter 0 8 := by
  unfold State.Issues State.MoreAfter; decide +kernel

/-- Meets the hypotheses of Obligations.ScalarResults and State.Runs. -/
theorem witness_ScalarResults : (ctxS ctx0).Runs 0 always := by
  unfold State.Runs State.Issues State.MoreAfter; decide +kernel

theorem test_sAlu : ((after (.sAlu 0 always .add 4 1 2) (ctxS ctx0)).ctx 0).s 4 = 5 ∧
    ((after (.sAlu 0 always .divu 4 1 0) (ctxS ctx0)).ctx 0).s 4 = 0xFFFFFFFFFFFFFFFF := by decide +kernel
theorem test_sShi : ((after (.sShi 0 always .arithmetic 2 2 1) (ctxS ctx0)).ctx 0).s 2 = 0xFFFFFFFFFFFFFFFF := by decide +kernel
theorem test_sMov16 : ((after (.sMov16 0 3 true 2 0x1234) (ctxS ctx0)).ctx 0).s 2 = 0x1234FFFFFFFFFFFE := by decide +kernel
theorem test_sCmp : ((after (.sCmp 0 always .lt 1 2 1) (ctxS ctx0)).ctx 0).p 1 = true ∧
    ((after (.sCmp 0 always .ltu 1 2 1) (ctxS ctx0)).ctx 0).p 1 = false := by decide +kernel
theorem test_sPop : ((after (.sPop 0 always .andNot 2 0 1) (ctxS ctx0)).ctx 0).p 2 = true := by decide +kernel
theorem test_s0_reads_zero : ((after (.sAddi 0 always 0 1 5) (ctxS ctx0)).ctx 0).s 0 = 0 := by decide +kernel

/-- Both clauses of Obligations.PredicatedOff: a false predicate; a free context, one that holds an answer, one that waits at a bound. -/
theorem witness_PredicatedOff : (ctxS ctx0).Issues 0 4 ∧ (ctxS ctx0).MoreAfter 0 4 ∧ ((ctxS ctx0).ctx 0).on never = false ∧
    seqParts (.sAddi 0 never 1 1 5) = some (0, never, 4) ∧ (ctxS ctx0).awake 5 = false ∧ ¬Asks (.sAddi 0 never 1 1 5) ∧
    ((ctxS { ctx0 with granted := some 3 }).ctx 0).granted ≠ none ∧
    ((ctxS { ctx0 with wait := .bound 4 }).ctx 0).wait = .bound 4 ∧ ¬MayWaitAt (.sMi 0 always 1 1 1) 4 := by
  unfold State.Issues State.MoreAfter Asks MayWaitAt; decide +kernel
theorem test_predicated_off : ((after (.sAddi 0 never 1 1 5) (ctxS ctx0)).ctx 0).s 1 = 7 ∧
    ((after (.sAddi 0 never 1 1 5) (ctxS ctx0)).ctx 0).pc = 0x10000004 := by decide +kernel

/-- s1 at the first stack byte, s2 at the local store of core 0, s3 above the stack, s4 misaligned. -/
def memCtx : Ctx := { ctx0 with sreg := [(1, 0x0A200000), (2, 0x4000000000), (3, 0x3000000000), (4, 0x0A200001), (5, 9)] }

/-- The first eight bytes of the stack hold 0x8877665544332211. -/
def memS : State :=
  { ctxS memCtx with mem := [(0x0A200000, 0x11), (0x0A200001, 0x22), (0x0A200002, 0x33), (0x0A200003, 0x44), (0x0A200004, 0x55), (0x0A200005, 0x66), (0x0A200006, 0x77), (0x0A200007, 0x88)] }

/-- The clauses of Obligations.ScalarMemory, at the first byte of the stack; the awl open and shut. -/
theorem witness_ScalarMemory : memS.Runs 0 always ∧ memS.memOk ∧ memS.InMemory 0x0A200000 8 ∧ memS.InMemory 0x0A200000 4 ∧
    memS.InMemory 0x4000000000 8 ∧ memS.poisonIn 0x0A200000 8 = none ∧ memS.Holds 0x0A200000 8 0x8877665544332211 ∧
    memS.Holds 0x0A200000 4 0x44332211 ∧ AmoRule 0x8877665544332211 9 0 0x887766554433221A .add ∧
    memS.AwlOpen 0 ∧ memS.badLine (0x0A200000 / 128) = memS.poisoned (0x0A200000 / 128) ∧ memS.upsets = [] ∧
    (let s := memS.modCluster 0 fun c => { c with awlCfg := 0 }
     s.Runs 0 always ∧ ¬s.AwlOpen 0 ∧ inStack 0x0A200000 8 = true) := by
  unfold State.Runs State.Issues State.MoreAfter State.memOk State.InMemory State.Holds AmoRule State.AwlOpen; decide +kernel
theorem access_sLd : ScalarAccess (memS.ctx 0) 0 always .add 6 1 0 0 0x0A200000 8 (.sLd 0 always 6 1 0) :=
  Or.inl ⟨Or.inl ⟨rfl, Or.inl rfl⟩, by decide +kernel⟩
theorem test_awl_shut : ((after (.sLd 0 always 6 1 0) (memS.modCluster 0 fun c => { c with awlCfg := 0 })).ctx 0).wait = .bound 4 := by
  decide +kernel
theorem test_sLd : ((after (.sLd 0 always 6 1 0) memS).ctx 0).s 6 = 0x8877665544332211 := by decide +kernel
theorem test_sLdw : ((after (.sLdw 0 always 6 1 4) memS).ctx 0).s 6 = 0x88776655 := by decide +kernel
theorem test_sSt : (after (.sSt 0 always 5 2 8) memS).bytes 0x4000000008 8 = [9, 0, 0, 0, 0, 0, 0, 0] := by decide +kernel
theorem test_sStw : (after (.sStw 0 always 5 1 0) memS).bytes 0x0A200000 5 = [9, 0, 0, 0, 0x55] := by decide +kernel
theorem test_sAmo : ((after (.sAmo 0 always .add 6 1 5) memS).ctx 0).s 6 = 0x8877665544332211 ∧
    (after (.sAmo 0 always .add 6 1 5) memS).bytes 0x0A200000 2 = [0x1A, 0x22] := by decide +kernel

/-- Three tiers of the vault of the first stack line are marked failed: no symbol of it can be corrected. -/
def deadS : State := memS.modVault (memS.vaultOf (0x0A200000 / 128)) fun v => { v with failed := 7 }

/-- The faults of Obligations.ScalarAccessFaults: misaligned, no memory at the end of the stack, a poisoned line, a store to a line
that cannot be corrected. -/
theorem witness_ScalarAccessFaults : memS.Runs 0 always ∧ memS.Faultable 0 ∧ (0x0A200001 : W64).toNat % 8 ≠ 0 ∧
    (0x3000000000 : W64).toNat / 2 ^ 48 = memS.own ∧ regionOf ((0x3000000000 : W64).toNat % 2 ^ 48) = .none ∧
    (let s := memS.setPoison (0x0A200000 / 128) true
     s.Runs 0 always ∧ s.Faultable 0 ∧ s.InMemory 0x0A200000 8 ∧ s.AwlOpen 0 ∧ s.poisonIn (0x0A200000 % 2 ^ 48) 8 = some (0x0A200000 / 128)) ∧
    deadS.Runs 0 always ∧ deadS.memOk ∧ deadS.flt.lockstep = false ∧ deadS.AwlOpen 0 ∧ deadS.badLine (0x0A200000 / 128) = true ∧
    deadS.poisoned (0x0A200000 / 128) = false := by
  unfold State.Runs State.Issues State.MoreAfter State.Faultable State.InMemory State.AwlOpen State.memOk; decide +kernel
theorem test_dead_line : ((after (.sLd 0 always 6 1 0) deadS).strm 0).lastErr = eStackUe ∧
    (after (.sSt 0 always 5 1 0) deadS).poisoned (0x0A200000 / 128) = true ∧
    (after (.sSt 0 always 5 1 0) deadS).flt.latch.length = 1 := by decide +kernel
theorem test_sLd_faults : ((after (.sLd 0 always 6 4 0) memS).strm 0).state = .faulted ∧
    ((after (.sLd 0 always 6 4 0) memS).strm 0).lastErr = eAlign ∧
    ((after (.sLd 0 always 6 3 0) memS).strm 0).lastErr = eBounds := by decide +kernel

/-- Device 0 is a member beside device 1, which lies behind port 3; s6 is an address of device 1. -/
def farS : State :=
  { ctxS { memCtx with sreg := memCtx.sreg ++ [(6, 0x000100000A200000), (7, 0x4100000018)] } with
    fab := { Fab.reset with mstate := .live, live := [(0, true), (1, true)], routes := [(1, 0x100000008)] }
    ports := [(3, { Port.reset with link := .up4 })] }

/-- The packet that s.ld from s6 sends. -/
def farPkt : Packet := ⟨0x01, 1, 0, 0, 0x0A200000, 8, 64, 0, []⟩

/-- Both parts of Obligations.RemoteAndRegisterAccesses: an address of device 1, and offsets 0x18 and, in the debug window,
0x100000 and 0x101FF8. -/
theorem witness_RemoteAndRegisterAccesses : farS.Runs 0 always ∧ farS.isLive 1 = true ∧ farS.lineHeld 1 0x0A200000 = false ∧
    farS.freeTag = some 0 ∧ farS.routePort farPkt = some 3 ∧ (0x4100000018 : W64).toNat = farS.own * 2 ^ 48 + regBase + 0x18 ∧
    (0x4100100000 : W64).toNat = farS.own * 2 ^ 48 + regBase + 0x100000 ∧ 0x101FF8 % 8 = 0 ∧ 0x101FF8 < 0x102000 := by
  unfold State.Runs State.Issues State.MoreAfter; decide +kernel
theorem test_sLd_remote : ((after (.sLd 0 always 5 6 0) farS).ctx 0).wait = .remote 0 ∧
    (after (.sLd 0 always 5 6 0) farS).out.packets = [(3, farPkt)] := by decide +kernel
theorem test_sLd_register : ((after (.sLd 0 always 5 7 0) farS).ctx 0).wait = .ready := by decide +kernel

/-- The lead context and a block context at the last instruction of their program. -/
def endS (lead : Bool) (bs : List Block) : State :=
  ctxS { ctx0 with lead := lead, pc := 0x100000FC, blocks := bs, sreg := [(1, 0x10000000), (2, 0x10000002)] }

/-- Obligations.Jumps: jumps that stay inside the program; a target that is none; s.end of a lead and of a block context, with
and without a further block, the end of the program reached, and a lead that a pause stops there. -/
theorem witness_Jumps : (endS true []).Issues 0 4 ∧ ((endS true []).ctx 0).on always = true ∧ (endS true []).Faultable 0 ∧
    ((endS true []).ctx 0).pc + (-1 : BitVec 22).signExtend 64 * 4 ≠ ((endS true []).ctx 0).codeEnd ∧
    (endS true []).targetErr ((endS true []).ctx 0) 0x10000002 = eAlign ∧
    ((endS true []).ctx 0).lead = true ∧ ((endS true []).ctx 0).pc + 4 = ((endS true []).ctx 0).codeEnd ∧
    ((endS true []).strm 0).state = .running ∧ ((endS true []).ctx 0).dev.toNat = (endS true []).own ∧
    (let s := endS false [⟨0, 0x10000000, [1, 2, 3, 4], 0⟩, ⟨1, 0x10000008, [5, 6, 7, 8], 0⟩]
     s.Issues 0 4 ∧ (s.ctx 0).lead = false ∧ (s.ctx 0).pausing = false ∧ (s.strm 0).asks = [] ∧ ∀ y ∈ (s.ctx 0).blocks.drop 1, y.addr ≠ (s.ctx 0).codeEnd) ∧
    (let s := (endS true []).modCtx 0 fun c => { c with pausing := true }
     s.Issues 0 4 ∧ (s.ctx 0).pausing = true) ∧
    (let s := { endS true [] with mem := [(0x10000003, 0xF8)] }
     s.targetErr (s.ctx 0) 0x10000000 = 0) := by
  unfold State.Issues State.Faultable; decide +kernel
theorem test_sBr : ((after (.sBr 0 always (-1)) (endS true [])).ctx 0).pc = 0x100000F8 := by decide +kernel
theorem test_sCall : ((after (.sCall 0 always (-2)) (endS true [])).ctx 0).s 31 = 0x10000100 := by decide +kernel
theorem test_sJr : ((after (.sJr 0 always 2) (endS true [])).strm 0).lastErr = eAlign := by decide +kernel
theorem test_sEnd : ((after (.sEnd 0 always) (endS true [])).strm 0).state = .draining ∧
    ((after (.sEnd 0 always) (endS false [⟨0, 0x10000000, [], 0⟩])).ctx 0).wait = .idle := by decide +kernel
theorem test_end_of_program :
    ((after (.sAddi 0 always 6 1 1) (endS false [⟨0, 0, [], 0⟩, ⟨1, 0x10000008, [5, 6, 7, 8], 2⟩])).ctx 0).s 5 = 2 := by decide +kernel

/-- s1 names the group 0x100, s2 its image in the stack, s3 a group that does not exist. -/
def groupS (g : Group) : State :=
  { ctxS { ctx0 with sreg := [(1, 0x100), (2, 0x10000), (3, 0x0A200000)] } with groups := [(0x100, g)] }

/-- Obligations.InformationAndGroups: a definition that is accepted (an empty member list) and refused, a removal that is
accepted and refused. -/
theorem witness_InformationAndGroups : (groupS .none).Runs 0 always ∧ (groupS .none).gdefErr 0x100 true 0x0A200000 = 0 ∧
    (groupS .none).gdefErr 0xFF true 0x0A200000 = eHandle ∧ (groupS .none).gundefErr 0x100 = eHandle ∧
    (groupS { Group.none with defined := true }).gundefErr 0x100 = 0 ∧ (groupS .none).busy .gdef = false ∧
    (let s := { groupS .none with ops := [.gdefDefine 0x101] }
     s.Runs 0 always ∧ s.busy .gdef = true ∧ s.gdefFlush.busy .gdef = false) := by
  unfold State.Runs State.Issues State.MoreAfter; decide +kernel
theorem test_sInfo : ((after (.sInfo 0 always .leaves 4) (ctxS ctx0)).ctx 0).s 4 = 1 := by decide +kernel
theorem test_sGdef : ((after (.sGdef 0 always 4 1 3) (groupS .none)).group 0x100).defined = true := by decide +kernel
theorem test_sGundef : ((after (.sGundef 0 always 4 1) (groupS { Group.none with defined := true })).group 0x100).defined = false := by
  decide +kernel

/-! ### Macro-instructions: helpers -/

/-- A record of a role at a global address, extent and strides 16 bytes. -/
def rec16 (role a : Nat) : Rec := BitVec.ofNat 512 (role + a * 2 ^ 32 + 16 * 2 ^ 96 + 16 * 2 ^ 144 + 16 * 2 ^ 184)

/-- m.mm of a 1 x 1 by a 1 x 1 matrix in bf16, with an fp32 result and its records at 0x4000001040. -/
def mmDesc : Desc :=
  BitVec.ofNat 256 (1 + 3 * 2 ^ 8 + 3 * 2 ^ 13 + 1 * 2 ^ 18 + 3 * 2 ^ 56 + 1 * 2 ^ 64 + 1 * 2 ^ 88 + 1 * 2 ^ 120 + 1 * 2 ^ 152 + 0x4000001040 * 2 ^ 208)

def mmRecs : List Rec := [rec16 0 0x20000000, rec16 1 0x20000080, rec16 2 0x20000100]

/-- Its macro-instruction, published on cluster 0 for core 0, with one tile. -/
def mi0 : MI :=
  { strm := 0, ticket := 0, home := 0, here := true, seed := 0, cstream := 0, core := 0, handle := 0, leaves := [(0, 0)],
    desc := mmDesc, recs := mmRecs, atDevice := false, cluster := 0, slot := 0, tm := 4, tk := 32, nm := 1, nn := 1,
    chunks := 1, parts := 1, team := 1, total := 1, next := 0, returned := [], out := [], claimed := 0, retired := 0,
    waiting := false, scanned := true, stopped := false, faulted := false, pub := none, units := [], hist := [],
    present := [], pins := [], pool := none, mergeSlots := [], mergeDone := [], teamRows := [] }

/-- The first tile of mi0, not started. -/
def tile0 : Tile :=
  { home := 0, strm := 0, ticket := 0, idx := 0, started := false, loads := 0, decoded := [], katOwed := false, outs := [] }

/-- Row 0 of its result, 6.0. -/
def row6 : RowOut := { row := 0, writes := [(0x20000100, [0, 0, 0xC0, 0x40])], hist := [], nonzero := [0] }

/-- The machine with context 0 ready, s1 naming core 0 and s2 the descriptor in its local store, A = 2.0 and B = 3.0 in the
stack, macro-instructions ms of stream 0 and tiles ts on core 0. -/
def mmS (ms : List MI) (ts : List Tile) : State :=
  let s := ctxS { ctx0 with sreg := [(1, 0), (2, 0x4000001000), (3, 1)] }
  let s := s.putBytes 0x20000000 [0, 0x40]
  let s := s.putBytes 0x20000080 [0x40, 0x40]
  let s := s.modStrm 0 fun x => { x with nextMi := 1 }
  { s with mis := ms, cores := [(0, { Core.reset with tiles := ts })] }

/-- The same with the descriptor and its records in local store, ready for s.mi. -/
def miS : State :=
  ((mmS [] []).putBytes 0x4000001000 (leBytes 32 mmDesc.toNat)).putBytes 0x4000001040 (mmRecs.flatMap fun r => leBytes 64 r.toNat)

/-! ### Waits, fences, publication and dispatch -/

/-- A context of a stream of device 1, with this device's answer to give or not. -/
def askS (g : Option W64) : State := ctxS { ctx0 with dev := 1, granted := g, sreg := [(1, 0), (2, 0x4000001000), (3, 1)] }

/-- Obligations.WaitsAndFences: a ticket retired, outstanding and not given; fences without and with work, and a waiting one
that may and may not go on; a context that pauses; one of another device's stream, with and without an answer. -/
theorem witness_WaitsAndFences :
    (mmS [] []).Runs 0 always ∧ (mmS [] []).Faultable 0 ∧ ((mmS [] []).ctx 0).dev.toNat = (mmS [] []).own ∧
    (0 : W64).toNat < ((mmS [] []).strm 0).nextMi.toNat ∧ ¬(1 : W64).toNat < ((mmS [] []).strm 0).nextMi.toNat ∧
    (0, [(0, 0)]) ∈ (mmS [mi0] []).workMis 0 ∧ (mmS [mi0] []).own = 0 ∧
    (∀ fn, (mmS [] []).fenceWrites 0 fn = false) ∧ (mmS [] []).handleOk 0 = true ∧ (mmS [] []).OwnReady ((mmS [] []).leavesOf 0) ∧
    (mmS [] []).workMis 0 = [] ∧ ((mmS [] []).strm 0).disps = [] ∧
    (mmS [mi0] []).fenceMet 0 .device [0] [] = false ∧ (mmS [] []).fenceMet 0 .device [0] [] = true ∧
    ((mmS [mi0] []).modCtx 0 fun c => { c with pausing := true }).Runs 0 always ∧
    (askS none).Runs 0 always ∧ ((askS none).ctx 0).dev.toNat ≠ (askS none).own ∧ (askS (some 9)).Answered 0 9 := by
  refine ⟨?_, ?_, ?_, ?_, ?_, ?_, ?_, ?_, ?_, ?_, ?_, ?_, ?_, ?_, ?_, ?_, ?_, ?_⟩
  case refine_8 => intro fn; cases fn <;> decide +kernel
  all_goals (first | decide +kernel | (unfold State.Runs State.Issues State.MoreAfter; decide +kernel) |
    (unfold State.Faultable; decide +kernel) | (unfold State.OwnReady; decide +kernel) |
    (unfold State.Answered State.MoreAfter; decide +kernel))
theorem test_ask : ((after (.sMwait 0 always 3) (askS none)).ctx 0).wait = .asked .work ∧
    (after (.sMwait 0 always 3) (askS none)).out.sent = [.notice 1 (.ask 0 0 0 (.mwait 1))] ∧
    ((after (.sMwait 0 always 3) (askS (some 9))).ctx 0).pc = 0x10000004 := by decide +kernel
theorem test_sMwait : ((after (.sMwait 0 always 0) (mmS [mi0] [])).ctx 0).wait = .mwait 0 ∧
    ((after (.sMwait 0 always 3) (mmS [] [])).strm 0).lastErr = eHandle := by decide +kernel
theorem test_sFence : ((after (.sFence 0 always .device 0) (mmS [mi0] [])).ctx 0).wait = .fence .device [0] [] := by decide +kernel
theorem test_seqFenceComplete :
    ((after (.seqFenceComplete 0) ((mmS [] []).setCtx 0 { ctx0 with wait := .fence .device [0] [] })).ctx 0).pc = 0x10000004 := by
  decide +kernel

/-- miS with its context one of a stream of device 1. -/
def miFar (g : Option W64) : State := miS.modCtx 0 fun c => { c with dev := 1, granted := g }

/-- Obligations.PublishAndDispatch: s.mi accepted, at 16 outstanding, with no free counter slot, and on an empty group; s.disp to the
core itself; a context that pauses; one of another device's stream that asks, and that has its answer. -/
theorem witness_PublishAndDispatch : miS.Runs 0 always ∧ miS.handleErr (miS.unitOf 0 1) = 0 ∧
    miS.OwnReady (miS.leavesOf (miS.unitOf 0 1)) ∧ miS.outstanding 0 < 16 ∧
    16 ≤ (mmS (List.replicate 16 mi0) []).outstanding 0 ∧ (miS.localOf 0x4000001000).isSome = true ∧
    miS.loaderErr 0 0x4000001000 [(0, 0)] = none ∧ miS.leavesOf (miS.unitOf 0 1) = [(0, 0)] ∧
    miS.loaderErr 0 0x4000001000 [] = none ∧ { miS with groups := [(0x100, { Group.none with defined := true })] }.leavesOf 0x40000100 = [] ∧
    (miS.freeSlot (miS.lastOf [(0, 0)])).isSome = true ∧ (miS.shape 0 mmDesc (miS.readRecs mmDesc) [(0, 0)]).isSome = true ∧
    miS.targetErr (miS.ctx 0) 0x10000000 = 0 ∧ (miS.strm 0).leaves = [(0, 0)] ∧ miS.farCtx 0 0 0 = some 0 ∧
    ((mmS ((List.range 64).map fun k => { mi0 with strm := 1, slot := k }) []).freeSlot (miS.lastOf [(0, 0)])).isSome = false ∧
    (miS.modCtx 0 fun c => { c with pausing := true }).Runs 0 always ∧ (miFar none).Runs 0 always ∧
    (miFar none).handleErr ((miFar none).unitOf 0 1) = 0 ∧ (miFar none).OwnReady ((miFar none).leavesOf ((miFar none).unitOf 0 1)) ∧
    (miFar none).loaderErr 0 0x4000001000 [(0, 0)] = none ∧ (miFar (some 5)).Answered 0 5 ∧
    (miFar (some 5)).loaderErr 0 0x4000001000 [(0, 0)] = none ∧
    ((miFar (some 5)).shape 0 mmDesc ((miFar (some 5)).readRecs mmDesc) [(0, 0)]).isSome = true := by
  refine ⟨?_, ?_, ?_, ?_, ?_, ?_, ?_, ?_, ?_, ?_, ?_, ?_, ?_, ?_, ?_, ?_, ?_, ?_, ?_, ?_, ?_, ?_, ?_, ?_⟩
  all_goals (first | decide +kernel | (unfold State.Runs State.Issues State.MoreAfter; decide +kernel) |
    (unfold State.OwnReady; decide +kernel) | (unfold State.Answered State.MoreAfter; decide +kernel))
theorem test_sMi_far : ((after (.sMi 0 always 4 1 2) (miFar (some 5))).ctx 0).s 4 = 5 ∧
    (after (.sMi 0 always 4 1 2) (miFar none)).out.sent = [.notice 1 (.ask 0 0 0 (.mi [(0, 0)]))] := by decide +kernel
theorem test_sMi : (after (.sMi 0 always 4 1 2) miS).mis.map MI.total = [1] ∧ ((after (.sMi 0 always 4 1 2) miS).ctx 0).s 4 = 1 := by
  decide +kernel
/-- The block context of core 0 in slot 1 takes the block that slot 0 dispatches. -/
def dispS : State :=
  { ctxS { ctx0 with lead := true, sreg := [(1, 0), (2, 0x10000000)] } with
    ctxs := [(0, { ctx0 with lead := true, sreg := [(1, 0), (2, 0x10000000)] }), (1, { ctx0 with wait := .idle })] }
theorem test_sDisp : ((after (.sDisp 0 always 4 1 2) dispS).ctx 1).wait = .ready ∧
    ((after (.sDisp 0 always 4 1 2) dispS).ctx 1).s 2 = 0x10000000 := by decide +kernel

/-! ### The vector engine -/

/-- A vector form on v4 of v1 and v2 (and v3), active in the lanes where v31 is nonzero. -/
def vop (fmt : BitVec 5) (fn : BitVec 4) : VOp := ⟨4, 1, 2, 3, true, 31, 0, fn, 0, fmt⟩

/-- Lanes 0 and 5 active; v1 = 1.0 and 3.0 there, v2 = 2.0, v3 = 1.0; s1 the local store of core 0, s2 misaligned, s3 behind it. -/
def vecCtx : Ctx :=
  let c := { ctx0 with sreg := [(1, 0x4000000000), (2, 0x4000000001), (3, 0x4000180000)] }
  let c := (c.setLane 31 0 1).setLane 31 5 1
  let c := (c.setLane 1 0 0x3F800000).setLane 1 5 0x40400000
  let c := (c.setLane 2 0 0x40000000).setLane 2 5 0x40000000
  (c.setLane 3 0 0x3F800000).setLane 3 5 0x3F800000

def vecS : State := ctxS vecCtx

/-- Lane l of v4 after a vector instruction. -/
def v4 (i : Instr) (l : Nat) : W32 := ((after i vecS).ctx 0).lane 4 l

/-- Obligations.VectorBits, VectorFloats and VectorReductions: each operation in an integer or a floating-point form that LOAD
admits, with each function its clauses tell apart. -/
theorem witness_vectors : vecS.Issues 0 8 ∧ vecS.MoreAfter 0 8 ∧ (vecS.ctx 0).on always = true ∧
    (∀ k ∈ [0, 1, 2, 3, 4, 5, 6, 7, 8, 13, 14, 15, 20, 23], vOk k (vop 0x0F 0) = true ∧ vOk k (vop 1 0) = true ∧ vOk k (vop 2 0) = true) ∧
    (∀ fn ∈ [0, 1, 2, 3, 4, 5], vOk 6 (vop 0x0F fn) = true ∧ vOk 6 (vop 3 fn) = true) ∧
    (∀ fn ∈ [0, 1, 2, 3], vOk 9 (vop 0x0F fn) = true) ∧ (∀ fn ∈ [0, 1, 2, 8, 9, 10], vOk 10 (vop 0x0F fn) = true) ∧
    (∀ src ∈ [1, 2, 3, 0x0F], vOk 11 { vop 1 0 with vc := src } = true ∧ vOk 11 { vop 2 0 with vc := src } = true) ∧
    (∀ fn ∈ [0, 3, 4, 9], vOk 12 (vop 1 fn) = true) ∧ (∀ fn ∈ [0, 1, 2], vOk 13 (vop 0x0F fn) = true ∧ vOk 22 (vop 1 fn) = true) ∧
    (∀ fn ∈ [0, 3, 8, 11], vOk 21 (vop 0x0F fn) = true) ∧ (∀ fn ∈ [4, 7], vOk 21 (vop 1 fn) = true) := by
  unfold State.Issues State.MoreAfter; decide +kernel

/-- Obligations.VectorMemory: loads, stores, gathers and scatters inside the store of the core, a misaligned base, one behind the
store, and a form that LOAD refuses. -/
theorem witness_VectorMemory : vecS.Faultable 0 ∧ vecS.memOk ∧ (∀ k ∈ [16, 17, 18, 19], vOk k (vop 1 0) = true) ∧
    vecS.ownStore 0 0x4000000000 256 = some 0x4000000000 ∧ (vecS.ctx 0).active (vop 1 0) 5 = true ∧
    (vecS.ownStore 0 0x400017FF00 256).isSome = true ∧ vecS.ownStore 0 0x4000180000 256 = none ∧ (0x4000000001 : W64).toNat % 64 ≠ 0 ∧
    (∀ l, l < 64 → (vecS.ctx 0).active { vop 1 0 with vb := 0 } l = true →
      (vecS.ownStore 0 ((vecS.ctx 0).elemAddr { vop 1 0 with vb := 0 } l) 4).isSome = true) ∧
    vecS.ownStore 0 ((vecS.ctx 0).elemAddr { vop 1 0 with va := 3 } 0) 4 = none ∧ vOk 0 (vop 0 0) = false := by
  refine ⟨?_, ?_, ?_, ?_, ?_, ?_, ?_, ?_, ?_, ?_, ?_⟩
  all_goals (first | decide +kernel | (unfold State.Faultable; decide +kernel) | (unfold State.memOk; decide +kernel))

theorem test_vAdd : v4 (.vAdd 0 always (vop 1 0)) 0 = 0x40400000 ∧ v4 (.vAdd 0 always (vop 1 0)) 5 = 0x40A00000 ∧
    v4 (.vAdd 0 always (vop 1 0)) 1 = 0 := by decide +kernel
theorem test_vSub : v4 (.vSub 0 always (vop 1 0)) 0 = 0xBF800000 := by decide +kernel
theorem test_vMul : v4 (.vMul 0 always (vop 1 0)) 5 = 0x40C00000 := by decide +kernel
theorem test_vFma : v4 (.vFma 0 always (vop 1 0)) 5 = 0x40E00000 := by decide +kernel
theorem test_vMin_vMax : v4 (.vMin 0 always (vop 1 0)) 5 = 0x40000000 ∧ v4 (.vMax 0 always (vop 0x0F 0)) 5 = 0x40400000 := by decide +kernel
theorem test_vUn : v4 (.vUn 0 always (vop 1 0)) 0 = 0xBF800000 ∧ v4 (.vUn 0 always (vop 0x0F 0)) 0 = 0xC0800000 := by decide +kernel
theorem test_vCmp : v4 (.vCmp 0 always (vop 1 2)) 0 = 0xFFFFFFFF ∧ v4 (.vCmp 0 always (vop 1 2)) 5 = 0 := by decide +kernel
theorem test_vSel : v4 (.vSel 0 always (vop 1 0)) 5 = 0x40400000 := by decide +kernel
theorem test_vLog : v4 (.vLog 0 always (vop 0x0F 2)) 0 = 0x7F800000 := by decide +kernel
theorem test_vSh : v4 (.vSh 0 always { vop 0x0F 10 with va := 3, imm := 4 }) 0 = 0x03F80000 := by decide +kernel
theorem test_vCvt : v4 (.vCvt 0 always { vop 0x0F 0 with vc := 1 }) 5 = 3 := by decide +kernel
theorem test_vSfu : v4 (.vSfu 0 always { vop 1 2 with va := 2 }) 0 = 0x3F000000 ∧ v4 (.vSfu 0 always { vop 1 0 with va := 2 }) 0 = 0x40800000 := by decide +kernel
theorem test_vRed : v4 (.vRed 0 always (vop 1 0)) 0 = 0x40800000 ∧ v4 (.vRed 0 always (vop 1 0)) 5 = 0 := by decide +kernel
theorem test_vBcast : v4 (.vBcast 0 always (vop 0x0F 0)) 5 = 0 ∧ v4 (.vBcast 0 always { vop 0x0F 0 with va := 2 }) 5 = 1 := by decide +kernel
theorem test_vExt : ((after (.vExt 0 always { vop 1 0 with imm := 5 }) vecS).ctx 0).s 4 = 0x40400000 := by decide +kernel
theorem test_vIota : v4 (.vIota 0 always { vop 0x0F 0 with va := 2 }) 5 = 6 := by decide +kernel
theorem test_vPerm : v4 (.vPerm 0 always { vop 0x0F 0 with vb := 31 }) 0 = 0 := by decide +kernel
theorem test_vSt : (after (.vSt 0 always { vop 1 0 with vd := 2 }) vecS).bytes 0x4000000014 4 = [0, 0, 0, 0x40] := by decide +kernel
theorem test_vLd : v4 (.vLd 0 always { vop 1 0 with va := 2 }) 0 = 0 ∧
    ((after (.vLd 0 always { vop 1 0 with va := 2 }) vecS).strm 0).lastErr = eAlign := by decide +kernel
theorem test_vGather : ((after (.vGather 0 always { vop 1 0 with va := 3, vb := 0 }) vecS).strm 0).lastErr = eBounds := by decide +kernel
theorem test_vScatter : (after (.vScatter 0 always { vop 1 0 with vb := 0, vc := 1 }) vecS).bytes 0x4000000000 4 = [0, 0, 0x40, 0x40] := by
  decide +kernel
theorem test_vWelford :
    (let c := ((after (.vWelford 0 always (vop 1 0)) vecS).ctx 0)
     (c.lane 4 0, c.lane 5 0, c.lane 6 0)) = (1, 0xBF800000, 0) := by decide +kernel
theorem test_vRng : v4 (.vRng 0 always (vop 0x0F 8)) 1 = 0 := by decide +kernel

/-! ### Rings -/

/-- Stream 0 in state x with leaf core 0 and lead context 0; its rings hold one entry and have space. -/
def ringS (x : SState) : State :=
  { runS with
    streams := [(0, { Stream.empty with state := x, leaves := if x = .empty then [] else [(0, 0)], codeAddr := 0x10000000, codeLen := 0x100 })]
    sregs := [(0, { StreamRegs.reset with cmdRing := 0x14, cplRing := 0x34, cmdTail := 1 })]
    ctxs := if x = .empty then [] else [(0, { ctx0 with lead := true, wait := .stopped })] }

/-- A ring entry of a command code with tag 7 and further fields. -/
def entry (code : Nat) (f : Nat) : BitVec 512 := BitVec.ofNat 512 (code + 7 * 2 ^ 32 + f)

/-- Fields of SAVE and RESTORE: image address and length. -/
def imageAt (a n : Nat) : Nat := a * 2 ^ 64 + n * 2 ^ 128

theorem entryFor_entry : ∀ c ∈ [1, 2, 3, 4, 5, 6, 7, 8, 9], EntryFor (entry c 0) c := by
  unfold EntryFor; intro c h
  simp only [List.mem_cons, List.mem_nil_iff, or_false] at h
  rcases h with rfl | rfl | rfl | rfl | rfl | rfl | rfl | rfl | rfl <;> exact ⟨by decide +kernel, _, rfl, by decide +kernel⟩

/-- Obligations.CommandRefusals: a ring at rest, one whose completion ring is full, an undefined code, a reserved bit, and a state
that does not admit the command. -/
theorem witness_CommandRefusals : ringCmd (.start 0 (entry 3 0)) = some (0, entry 3 0, 3) ∧ runS.ringIdle 0 = true ∧
    (ringS .empty).ringIdle 0 = false ∧ ((ringS .empty).modSreg 0 fun r => { r with cplWr := 16 }).cplBlocked 0 = true ∧
    (ringS .empty).Fetches 0 ∧ ringCmd (.save 0 (entry 6 0)) = some (0, entry 6 0, 6) ∧ ¬Admits 6 SState.empty ∧ EntryFor (entry 6 0) 6 ∧ cmdUsed 0 = none ∧ cmdUsed 10 = none ∧
    reservedBit [(64, 1)] (entry 4 (2 ^ 65)) = some 65 ∧ EntryFor (entry 3 0) 3 ∧ ¬Admits 3 SState.empty := by
  refine ⟨?_, ?_, ?_, ?_, ?_, ?_, ?_, entryFor_entry 6 (by decide), ?_, ?_, ?_, entryFor_entry 3 (by decide), ?_⟩
  all_goals (first | decide +kernel | (unfold State.Fetches; decide +kernel) | (simp [Admits]))

/-- BIND to core 0, which is also the lead core, with a seed of its own. -/
def bindEntry : BitVec 512 := entry 1 (5 * 2 ^ 128)

/-- A seed pool for a drawn seed (bit 108). -/
def seedS : State := { ringS .empty with clusters := [(0, { Cluster.reset with healthy := true, starting := false, pool := [9] })] }

/-- LOAD of n bytes at a with entry ent. -/
def loadEntry (a n ent : Nat) : BitVec 512 := entry 2 (a * 2 ^ 64 + n * 2 ^ 128 + ent * 2 ^ 192)

/-- A program of one s.end at 0x10000000. -/
def codeS (x : SState) : State := (ringS x).putBytes 0x10000000 [0, 0, 0, 0xF8]

/-- Obligations.BindAndLoad: a BIND that is accepted, with a given and a drawn seed; a LOAD that is accepted, and one for each
refusal listed. -/
theorem witness_BindAndLoad : (ringS .empty).Fetches 0 ∧ EntryFor bindEntry 1 ∧ (ringS .empty).bindErr bindEntry none = none ∧
    (ringS .empty).leavesOf 0 = [(0, 0)] ∧ (ringS .empty).OwnReady [(0, 0)] ∧ seedS.bindErr (entry 1 (2 ^ 108)) none = none ∧
    EntryFor (entry 1 (2 ^ 108)) 1 ∧ (codeS .bound).Fetches 0 ∧ Admits 2 SState.bound ∧ (codeS .bound).loadErr (loadEntry 0x10000000 4 0) = none ∧
    EntryFor (loadEntry 0x10000000 4 0) 2 ∧ inStack 0x0A1FFF80 4 = false ∧ inStack 0x10000004 4 = true ∧ inStack 0x10000000 6 = true ∧
    (codeS .bound).loadErr (loadEntry 0x10000000 4 4) = some (eBounds, nameW 1 192) ∧ (ringS .empty).busy .gdef = false ∧
    ((codeS .bound).setPoison (0x10000000 / 128) true).Fetches 0 ∧
    ((codeS .bound).setPoison (0x10000000 / 128) true).poisonIn 0x10000000 4 = some (0x10000000 / 128) := by
  refine ⟨?_, ⟨?_, _, rfl, ?_⟩, ?_, ?_, ?_, ?_, ⟨?_, _, rfl, ?_⟩, ?_, ?_, ?_, ⟨?_, _, rfl, ?_⟩, ?_, ?_, ?_, ?_, ?_, ?_, ?_⟩
  all_goals (first | decide +kernel | (unfold State.Fetches; decide +kernel) | (unfold State.OwnReady; decide +kernel) |
    (simp [Admits]))
theorem test_bind : ((after (.bind 0 bindEntry none) (ringS .empty)).strm 0).state = .bound ∧
    ((after (.bind 0 bindEntry none) (ringS .empty)).ctx 1).lead = true := by decide +kernel
theorem test_load : ((after (.load 0 (loadEntry 0x10000000 4 0)) (codeS .bound)).strm 0).state = .loaded ∧
    ((after (.load 0 (loadEntry 0x10000000 4 4)) (codeS .bound)).strm 0).lastErr = eBounds := by decide +kernel

/-- Obligations.StartPauseResume: START of a loaded stream, PAUSE in both modes with spill space enough and too little, RESUME. -/
theorem witness_StartPauseResume : (ringS .loaded).Fetches 0 ∧ EntryFor (entry 3 0) 3 ∧
    (ringS .loaded).leadCtx 0 = some (0, { ctx0 with lead := true, wait := .stopped }) ∧
    (BitVec.setWidth 64 ((ringS .loaded).strm 0).codeAddr + ((ringS .loaded).strm 0).entry : W64) ≠ ctx0.codeEnd ∧
    (ringS .running).Fetches 0 ∧ (ringS .running).OwnLeaves 0 ∧ EntryFor (entry 4 0) 4 ∧ EntryFor (entry 4 (2 ^ 64)) 4 ∧
    field (entry 4 (2 ^ 64)) 64 1 = 1 ∧ ((ringS .running).strm 0).spillLen.toNat < ((ringS .running).strm 0).leaves.length * 1376256 ∧
    ((ringS .running).modStrm 0 fun x => { x with spillLen := 1376256 }).Fetches 0 ∧
    (ringS .paused).Fetches 0 ∧ EntryFor (entry 5 0) 5 ∧ (ringS .paused).OwnLeaves 0 ∧
    (∀ x ∈ (ringS .paused).ownCtxs 0, (ringS .paused).ctx x.1 = x.2 ∧ x.2.stopping = false ∧ x.2.pc ≠ x.2.codeEnd) ∧
    ((ringS .paused).strm 0).dirty = false ∧ (ringS .paused).mis = [] := by
  refine ⟨?_, ⟨?_, _, rfl, ?_⟩, ?_, ?_, ?_, ?_, ⟨?_, _, rfl, ?_⟩, ⟨?_, _, rfl, ?_⟩, ?_, ?_, ?_, ?_, ⟨?_, _, rfl, ?_⟩, ?_, ?_, ?_, ?_⟩
  all_goals (first | decide +kernel | (unfold State.Fetches; decide +kernel) | (unfold State.OwnLeaves; decide +kernel))
theorem test_start : ((after (.start 0 (entry 3 (9 * 2 ^ 64))) (ringS .loaded)).ctx 0).s 1 = 9 ∧
    ((after (.start 0 (entry 3 0)) (ringS .loaded)).strm 0).state = .running := by decide +kernel
theorem test_pause : ((after (.pause 0 (entry 4 0)) (ringS .running)).strm 0).state = .draining ∧
    ((after (.pause 0 (entry 4 (2 ^ 64))) (ringS .running)).strm 0).lastErr = eBounds := by decide +kernel
/-- A lead context that is ready runs on after a pause in mode 0, to its next s.mi. -/
theorem test_pausing : (let s := (ringS .running).modCtx 0 fun c => { c with wait := .ready, sreg := [] }
    ((after (.pause 0 (entry 4 0)) s).ctx 0).pausing = true ∧ ((after (.pause 0 (entry 4 0)) s).ctx 0).wait = .ready ∧
      ((after (.sMi 0 always 4 1 2) (after (.pause 0 (entry 4 0)) s)).ctx 0).wait = .stopped) := by decide +kernel
theorem test_resume : ((after (.resume 0 (entry 5 0)) (ringS .paused)).ctx 0).wait = .ready := by decide +kernel

/-- Obligations.SaveRestore: SAVE asking for its length, with too little room and, in core 0's local store, with room enough;
RESTORE asking nothing, of too short an image, and of one that is none. -/
theorem witness_SaveRestore : (ringS .paused).Fetches 0 ∧ EntryFor (entry 6 0) 6 ∧ 1 < (ringS .paused).requiredLen 0 ∧
    EntryFor (entry 6 (imageAt 0x20000000 1)) 6 ∧ EntryFor (entry 6 (imageAt 0x20000000 0x400000)) 6 ∧
    (ringS .paused).requiredLen 0 ≤ 0x400000 ∧ inMem 0x20000000 ((ringS .paused).requiredLen 0) = true ∧
    (ringS .paused).memOk ∧ (ringS .paused).OwnLeaves 0 ∧ (ringS .bound).Fetches 0 ∧ Admits 7 SState.bound ∧ EntryFor (entry 7 0) 7 ∧
    EntryFor (entry 7 (imageAt 0x20000000 128)) 7 ∧ inMem 0x20000000 128 = true ∧ ((ringS .bound).num 0x20000008 8) = 0 ∧
    ((ringS .bound).imageErr 0 ((ringS .bound).bytes 0x20000000 0)).1 ≠ 0 ∧ (ringS .paused).Sound ∧ (ringS .paused).flt.lockstep = false := by
  refine ⟨?_, ⟨?_, _, rfl, ?_⟩, ?_, ⟨?_, _, rfl, ?_⟩, ⟨?_, _, rfl, ?_⟩, ?_, ?_, ?_, ?_, ?_, ?_, ⟨?_, _, rfl, ?_⟩, ⟨?_, _, rfl, ?_⟩, ?_, ?_, ?_, ?_, ?_⟩
  all_goals (first | decide +kernel | (unfold State.Fetches; decide +kernel) | (unfold State.OwnLeaves; decide +kernel) |
    (unfold State.memOk; decide +kernel) | (simp [Admits]) | exact ⟨rfl, fun _ => rfl⟩)
theorem test_save : ((after (.save 0 (entry 6 (imageAt 0x20000000 1))) (ringS .paused)).strm 0).lastErr = eBounds := by decide +kernel
theorem test_restore : ((after (.restore 0 (entry 7 (imageAt 0x20000000 64)) []) (ringS .bound)).strm 0).lastErr = eBounds ∧
    ((after (.restore 0 (entry 7 (imageAt 0x20000000 64)) []) (ringS .bound)).strm 0).state = .bound := by decide +kernel

/-- Stream 0 of device 1 is to pause here, in mode 0. -/
def farPause : FarStream := ⟨1, 0, 0, [], some false⟩

/-- Obligations.KillAndFence: KILL in EMPTY and elsewhere; FENCE outside and in DRAINING, pending and met; drains that are and are
not over, toward LOADED and toward PAUSED; a pause of another device's stream. -/
theorem witness_KillAndFence : (ringS .empty).Fetches 0 ∧ (ringS .running).Fetches 0 ∧ (ringS .draining).Fetches 0 ∧
    EntryFor (entry 8 0) 8 ∧ EntryFor (entry 9 0) 9 ∧
    (((ringS .draining).modSreg 0 fun r => { r with ringFence := some (7, 0, .draining) }).sreg 0).ringFence = some (7, 0, .draining) ∧
    (∀ m ∈ (ringS .draining).mis, (ringS .draining).ownMi 0 m = false) ∧ ((ringS .draining).strm 0).disps = [] ∧
    ({ mmS [mi0] [] with streams := (ringS .draining).streams }.drained 0 = false) ∧
    ((ringS .draining).modStrm 0 fun x => { x with drainPaused := true }).drained 0 = true ∧ (ringS .running).busy .gdef = false ∧
    ((ringS .draining).strm 0).farMis = [] ∧ (ringS .draining).fars = [] ∧ (ringS .draining).flt.lockstep = false ∧
    ((ringS .running).strm 0).state ≠ .draining ∧ { ringS .running with fars := [farPause] }.quiet 1 0 false = true := by
  refine ⟨?_, ?_, ?_, entryFor_entry 8 (by decide), entryFor_entry 9 (by decide), ?_, ?_, ?_, ?_, ?_, ?_, ?_, ?_, ?_, ?_, ?_⟩
  all_goals (first | decide +kernel | (unfold State.Fetches; decide +kernel))
theorem test_far_pause : (after (.drainEnd 0) { ringS .running with fars := [farPause] }).out.sent = [.notice 1 (.paused 0 0 [] [] [])] := by
  decide +kernel
theorem test_kill : ((after (.kill 0 (entry 8 0)) (ringS .faulted)).strm 0).state = .empty := by decide +kernel
theorem test_drainEnd : ((after (.drainEnd 0) (ringS .draining)).strm 0).state = .loaded ∧
    ((after (.drainEnd 0) ((ringS .draining).modStrm 0 fun x => { x with drainPaused := true })).strm 0).state = .paused := by decide +kernel

/-- Obligations.Rings: FENCE with completion and cause; doorbells at the fullest and one past it, for an unaligned value too large
for the ring, and for the completion head. -/
theorem witness_Rings : (ringS .running).Fetches 0 ∧ (ringS .running).hif.d3hot = false ∧
    ((ringS .running).sreg 0).cplRing.toNat / 16 % 2 = 1 ∧ ((ringS .running).sreg 0).cplRing.toNat / 32 % 2 = 1 ∧
    (ringS .running).hostUp = true ∧ ((16 : BitVec 16) - ((ringS .running).sreg 0).cmdHead).toNat ≤ 2 ^ 4 ∧
    ¬((17 : BitVec 16) - ((ringS .running).sreg 0).cmdHead).toNat ≤ 2 ^ 4 ∧ ((ringS .running).sreg 0).held = [] ∧
    ¬((1 : BitVec 16) - ((ringS .running).sreg 0).cplHead).toNat ≤ (((ringS .running).sreg 0).cplWr - ((ringS .running).sreg 0).cplHead).toNat := by
  unfold State.Fetches; decide +kernel
theorem test_fence : (after (.fence 0 (entry 9 0)) (ringS .running)).out.hostWrites.map Prod.fst = [8, 0] := by decide +kernel
theorem test_ringMsix : (let s := ringS .running
    (after (.fence 0 (entry 9 0)) { s with hif := { s.hif with msixEn := true, vecOpen := [(0, true)] } }).out.msix = [0] ∧
    (after (.fence 0 (entry 9 0)) s).out.msix = []) := by decide +kernel
theorem test_fenceComplete : ((after (.fenceComplete 0) ((ringS .running).modSreg 0 fun r => { r with ringFence := some (7, 0, .draining) })).sreg 0).ringFence = none := by
  decide +kernel
theorem test_tailDoorbell : ((after (.commandTailDoorbell 0 16) (ringS .running)).sreg 0).cmdTail = 16 ∧
    ((after (.commandTailDoorbell 0 17) (ringS .running)).sreg 0).cmdTail = 1 := by decide +kernel
theorem test_headDoorbell : ((after (.completionHeadDoorbell 0 1) ((ringS .running).modSreg 0 fun r => { r with cplWr := 2 })).sreg 0).cplHead = 1 := by
  decide +kernel

/-! ### An image with its digest -/

theorem shaBlock_length (h : List W64) (b : List Byte) (e : h.length = 8) : (shaBlock h b).length = 8 := by
  simp [shaBlock, ShaVars.list, e]
theorem shaBlocks_length (n : Nat) (m : List Byte) (h : List W64) (e : h.length = 8) : (shaBlocks n m h).length = 8 := by
  induction n generalizing m h with
  | zero => exact e
  | succ n ih =>
    unfold shaBlocks
    split
    · exact e
    · exact ih _ _ (shaBlock_length _ _ e)
theorem beBytes_length (n v : Nat) : (beBytes n v).length = n := by
  have h : ∀ n v, (leBytes n v).length = n := by
    intro n; induction n with
    | zero => intro v; rfl
    | succ n ih => intro v; simp [leBytes, ih]
  simp [beBytes, h]
theorem sha384_length (m : List Byte) : (sha384 m).length = 48 := by
  have h : (shaBlocks ((shaPad m).length / 128) (shaPad m) shaIv).length = 8 := shaBlocks_length _ _ _ (by decide +kernel)
  simp only [sha384, List.length_flatMap, beBytes_length, List.map_const', List.sum_replicate, List.length_take, h]
  rfl

/-- FIPS 180-4's example: the digest of "abc" begins with cb00753f45a35e8b. -/
theorem test_sha384 : (sha384 [0x61, 0x62, 0x63]).take 8 = [0xCB, 0x00, 0x75, 0x3F, 0x45, 0xA3, 0x5E, 0x8B] := by decide +kernel

/-- A clean image of a stream without leaf cores, but for its digest. -/
@[irreducible] def body : List Byte :=
  leBytes 4 0x43585449 ++ leBytes 2 1 ++ [1, 0] ++ leBytes 8 (imgHdr + imgStream + imgCtx) ++ leBytes 2 64 ++ List.replicate (imgHdr + imgStream + imgCtx - 18) 0
@[irreducible] def image : List Byte := patch body 0x40 (imgDigest body)

theorem imgDigest_length : (imgDigest body).length = 48 := sha384_length _
theorem body_length : body.length = imgHdr + imgStream + imgCtx := by decide +kernel
theorem image_eq : image = body.take 64 ++ imgDigest body ++ body.drop 112 := by
  rw [image, patch, imgDigest_length]
theorem image_take : image.take 64 = body.take 64 := by
  rw [image_eq, List.append_assoc, List.take_append_of_le_length (by simp [body_length, imgHdr, imgStream, imgCtx])]
  simp
theorem image_drop : image.drop 112 = body.drop 112 := by
  have h : (body.take 64 ++ imgDigest body).length = 112 := by simp [imgDigest_length, body_length, imgHdr, imgStream, imgCtx]
  rw [image_eq, ← h, List.drop_left]
theorem image_digest : (image.drop 64).take 48 = imgDigest image := by
  have h : (body.take 64).length = 64 := by simp [body_length, imgHdr, imgStream, imgCtx]
  have e : imgDigest image = imgDigest body := by rw [imgDigest, image_take, image_drop]; rfl
  have f : (body.take 64 ++ (imgDigest body ++ body.drop 112)).drop 64 = imgDigest body ++ body.drop 112 := by
    have := List.drop_left (l₁ := body.take 64) (l₂ := imgDigest body ++ body.drop 112)
    rwa [h] at this
  have g := List.take_left (l₁ := imgDigest body) (l₂ := body.drop 112)
  rw [imgDigest_length] at g
  rw [e, image_eq, List.append_assoc, f, g]
theorem image_length : image.length = body.length := by
  rw [image_eq]; simp [imgDigest_length, body_length, imgHdr, imgStream, imgCtx]
theorem image_num (o n : Nat) (h : o + n ≤ 64) : imgNum image o n = imgNum body o n := by
  have e : ∀ l : List Byte, (l.drop o).take n = ((l.take 64).drop o).take n := by
    intro l; rw [List.drop_take, List.take_take, Nat.min_eq_left (by omega)]
  rw [imgNum, imgNum, e image, e body, image_take]
theorem imageErr_clean (s : State) (b : List Byte) (n : Nat) (he : imgEntries b = ([], n)) (hl : ¬b.length < imgHdr + imgStream)
    (hb : ¬(imgNum b 0 4 ≠ 0x43585449 ∨ imgNum b 4 2 ≠ 1 ∨ (imgNum b 6 1 ≠ 1 ∧ imgNum b 6 1 ≠ 2) ∨
      16 < imgNum b 7 1 ∨ imgTotal b ≠ b.length)) (hd : ¬imgDigest b ≠ (b.drop 0x40).take 48) (h6 : imgNum b 6 1 = 1) :
    (s.imageErr 0 b).1 = 0 := by
  unfold State.imageErr
  simp only [he]
  rw [if_neg hl, if_neg hb, if_neg hd, if_neg (by simp), if_pos h6]

theorem image_ok (s : State) : (s.imageErr 0 image).1 = 0 := by
  have h7 : imgNum image 7 1 = 0 := by rw [image_num _ _ (by decide)]; decide +kernel
  have h6 : imgNum image 6 1 = 1 := by rw [image_num _ _ (by decide)]; decide +kernel
  have h0 : imgNum image 0 4 = 0x43585449 := by rw [image_num _ _ (by decide)]; decide +kernel
  have h4 : imgNum image 4 2 = 1 := by rw [image_num _ _ (by decide)]; decide +kernel
  have hn : imgNum image 0x14 4 = 0 := by rw [image_num _ _ (by decide)]; decide +kernel
  have he : imgEntries image = ([], imgHdr + imgStream + imgCtx) := by rw [imgEntries, h7, hn, entriesFrom, Nat.zero_add, Nat.one_mul]
  have ht : imgTotal image = image.length := by
    rw [imgTotal, he, h6, image_length, body_length, if_neg (by decide), Nat.add_zero]
  have hl : ¬image.length < imgHdr + imgStream := by rw [image_length, body_length]; decide
  have hb : ¬(imgNum image 0 4 ≠ 0x43585449 ∨ imgNum image 4 2 ≠ 1 ∨ (imgNum image 6 1 ≠ 1 ∧ imgNum image 6 1 ≠ 2) ∨
      16 < imgNum image 7 1 ∨ imgTotal image ≠ image.length) := by
    rw [h0, h4, h6, h7, ht]; simp
  have hd : ¬imgDigest image ≠ (image.drop 0x40).take 48 := fun h => h image_digest.symm
  exact imageErr_clean s image _ he hl hb hd h6

theorem mread_slice (d : Nat → Byte) (m : List (Nat × Byte)) (a k n N : Nat) (h : k + n ≤ N) :
    mread d m (a + k) n = ((mread d m a N).drop k).take n := by
  induction k generalizing a N with
  | zero =>
    induction n generalizing a N with
    | zero => simp [mread]
    | succ n ih =>
      match N, h with
      | 0, h => omega
      | N + 1, h =>
        have := ih (a + 1) N (by omega)
        simp only [Nat.add_zero, List.drop_zero] at this ⊢
        simp only [mread, List.take_succ_cons, this]
  | succ k ih =>
    match N, h with
    | 0, h => omega
    | N + 1, h =>
      have := ih (a + 1) N (by omega)
      rw [show a + (k + 1) = a + 1 + k by omega, this]
      simp [mread]

/-- Stream 0 in BOUND, the image in the stack at 0x20000000. -/
def restoreS : State := (ringS .bound).putBytes 0x20000000 image

theorem restoreS_bytes : restoreS.bytes 0x20000000 (imgHdr + imgStream + imgCtx) = image := by
  have h := State.putBytes_bytes (ringS .bound) (by decide +kernel) 0x20000000 image
  rwa [image_length, body_length] at h

theorem restoreS_total : restoreS.num 0x20000008 8 = imgHdr + imgStream + imgCtx := by
  have h := mread_slice restoreS.dflt restoreS.mem 0x20000000 8 8 (imgHdr + imgStream + imgCtx) (by decide)
  have e : restoreS.num 0x20000008 8 = imgNum image 8 8 := by
    rw [State.num, State.bytes, h]
    exact congrArg (fun l => leNat ((l.drop 8).take 8)) restoreS_bytes
  rw [e, image_num _ _ (by decide)]
  decide +kernel

/-- Obligations.SaveRestore: RESTORE of an image that passes the checks. -/
theorem witness_Restore : restoreS.Fetches 0 ∧ EntryFor (entry 7 (imageAt 0x20000000 0x4000)) 7 ∧ Admits 7 SState.bound ∧
    inMem 0x20000000 0x4000 = true ∧ restoreS.num 0x20000008 8 ≤ 0x4000 ∧ restoreS.poisonIn 0x20000000 0x4000 = none ∧
    (restoreS.imageErr 0 (restoreS.bytes 0x20000000 (restoreS.num 0x20000008 8))).1 = 0 := by
  refine ⟨by unfold State.Fetches; decide +kernel, ⟨by decide +kernel, _, rfl, by decide +kernel⟩, by simp [Admits],
    by decide +kernel, by rw [restoreS_total]; decide, by decide +kernel, ?_⟩
  rw [restoreS_total, restoreS_bytes, image_ok]

/-- A paused stream without leaf cores. -/
def pausedS : State :=
  { ringS .paused with streams := [(0, { Stream.empty with state := .paused, codeAddr := 0x10000000, codeLen := 0x100 })] }

/-- The same beside device 1, which lies behind port 3. -/
def pausedFar : State := { pausedS with fab := farS.fab, ports := farS.ports }

/-- Obligations.SaveRestore: SAVE with room enough, here and on another device, and to an address without memory. -/
theorem witness_Save : pausedS.Fetches 0 ∧ EntryFor (entry 6 (imageAt 0x20000000 0x4000)) 6 ∧ pausedS.requiredLen 0 ≤ 0x4000 ∧
    inMem 0x20000000 (pausedS.requiredLen 0) = true ∧ (pausedS.imageOf 0).length = pausedS.requiredLen 0 ∧ pausedS.memOk ∧
    pausedS.OwnLeaves 0 ∧ (pausedS.imagePlaceErr 0x3000000000 (pausedS.requiredLen 0)).isSome = true ∧ pausedFar.Fetches 0 ∧
    EntryFor (entry 6 (imageAt 0x1000020000000 0x4000)) 6 ∧ pausedFar.imagePlaceErr 0x1000020000000 (pausedFar.requiredLen 0) = none := by
  refine ⟨?_, ⟨?_, _, rfl, ?_⟩, ?_, ?_, ?_, ?_, ?_, ?_, ?_, ⟨?_, _, rfl, ?_⟩, ?_⟩
  all_goals (first | decide +kernel | (unfold State.Fetches; decide +kernel) | (unfold State.OwnLeaves; decide +kernel) |
    (unfold State.memOk; decide +kernel))

/-! ### Macro-instructions and tiles -/

/-- Obligations.ExactAccumulation: a sum with products, flagged accumulators, and words inside the range with correct residues. -/
theorem witness_ExactAccumulation :
    (let x : Acc := [(Num.num false 1 1 0, Num.num false 3 1 0)].foldl (fun x e => x.addProd (-10) false e.1 e.2) Acc.zero
     x.nan = false ∧ x.pinf = false ∧ x.ninf = false ∧ x.ok = true ∧ x.a ≠ 0 ∧ -2 ^ 607 ≤ x.a.toInt + 1 ∧ x.a.toInt + 1 < 2 ^ 607 ∧
       x.a.toInt + x.a.toInt < 2 ^ 607) ∧
    (let x : Acc := [(Num.inf false, Num.num false 1 1 0), (Num.inf true, Num.num false 1 1 0)].foldl (fun x e => x.addProd 0 false e.1 e.2) Acc.zero
     x.pinf = true ∧ x.ninf = true) := by decide +kernel

/-- Obligations.MacroWaits: an order wait that is and is not met, scans that pass; a macro-instruction with tiles left and one with
none, and a context that waits for its ticket. -/
theorem witness_MacroWaits :
    (mmS [{ mi0 with waiting := true, scanned := false }] []).hereMi 0 0 = some { mi0 with waiting := true, scanned := false } ∧
    (mmS [{ mi0 with waiting := true }] []).orderMet { mi0 with waiting := true } = true ∧
    (let late := { mi0 with ticket := 1, desc := setBits mmDesc 30 2 1, waiting := true }
     (mmS [mi0, late] []).hereMi 0 1 = some late ∧ (mmS [mi0, late] []).orderMet late = false) ∧
    (mmS [mi0] []).spanPoison (scanSpans mi0) = none ∧ (mmS [mi0] []).scanErr mi0.desc mi0.recs = none ∧ mi0.team ≠ 0 ∧
    (mmS [mi0] []).findMi 0 0 0 = some mi0 ∧ mi0.retired < mi0.total ∧
    (let m := { mi0 with next := 1, claimed := 1, retired := 1 }
     let s := (mmS [m] []).setCtx 0 { ctx0 with wait := .mwait 0 }
     s.findMi s.own 0 0 = some m ∧ m.total ≤ m.retired ∧ s.writesPending m = false ∧ s.lastWrites m = [] ∧ s.ctxsOk ∧
       m.lastOut = false ∧ m.presOrs = [] ∧ s.memOk ∧ s.allHere m = true ∧ (∀ x ∈ s.mis, x.unpublished = false ∧ x.slotless = false) ∧ (s.strm 0).asks = [] ∧
       ∀ e ∈ s.ctxs, e.2.wait = .mwait 0 → e.2.stopping = false ∧ e.2.pc + 4 ≠ e.2.codeEnd) := by
  unfold State.ctxsOk State.memOk; decide +kernel

/-- How lines of other devices stand: 0 here, 1 waited for, 2 failed. -/
def fetched : Fetch → Nat
  | .ready _ => 0
  | .wait _ => 1
  | .failed _ _ _ => 2

theorem fetched_ready {f : Fetch} (h : fetched f = 0) : ∃ u, f = .ready u := by cases f <;> simp_all [fetched]
theorem fetched_wait {f : Fetch} (h : fetched f = 1) : ∃ u, f = .wait u := by cases f <;> simp_all [fetched]

/-- Macro-instruction m waiting in farS's fabric, tiles ts on core 0. -/
def farMiS (m : MI) (ts : List Tile) : State := { mmS [m] ts with fab := farS.fab, ports := farS.ports }
/-- mi0 with an INDEX record, and with A, on device 1. -/
def farIdx : MI := { mi0 with waiting := true, scanned := false, recs := mmRecs ++ [rec16 roleIndex 0x1000020000000] }
def farA : MI := { mi0 with recs := [rec16 0 0x1000020000000, rec16 1 0x20000080, rec16 2 0x20000100] }

/-- Obligations.MacroWaits: scans that read another device. -/
theorem witness_MacroWaits_far : (farMiS farIdx []).hereMi 0 0 = some farIdx ∧ (farMiS farIdx []).orderMet farIdx = true ∧
    ∃ u, (farMiS farIdx []).fetchScan farIdx 0 = .wait u :=
  ⟨by decide +kernel, by decide +kernel, fetched_wait (by decide +kernel)⟩
theorem test_far_scan : (after (.orderWaitMet 0 0) (farMiS farIdx [])).mis.map MI.waiting = [true] ∧
    (after (.orderWaitMet 0 0) (farMiS farIdx [])).farBuf.length = 1 := by decide +kernel
theorem test_orderWaitMet : (after (.orderWaitMet 0 0) (mmS [{ mi0 with waiting := true }] [])).mis.map MI.waiting = [false] := by decide +kernel
theorem test_miRetire : (after (.miRetire 0 0) (mmS [{ mi0 with next := 1, claimed := 1, retired := 1 }] [])).mis = [] ∧
    (after (.miRetire 0 0) (mmS [mi0] [])).mis.length = 1 := by decide +kernel

/-- Obligations.Claims: a core that may claim, one that is fenced, one with four tiles; a range claim of another device, one of a
stopped macro-instruction, and the tiles this device is granted. -/
theorem witness_Claims : (mmS [mi0] []).canClaim 0 = true ∧
    ((oldestEach [] ((mmS [mi0] []).mis.filter fun x => (mmS [mi0] []).offers x 0)).filter fun x =>
      (mmS [mi0] []).offerOk x 0 && !(mmS [mi0] []).yields x 0) = [mi0] ∧ mi0.returned = [] ∧ mi0.taken = [] ∧
    ((mmS [mi0] []).modCore 0 fun k => { k with fenced := true }).coreFenced 0 = true ∧
    4 ≤ ((mmS [mi0] [tile0, tile0, tile0, tile0]).core 0).tiles.length ∧
    (let m := { mi0 with atDevice := true, leaves := [(0, 0), (1, 0)], total := 17 }
     (mmS [m] []).hereMi 0 0 = some m ∧ m.ready = true ∧ (∃ l ∈ m.leaves, l.1 = (1 : BitVec 16).toNat) ∧ m.parts ≤ 1 ∧ min 16 (m.total - m.next) = 16) ∧
    (let m := { mi0 with stopped := true }; (mmS [m] []).hereMi 0 0 = some m) ∧
    (let m := { mi0 with home := 1, here := false }
     let s := { mmS [m] [] with fab := farS.fab }
     s.isLive 1 = true ∧ (1 : Nat) ≠ s.own ∧ s.findMi 1 0 0 = some m ∧ s.unstartedOf m < 4) := by decide +kernel
theorem test_tileClaim : ((after (.tileClaim 0) (mmS [mi0] [])).core 0).tiles = [tile0] ∧
    (after (.tileClaim 0) (mmS [mi0] [])).mis.map MI.claimed = [1] := by decide +kernel
theorem test_rangeClaim :
    (let m := { mi0 with atDevice := true, leaves := [(0, 0), (1, 0)] }
     (after (.rangeClaim (.serve 1 0 0)) (mmS [m] [])).out.sent = [.range 1 0 0 [0]]) := by decide +kernel

/-- The tile after its only load. -/
def loaded : Tile := { tile0 with started := true, loads := 1 }

/-- The accumulator 6 of the product. -/
def acc6 : Acc := Acc.zero.addProd mi0.base false (Num.num false 2 1 0) (Num.num false 3 1 0)

/-- Core 0 with the accumulator of its loaded tile. -/
def loadedS (m : MI) (t : Tile) : State := (mmS [m] [t]).modCore 0 fun k => { k with acc := [(0, acc6)] }

/-- A load whose pieces and lane are asked for with the front of the load before, and nothing ahead. -/
def onTime : FrontIn := ⟨0, 0, 0, 0, 0, 0, none⟩

/-- A second tile of a macro-instruction of two. -/
def mi2 : MI := { mi0 with desc := setBits mmDesc 88 32 8, total := 2, nm := 2 }
def tile1 : Tile := { tile0 with idx := 1 }

/-- Obligations.LoadFronts: the first load of a tile; one held for a known-answer load; one whose A lies on another device; one that
reads a poisoned line; the pieces of the next load, of the tile behind it. -/
theorem witness_LoadFronts : (mmS [mi0] [tile0]).up = true ∧ (mmS [mi0] [tile0]).workTile 0 = some (tile0, mi0) ∧
    mi0.mayRun tile0 = true ∧ (mmS [mi0] [tile0]).promptStop 0 0 = false ∧ (mmS [mi0] [tile0]).allHere mi0 = true ∧
    (mmS [mi0] [tile0]).loadHeld 0 mi0 tile0 = false ∧ (mi0.loadAt (mmS [mi0] [tile0]) tile0 0).isSome = true ∧
    (mmS [mi0] [tile0]).loadFault mi0 tile0 0 = none ∧ mi0.rpa tile0 = 1 ∧
    (let s := (mmS [mi0] [tile0]).modCore 0 fun k => { k with mustKat := true }
     s.workTile 0 = some (tile0, mi0) ∧ s.loadHeld 0 mi0 tile0 = true) ∧
    (let s := (mmS [mi0] [tile0]).setPoison (0x20000000 / 128) true
     s.workTile 0 = some (tile0, mi0) ∧ s.loadHeld 0 mi0 tile0 = false ∧ (s.loadFault mi0 tile0 0).isSome = true) ∧
    (let s := mmS [mi2] [tile0, tile1]
     s.workTile 0 = some (tile0, mi2) ∧ (s.nextLoad 0 mi2 tile0 0).map (fun e => (e.1, e.2.2)) = some (tile1, 0) ∧
       (mi2.loadAt s tile1 0).isSome = true ∧ mi2.needBlock s tile1 0 = none ∧ (s.core 0).mustKat = false ∧ tile0.saved = none) ∧
    (let s := farMiS farA [tile0]
     s.workTile 0 = some (tile0, farA) ∧ s.loadHeld 0 farA tile0 = false ∧ (farA.loadAt s tile0 0).isSome = true) := by decide +kernel
theorem witness_LoadFronts_far : (∃ r, (farMiS farA [tile0]).fetchScan farA 0 = .ready r) ∧
    (∃ v, (farMiS farA [tile0]).fetchFor farA 0 (.load 0 0) (fun s => s.loadSpans farA tile0 0) = .wait v) ∧
    (∃ u, { farMiS farIdx [tile0] with mis := [{ farIdx with waiting := false }] }.fetchScan { farIdx with waiting := false } 0 = .wait u) :=
  ⟨fetched_ready (by decide +kernel), fetched_wait (by decide +kernel), fetched_wait (by decide +kernel)⟩
theorem test_loadFront : ((after (.loadFront 0 onTime) (mmS [mi0] [tile0])).core 0).acc = [(0, acc6)] ∧
    ((after (.loadFront 0 onTime) (mmS [mi0] [tile0])).core 0).tiles = [loaded] ∧
    ((after (.loadFront 0 { onTime with ahead := some 5 }) (mmS [mi2] [tile0, tile1])).core 0).arr.nxtV = true := by decide +kernel
/-- The worked example of R86: a load of 64 vectors whose lane starts in time follows one of 64 without a gap. -/
theorem test_front_clock : (let s := (mmS [mi0] [tile0]).modCore 0 fun k => { k with arr := { k.arr with frontM := 64, realM := 64 } }
    ((after (.loadFront 0 onTime) s).core 0).arr.frontF = 64 ∧
    ((after (.loadFront 0 { onTime with late := 40 }) s).core 0).arr.frontF = 72) := by decide +kernel

/-- mi0 with a BIAS on device 1, chain 1. -/
def farBias : MI := { mi0 with desc := setBits mmDesc 32 5 1, recs := mmRecs ++ [rec16 roleBias 0x1000020000000 + 16] }

/-- Obligations.Readouts: the row of a loaded tile, and an upset bit in it. -/
theorem witness_Readouts : (loadedS mi0 loaded).up = true ∧ (loadedS mi0 loaded).workTile 0 = some (loaded, mi0) ∧ 0 < mi0.rpa loaded ∧ 0 < mi0.tileRows loaded ∧
    (loadedS mi0 loaded).readable mi0 loaded = true ∧ (loadedS mi0 loaded).allHere mi0 = true ∧
    (∀ z ∈ (loadedS mi0 loaded).readAccs 0 mi0 loaded 0 none, z.ok = true) ∧ (loadedS mi0 loaded).rowErr mi0 loaded 0 = none ∧
    dOp mi0.desc ≠ opSample ∧ ((loadedS mi0 loaded).rowRes 0 mi0 loaded 0).isSome = true ∧
    0 < ((loadedS mi0 loaded).readAccs 0 mi0 loaded 0 none).length ∧
    (∃ z ∈ (loadedS mi0 loaded).readAccs 0 mi0 loaded 0 (some ⟨0, 5⟩), z.ok = false) ∧
    (loadedS farBias loaded |>.workTile 0) = some (loaded, farBias) := by decide +kernel
theorem witness_Readouts_far :
    (∃ v, { loadedS farBias loaded with fab := farS.fab, ports := farS.ports }.fetchFor farBias 0 (.row 0 0)
      (fun s => s.rowSpans farBias loaded 0) = .wait v) := fetched_wait (by decide +kernel)
theorem test_readout : ((after (.readout 0 0 0 none) (loadedS mi0 loaded)).core 0).tiles = [{ loaded with outs := [row6] }] ∧
    (after (.readout 0 0 0 (some ⟨0, 5⟩)) (loadedS mi0 loaded)).flt.latch.map (fun q => q.1.code) = [eResidue] := by decide +kernel

/-- m.mm with softmax over the row (chain 14), and the first of two parts of a reduction of 64. -/
def rowMi : MI := { mi0 with desc := setBits mmDesc 32 5 14 }
def partMi : MI := { mi0 with desc := setBits mmDesc 152 32 64, chunks := 2, parts := 2, total := 2, mergeSlots := [(0, 3)] }

theorem badLine_clean (s : State) (hu : s.upsets = []) (hv : s.vaults = []) (ln : Nat) : s.badLine ln = s.poisoned ln := by
  have h : ∀ v q, s.decodeLine v q = .clean := fun v q => by
    simp [State.decodeLine, decodeSymbols, State.symbolErrors, hu, State.vault, hv]
    decide
  simp [State.badLine, h]

/-- The tile read out. -/
def readTile : Tile := { loaded with outs := [row6] }
/-- The same part, of device 1's counter. -/
def farPart : MI := { partMi with home := 1, here := false }
def farTile : Tile := { loaded with home := 1 }
/-- A class R row with a BIAS on device 1. -/
def farRow : MI := { rowMi with recs := farBias.recs }

/-- Obligations.TeamTiles: the row of a team of one, of a team not complete, and one whose BIAS lies on another device; a tile read
out; a part that merges here, and one of another device's counter. -/
theorem witness_TeamTiles : (loadedS rowMi loaded).findMi 0 0 0 = some rowMi ∧ classR rowMi.desc = true ∧ rowMi.teamRow 0 0 = none ∧
    0 < dBatch rowMi.desc ∧ 0 < dM rowMi.desc ∧
    rowMi.team ≤ ((loadedS rowMi loaded).membersOf rowMi 0 0).length ∧
    (∀ e ∈ (loadedS rowMi loaded).membersOf rowMi 0 0, (loadedS rowMi loaded).readable rowMi e.2 = true ∧
      ∀ y ∈ (loadedS rowMi loaded).rowAccs e.1 rowMi e.2 (0 % rowMi.tm) none, y.ok = true) ∧
    ((mmS [rowMi] []).membersOf rowMi 0 0).length < rowMi.team ∧
    (let s := loadedS mi0 readTile
     s.up = true ∧ s.retirable (s.core 0).tiles = some (readTile, mi0) ∧ mi0.isRead readTile = true ∧ (∀ e ∈ s.mates mi0 readTile, mi0.isRead e.2 = true) ∧
       s.memOk ∧ (∀ ln, s.badLine ln = s.poisoned ln) ∧
       (∀ w ∈ readTile.outs.flatMap RowOut.writes, w.1 / 2 ^ 48 = s.own ∧ inMem (w.1 % 2 ^ 48) w.2.length = true) ∧
       (readTile.outs.flatMap RowOut.writes).Pairwise (fun v w => v.1 + v.2.length ≤ w.1 ∨ w.1 + w.2.length ≤ v.1)) ∧
    (let s := loadedS partMi loaded
     s.retirable (s.core 0).tiles = some (loaded, partMi) ∧ partMi.isRead loaded = false ∧ partMi.loadCount s loaded ≤ loaded.loads ∧
       loaded.katOwed = false ∧ partMi.mayRun loaded = true ∧ loaded.loads ≠ 0 ∧ partMi.here = true ∧
       s.readable partMi loaded = false ∧ partMi.mergeSlots.find? (fun e => decide (e.1 = partMi.blockNo (partMi.at_ loaded).1)) = some (0, 3) ∧
       (∀ a ∈ partMi.mergeCells s loaded, (tget Acc.zero (s.core 0).acc a).ok = true) ∧ (partMi.mergeCells s loaded).Nodup) ∧
    (let s := { loadedS farPart farTile with fab := farS.fab }
     s.retirable (s.core 0).tiles = some (farTile, farPart) ∧ farPart.here = false ∧ farTile.asked = false ∧ s.readable farPart farTile = false ∧
       (∀ a ∈ farPart.mergeCells s farTile, (tget Acc.zero (s.core 0).acc a).ok = true)) ∧
    (let x := { farTile with asked := true }
     let s := { loadedS farPart x with fab := farS.fab }
     s.retirable (s.core 0).tiles = some (x, farPart) ∧ s.readable farPart x = false) := by
  refine ⟨?_, ?_, ?_, ?_, ?_, ?_, ?_, ?_, ⟨?_, ?_, ?_, ?_, ?_, badLine_clean _ rfl rfl, ?_, ?_⟩, ?_, ?_, ?_⟩
  all_goals first | decide +kernel | (unfold State.memOk; decide +kernel)
theorem witness_TeamTiles_far :
    ∃ v, { loadedS farRow loaded with fab := farS.fab, ports := farS.ports }.fetchFor farRow 0 (.team 0 0) (fun _ =>
      ((recOf farRow.recs roleBias).map fun z => (rAddr z, rowBytes (rFmt z) (dN farRow.desc))).toList) = .wait v :=
  fetched_wait (by decide +kernel)
theorem test_teamStatsCombine : (after (.teamStatsCombine 0 0 0 0) (loadedS rowMi loaded)).mis.map (fun m => m.teamRows.length) = [1] := by
  decide +kernel
theorem test_tileRetire :
    (let t := after (.tileRetire 0) (loadedS mi0 readTile)
     t.bytes 0x20000100 4 = [0, 0, 0xC0, 0x40] ∧ (t.core 0).tiles = [] ∧ t.mis.map MI.retired = [1]) ∧
    (let t := after (.tileRetire 0) (loadedS partMi loaded)
     tget Acc.zero t.merge (3 * 16384) = acc6 ∧ t.mis.map MI.mergeDone = [[(0, 0)]]) := by decide +kernel

/-! ### Riffle, noise and codebooks -/

/-- A core whose passes advanced and whose known-answer loads stood still for n nanoseconds. -/
def lateS (n : W64) : State := { runS with time := n, cores := [(0, { Core.reset with passSeq := 1 })] }

/-- A machine whose cluster 0 is x. -/
def clS (x : Cluster) : State := { runS with clusters := [(0, x)] }

/-- Core 0 of a cluster with dummies on, n steps down the ramp. -/
def rampS (n : BitVec 4) : State :=
  { clS { Cluster.reset with riffleCfg := 0x00400001 } with cores := [(0, { Core.reset with rif := { Riffle.reset with rampStep := n } })] }

theorem tget_range (d : Acc) (f : Nat → Acc) (n k m : Nat) (h : k ≤ m) (h' : m < k + n) :
    tget d ((List.range' k n).map fun i => (i, f i)) m = f m := by
  induction n generalizing k with
  | zero => omega
  | succ n ih =>
    simp only [List.range'_succ, List.map_cons, tget]
    rcases Nat.eq_or_lt_of_le h with rfl | h
    · simp
    · rw [if_neg (by omega), if_neg (by omega)]; exact ih _ h (by omega)

/-- Check accumulators that hold the answers of pattern p. -/
def answers (p : Nat) : Table Acc := (List.range' 0 256).map fun i => (i, katSum p (i / 64) (i % 64))
theorem answers_at (p m : Nat) (h : m < 256) : tget Acc.zero (answers p) m = katSum p (m / 64) (m % 64) :=
  tget_range _ (fun i => katSum p (i / 64) (i % 64)) 256 0 m (by omega) (by omega)

theorem katRow_false (p : Nat) (l : Table Acc) (a : Nat) (h : ∀ j, j < 64 → tget Acc.zero l (a * 64 + j) = katSum p a j) :
   ((List.range 64).any fun j => decide (tget Acc.zero l (a * 64 + j) ≠ katSum p a j)) = false := by
  rw [List.any_eq_false]
  intro j hj
  simp [h j (List.mem_range.mp hj)]

theorem katFailing_zero (p : Nat) (l : Table Acc) (h : ∀ a j, a < 4 → j < 64 → tget Acc.zero l (a * 64 + j) = katSum p a j) :
    katFailing p l = 0 := by
  have e : ((List.range 4).map fun a => 2 ^ a * b2n ((List.range 64).any fun j => decide (tget Acc.zero l (a * 64 + j) ≠ katSum p a j))) =
      (List.range 4).map fun _ => 0 :=
    List.map_congr_left fun a ha => by rw [katRow_false p l a fun j => h a j (List.mem_range.mp ha)]; rfl
  rw [katFailing, e]; rfl

theorem katFailing_ne (p : Nat) (l : Table Acc) (h : tget Acc.zero l 128 ≠ katSum p 2 0) : katFailing p l ≠ 0 := by
  have e : ((List.range 64).any fun j => decide (tget Acc.zero l (2 * 64 + j) ≠ katSum p 2 j)) = true :=
    List.any_eq_true.mpr ⟨0, by simp, by simpa using h⟩
  have f : ∀ a b d : Bool, BitVec.ofNat 4 (b2n a + 2 * b2n b + 4 + 8 * b2n d) ≠ 0 := by decide
  intro g
  refine f ((List.range 64).any fun j => decide (tget Acc.zero l (0 * 64 + j) ≠ katSum p 0 j))
    ((List.range 64).any fun j => decide (tget Acc.zero l (1 * 64 + j) ≠ katSum p 1 j))
    ((List.range 64).any fun j => decide (tget Acc.zero l (3 * 64 + j) ≠ katSum p 3 j)) ?_
  rw [← g, katFailing]
  have r : List.range 4 = [0, 1, 2, 3] := rfl
  rw [r]
  simp only [List.map_cons, List.map_nil, e, List.sum_cons, List.sum_nil]
  congr 1
  simp [b2n, Nat.add_assoc]

theorem upset_ne (x : Acc) : x.upset ⟨2, 0, 1, 0, 0⟩ ≠ x := fun h => by
  have h := congrArg (fun z => z.a.getLsbD 0) h
  simp [Acc.upset] at h

theorem answers_kat (p a j : Nat) (ha : a < 4) (hj : j < 64) : tget Acc.zero (answers p) (a * 64 + j) = katSum p a j := by
  rw [answers_at p _ (by omega), show (a * 64 + j) / 64 = a by omega, show (a * 64 + j) % 64 = j by omega]

theorem kat_pass : katFailing 0 (upsetChecks (answers 0) []) = 0 := katFailing_zero 0 _ (answers_kat 0)

theorem kat_fail : katFailing 0 (upsetChecks (answers 0) [⟨2, 0, 1, 0, 0⟩]) ≠ 0 :=
  katFailing_ne 0 _ (by
    rw [show upsetChecks (answers 0) [⟨2, 0, 1, 0, 0⟩] = tput (answers 0) 128 ((tget Acc.zero (answers 0) 128).upset ⟨2, 0, 1, 0, 0⟩) from rfl,
      tget_tput_same, answers_at 0 128 (by decide)]
    exact upset_ne _)

/-- Core 0 in a state of its known-answer loads; while one runs, its check accumulators hold the answers of pattern 0. -/
def katS (k : Kat) : State := (mmS [mi0] [tile0]).modCore 0 fun x =>
  { x with rif := { x.rif with kat := k, check := if k = .running then answers 0 else [] } }

theorem witness_KatVerdict : (∀ a j, a < 4 → j < 64 → tget Acc.zero ((katS .running).core 0).rif.check (a * 64 + j) = katSum 0 a j) ∧
    katFailing 0 (upsetChecks ((katS .running).core 0).rif.check []) = 0 ∧
    katFailing 0 (upsetChecks ((katS .running).core 0).rif.check [⟨2, 0, 1, 0, 0⟩]) ≠ 0 := by
  have h : ((katS .running).core 0).rif.check = answers 0 := rfl
  rw [h]
  exact ⟨answers_kat 0, kat_pass, kat_fail⟩

/-- 1,024 and 4,096 raw bits that alternate. -/
def raw1 : BitVec 1024 := BitVec.ofNat 1024 ((2 ^ 1024 - 1) / 3)
def raw4 : BitVec 4096 := BitVec.ofNat 4096 ((2 ^ 4096 - 1) / 3)
def healthyS (n : Nat) : State := clS { Cluster.reset with healthy := true, starting := false, pool := List.replicate n 0 }

/-- Obligations.RiffleAndNoise: a load due, started with work and after a fence, running and ended with and without a failure; a ramp
that falls; the snapshot at and past its limit; sources in and out of service, with pools of 15 and 16 seeds, and raw bits that pass
and that fail each test. -/
theorem witness_RiffleAndNoise : (katS .due).up = true ∧ ((katS .due).workTile 0).isSome = true ∧ ((katS .due).core 0).rif.kat = .due ∧
    ((katS .due).core 0).arr.nxtV = false ∧
    runS.workTile 0 = none ∧ (runS.core 0).katGate = false ∧ ((katS .running).core 0).rif.kat = .running ∧ (katS .running).flt.lockstep = false ∧
    bit ((rampS 7).cluster 0).riffleCfg 0 = true ∧ ((rampS 7).core 0).rif.kat ≠ .running ∧ ((rampS 7).core 0).rif.rampStep.toNat < 8 ∧
    ((lateS 1500000).core 0).katSeq = ((lateS 1500000).core 0).rif.snapKat ∧ ((lateS 1500000).core 0).passSeq ≠ ((lateS 1500000).core 0).rif.snapPass ∧
    (lateS 1500000).time.toNat - ((lateS 1500000).core 0).rif.snapAt.toNat ≤ 1500000 ∧ 1500000 < (lateS 1500001).time.toNat ∧
    (healthyS 15).pins.corePower = true ∧ ((healthyS 15).cluster 0).pool.length < 16 ∧ 16 ≤ ((healthyS 16).cluster 0).pool.length ∧
    ((healthyS 0).cluster 0).healthy = true ∧ ((clS Cluster.reset).cluster 0).starting = true ∧ (healthyS 0).flt.lockstep = false ∧
    ((clS { Cluster.reset with starting := false }).cluster 0).healthy = false ∧
    (Health.reset.bits (rawBits raw1)).2 = none ∧ (Health.reset.bits (rawBits raw4)).2 = none ∧
    (Health.reset.bits (List.replicate 40 true)).2 = none ∧ (Health.reset.bits (List.replicate 41 true)).2 = some .rct ∧
    (Health.reset.bits (rawBits (0 : BitVec 1024))).2 = some .rct ∧ (Health.reset.bits (rawBits (0 : BitVec 4096))).2 = some .rct ∧
    (Health.reset.bits ((List.range 1024).map fun k => decide (k % 8 ≠ 7))).2 = some .apt := by decide +kernel
theorem test_kat : ((after (.katDue 0) (katS .idle)).core 0).rif.kat = .due ∧ ((after (.katForced 0) (katS .due)).core 0).rif.kat = .forced ∧
    ((after (.katStart ⟨0, 5⟩) (katS .due)).core 0).rif.kat = .running ∧ ((after (.katStart ⟨0, 5⟩) (katS .due)).core 0).arr.frontF = 37 := by
  decide +kernel
theorem test_riffleRampStep : ((after (.riffleRampStep 0) (rampS 7)).core 0).rif.rampStep = 8 ∧
    ((after (.riffleRampStep 0) (rampS 8)).core 0).rif.rampStep = 8 := by decide +kernel
theorem test_riffleSnapshot : (after .riffleSnapshot (lateS 1500000)).flt.latch = [] ∧
    (after .riffleSnapshot (lateS 1500001)).flt.latch.map (fun q => q.1.code) = [eRiffleLate] := by decide +kernel
/-- The SHA-384 digest of 128 bytes 0x55 begins with 0c9dd89373d02002 (computed with another implementation). -/
theorem test_seedRefill : ((after (.seedRefill 0 raw1) (healthyS 0)).cluster 0).pool = [0x0220D07393D89D0C] ∧
    ((after (.seedRefill 0 0) (healthyS 1)).cluster 0).pool = [] := by decide +kernel
theorem test_noise : ((after (.noiseHealthFail 0 (List.replicate 41 true)) (healthyS 1)).cluster 0).pool = [] ∧
    ((after (.noiseStartupPass ⟨0, raw4⟩) (clS Cluster.reset)).cluster 0).healthy = true ∧
    ((after (.noiseRestart 0) (clS { Cluster.reset with starting := false })).cluster 0).starting = true := by decide +kernel

/-- VQ macro-instruction of slot 0, generation 1, its expanded format bf16. -/
def vqMi : MI :=
  { mi0 with desc := setBits mmDesc 13 5 0x0E, recs := [rec16 0 0x20000000, rec16 1 0x20000080 + BitVec.ofNat 512 (3 * 2 ^ 256 + 1 * 2 ^ 264), rec16 2 0x20000100] }

/-- A resident codebook of generation 1. -/
def book (st : GenState) : GenSlot := { GenSlot.empty with st := st, gen := 1, bits := 2, dim := 1 }

/-- Core 0 on a tile of vqMi whose generation is in state st, with copy buffers cb; the block is raw and begins at 0x200000C0. -/
def vqS (st : GenState) (cb : List (BitVec 3 × BitVec 16)) : State :=
  let s := { (mmS [vqMi] [tile0]).modCore 0 fun k => { k with copyBuf := cb } with flt := { runS.flt with lockstep := false } }
  let s := { s with clusters := [(0, { Cluster.reset with delta := [(0, { LayerSlot.empty with g0 := book st })] })] }
  (s.putBytes 0x20000080 [1, 0, 0, 0, 2, 0, 0, 0]).putBytes 0x200000C0 [2, 3, 0, 0, 2, 0, 0, 0]

/-- Device 0 with DELTA_SRC at a and a codebook header h there, cluster 0 with layer slot l. -/
def bookS (a : Nat) (h : Nat) (l : LayerSlot) : State :=
  let s := clS { Cluster.reset with delta := [(0, l)] }
  { s with dev := { s.dev with deltaSrc := BitVec.ofNat 48 a } }.putBytes 0x20000000 (leBytes 8 h)

/-- Obligations.Codebooks: images that fail each check and one that passes; slots that refuse, take, wait and retire; generations
that may and may not change; a copy buffer absent and present; blocks that decode, wait and fail. -/
theorem witness_Codebooks : (bookS 0x20000040 0 .empty).bookErr = eAlign ∧ (bookS 0x20000000 0 .empty).bookErr = eFormat ∧
    (bookS 0x20000000 0x203 .empty).bookErr = 0 ∧ (bookS 0x20000000 0x4C03 .empty).bookErr = eBounds ∧
    ({ LayerSlot.empty with g0 := book .resident }).names 1 = true ∧ LayerSlot.empty.names 1 = false ∧
    (vqS .resident []).workTile 0 = some (tile0, vqMi) ∧ isVq vqMi.desc = true ∧ vqMi.bookKey = (0, 1) ∧
    (vqS .resident []).vqBook 0 vqMi = some (book .resident) ∧ (vqS .loading []).vqBook 0 vqMi = none ∧
    (vqS .resident []).nextBlockLoad vqMi tile0 = some 0 ∧ vqMi.needBlock (vqS .resident []) tile0 0 = some (0, 0) ∧
    (vqS .resident []).vqBlock vqMi 0 0 = (0x200000C0, 2) ∧ (vqS .resident []).gpoison 0x200000C0 128 = none ∧
    (vqS .resident []).vqHeaderErr vqMi 0 0 = none ∧ ((vqS .resident []).gbyte 0x200000C0).toNat ≠ 1 ∧
    ((vqS .resident []).putBytes 0x200000C0 [1, 3 + 32, 0, 0]).vqHeaderErr vqMi 0 0 = some (eStaleGen, nameW 4 0) ∧
    ((vqS .resident []).putBytes 0x200000C0 [1, 3, 1, 0]).vqHeaderErr vqMi 0 0 = none ∧
    (vqS .resident []).decodeNext 0 = some 0 ∧ ((vqS .resident []).putBytes 0x200000C0 [1, 3, 1, 0]).decodeNext 0 ≠ some 0 ∧
    (((vqS .resident [(0, 1)]).putBytes 0x200000C0 [1, 3, 1, 0]).decodeNext 0 = some 0) ∧ (vqS .resident []).allHere vqMi = true ∧
    vqMi.mayRun tile0 = true ∧ (vqS .resident []).busy .delta = false ∧ (vqS .resident []).flt.lockstep = false := by decide +kernel
/-- The layer slots each kind of load, end and release meets. -/
theorem witness_LayerSlots :
    (let l : LayerSlot := { LayerSlot.empty with g0 := book .retiring, g1 := { book .retiring with gen := 2 } }
     l.names 3 = false ∧ l.pending = none ∧ l.g0.st ≠ .empty ∧ (l.at l.older).st = .retiring) ∧
    (let l : LayerSlot := { LayerSlot.empty with g0 := book .resident, g1 := { book .retiring with gen := 2 } }
     (l.at l.older).st ≠ .retiring ∧ (l.at (!l.older)).st = .retiring) ∧
    (let l : LayerSlot := { LayerSlot.empty with g0 := book .resident, g1 := { book .loading with gen := 2 } }
     l.g0.st ≠ .retiring ∧ l.g1.st ≠ .retiring ∧ (l.at l.older).st = .resident) ∧
    (let l : LayerSlot := { LayerSlot.empty with g0 := book .loading, g1 := { book .resident with gen := 2 } }
     (l.at l.older).st ≠ .resident ∧ (l.at (!l.older)).st = .resident ∧ (l.at l.older).st = .loading) := by decide +kernel
theorem test_deltaGenLoad : ((after (.deltaGenLoad 0 1 1) (bookS 0x20000000 0x203 .empty)).layer 0 0).g0.st = .loading ∧
    (after (.deltaGenLoad 0 1 1) (bookS 0x20000000 0x203 { LayerSlot.empty with g0 := book .resident })).dev.deltaErr = eBusy := by decide +kernel
theorem test_deltaGenRetire : ((after (.deltaGenRetire 0 1 1) (vqS .resident [])).layer 0 0).g0.st = .retiring ∧
    (after (.deltaGenRetire 0 2 1) (vqS .resident [])).dev.deltaErr = eHandle ∧
    (after (.deltaGenOpRefused 0 1) (vqS .resident [])).dev.deltaErr = eHandle := by decide +kernel
theorem test_generations : ((after (.codebookCopyDone 0 0) (vqS .loading [])).layer 0 0).g0.st = .resident ∧
    ((after (.generationEmpty 0 0) (vqS .retiring [])).layer 0 0).g0.st = .empty ∧
    ((after (.pendingLoadTake 0 0) (clS { Cluster.reset with delta := [(0, { LayerSlot.empty with g0 := book .retiring, pending := some (book .loading) })] })).layer 0 0).g0.st = .loading := by
  decide +kernel
theorem test_copyBufferFill : ((after (.copyBufferFill 0) (vqS .resident [(5, 5), (6, 6)])).core 0).copyBuf = [(6, 6), (0, 1)] := by decide +kernel
theorem test_blockDecode : ((after (.blockDecode 0) (vqS .resident [])).core 0).tiles.map Tile.decoded = [[0]] := by decide +kernel

/-! ### The stack, the caches and pools -/

/-- Obligations.StackAccesses, the split: refused at 0, 33 and while a stream is bound; kept at 16; changed at 32. -/
theorem witness_StackSplit : runS.memOk ∧ (0 : W32).toNat % 64 = 0 ∧ 32 < (33 : W32).toNat % 64 ∧ ((ringS .bound).strm 0).state ≠ .empty ∧
    runS.allEmpty = true ∧ runS.dmaIdle = true ∧ (16 : W32).toNat % 64 = runS.dev.ilv.toNat ∧ (32 : W32).toNat % 64 ≠ runS.dev.ilv.toNat := by
  unfold State.memOk; decide +kernel

/-- A machine whose line at a is present as l. -/
def lineS (a : Nat) (l : Line) : State := runS.setCline (a / 128) (some l)

/-- A clean line. -/
def line0 : Line := ⟨.normal, 0, 0, 0, none⟩

/-- n symbol errors in the codeword of line q of vault v, 16 a tier. -/
def hits (v q n : Nat) : List SymbolUpset := (List.range n).map fun k =>
  ⟨BitVec.ofNat 9 v, BitVec.ofNat 3 (k / 16), BitVec.ofNat 5 (bankOf q), BitVec.ofNat 13 (rowOf q), BitVec.ofNat 5 (colOf q), BitVec.ofNat 4 k⟩
/-- The same in the codeword of the line at a. -/
def hitsAt (a n : Nat) : List SymbolUpset := hits (runS.vaultOf (a / 128)) (runS.lineIn (a / 128)) n

/-- Obligations.StackAccesses, lines and awl: the first line of the stack present and absent, poisoned and not, its set with room; an
access of eight bytes and one of four. -/
theorem witness_Lines : runS.up = true ∧ inStack 0x0A200000 1 = true ∧ (lineS 0x0A200000 line0).cline (0x0A200000 / 128) = some line0 ∧
    runS.cline (0x0A200000 / 128) = none ∧ (runS.setLines (0x0A200000 / 128)).length < 16 ∧ runS.poisoned (0x0A200000 / 128) = false ∧
    0x0A200000 % 128 + 128 ≤ 128 ∧ inStack 0x2FFFFFFFF8 8 = true ∧ inStack 0x2FFFFFFFFC 4 = true ∧ 0x2FFFFFFFF8 % 8 = 0 ∧
    runS.Holds 0x2FFFFFFFF8 8 0 ∧ AmoRule 0 5 0 5 .add ∧ runS.badLine (0x0A200000 / 128) = runS.poisoned (0x0A200000 / 128) ∧
    (let d n := (runS.strike (hitsAt 0x0A200000 n)).decodeLine (runS.vaultOf (0x0A200000 / 128)) (runS.lineIn (0x0A200000 / 128))
     d 0 = .clean ∧ d 16 = .corrected 1 ∧ d 17 = .uncorrectable) ∧
    decodeSymbols 1 (hits 0 0 24) = .corrected 3 ∧ decodeSymbols 1 (hits 0 0 25) = .uncorrectable := by
  unfold State.Holds AmoRule; decide +kernel

/-- Obligations.StackAccesses, vaults: patrol off and on, a line absent and not poisoned; a repair address at each end of its range, a
free row and column entry. -/
theorem witness_Vaults : ({ runS with dev := { runS.dev with stkCtl := 0x24 } }).dev.stkCtl.toNat / 2 ^ 16 = 0 ∧ runS.dev.stkCtl.toNat / 2 ^ 16 ≠ 0 ∧
    runS.cline (lineAt runS.dev.ilv.toNat 0 (runS.vault 0).patrol) = none ∧ runS.poisoned (lineAt runS.dev.ilv.toNat 0 (runS.vault 0).patrol) = false ∧
    (runS.vault 0).patrol < 3145728 ∧ (let d n := (runS.strike (hits 0 0 n)).decodeLine 0 0; d 0 = .clean ∧ d 3 = .corrected 1 ∧ d 17 = .uncorrectable) ∧
    (let u := runS.strike (hits 3 5 17); bit (tiersOf (u.symbolErrors 3 5)) 1 = true) ∧ runS.busy .rpr = false ∧
    placeOf 32 (128 * lineAt 32 511 3145727) = (511, 3145727) ∧ placeOf 1 (128 * lineAt 1 0 0) = (0, 0) ∧
    bits (BitVec.ofNat 64 (1 + 5 * 2 ^ 2 + 6143 * 2 ^ 10)) 29 35 = 0 ∧ bits (BitVec.ofNat 64 (1 + 5 * 2 ^ 2 + 6143 * 2 ^ 10)) 10 13 ≤ 6143 ∧
    bits (BitVec.ofNat 64 (2 + 15 * 2 ^ 10 + 7 * 2 ^ 23)) 23 6 ≤ 7 := by decide +kernel

theorem test_stackIlvWrite : (after (.stackIlvWrite .host 32) runS).dev.ilv = 32 ∧ (after (.stackIlvWrite .host 33) runS).dev.ilv = 16 := by
  decide +kernel
theorem test_lineAccess : (after (.lineAccess ⟨0x0A200000, .none, 0, none, some [7], []⟩) runS).byte 0x0A200000 = 7 ∧
    (after (.lineAccess ⟨0x0A200000, .none, 0, none, none, hitsAt 0x0A200000 17⟩) runS).poisoned (0x0A200000 / 128) = true := by decide +kernel
theorem test_awlRequest : (after (.awlRequest 0 0x0A200000 (.atomic .add 0 5) []) memS).bytes 0x0A200000 2 = [0x16, 0x22] := by
  decide +kernel
theorem test_patrolScrubLine : ((after (.patrolScrubLine 3 (hits 3 0 17)) runS).vault 3).ue = 1 ∧
    ((after (.patrolScrubLine 3 (hits 3 0 16)) runS).vault 3).ceTier = 1 ∧
    ((after (.patrolScrubLine 3 []) runS).vault 3).patrol = 1 := by decide +kernel
theorem test_tierProbe : ((after (.tierProbe 3 5 (hits 3 5 17)) { runS with vaults := [(3, { Vault.reset with probed := 2 })] }).vault 3).suspect = 2 := by
  decide +kernel

/-- RPR_DATA holds e. -/
def rprS (e : W64) : State := { runS with dev := { runS.dev with rprData := e } }

theorem test_stkRpr : (after (.stkRprRead 0 6 0 0) runS).dev.rprErr = eHandle ∧ (after (.stkRprRead 0 0 0 127) runS).dev.rprErr = 0 ∧
    (after (.stkRprRead 0 0 1 16) runS).dev.rprErr = eBounds ∧ (after (.stkRprOpRefused 0 0 0 0 6) runS).dev.rprErr = eHandle := by decide +kernel
theorem test_stkRprSoft : (after (.stkRprSoftWrite 0 0 1 0) (rprS 1)).repairs.map Prod.snd = [1] ∧
    (after (.stkRprSoftWrite 0 0 1 0) (rprS 3)).dev.rprErr = eOperand ∧
    (after (.stkRprSoftWrite 0 0 1 0) (rprS (1 + 5 * 2 ^ 5))).rowAt 0 0 5 0 = 6144 ∧
    (after (.stkRprSoftClear 0 0 0 0) (rprS 1)).dev.rprErr = eHandle := by decide +kernel
theorem test_stkRprFailed : ((after (.stkRprMarkFailed 7 5 0 0) runS).vault 7).failed = 0x20 ∧
    ((after (.stkRprClearFailed 7 5 0 0) { runS with vaults := [(7, { Vault.reset with failed := 0x21 })] }).vault 7).failed = 1 := by decide +kernel

/-- Context 0 beside a present line. -/
def cacheS (l : Option Line) : State := (ctxS ctx0).setCline (0x0A200000 / 128) l

/-- Obligations.CacheControl: an absent line with room and without keep space, a present one, clean and dirty; a misaligned address
and one outside the stack. -/
theorem witness_CacheControl : (cacheS none).Runs 0 always ∧ (cacheS none).memOk ∧ (0x0A200000 : BitVec 48).toNat % 8 = 0 ∧
    (cacheS none).badLine (0x0A200000 / 128) = (cacheS none).poisoned (0x0A200000 / 128) ∧ inStack 0x0A200000 8 = true ∧ ((cacheS none).setLines (0x0A200000 / 128)).length < 16 ∧ (cacheS none).cline (0x0A200000 / 128) = none ∧
    bits ((cacheS none).cluster ((cacheS none).home (0x0A200000 / 128))).cchCfg 0 5 = 12 ∧
    bits ({ Cluster.reset with cchCfg := 0 }).cchCfg 0 5 = 0 ∧
    (cacheS (some line0)).cline (0x0A200000 / 128) = some line0 ∧ (cacheS (some line0)).Runs 0 always ∧ (cacheS none).Faultable 0 ∧
    (0x0A200004 : BitVec 48).toNat % 8 ≠ 0 ∧ inStack 0x3000000000 8 = false := by
  unfold State.Runs State.Issues State.MoreAfter State.memOk State.Faultable; decide +kernel
theorem test_prefetch : (after (.cchPrefetch 0 0x0A200000) (cacheS none)).cline (0x0A200000 / 128) = some line0 ∧
    ((after (.cchPrefetchKeep 0 0x0A200000) (cacheS none)).cline (0x0A200000 / 128)).map Line.cls = some .keep := by decide +kernel
theorem test_evict : ((after (.cchEvictFirst 0 0x0A200000) (cacheS (some line0))).cline (0x0A200000 / 128)).map Line.cls = some .evictFirst ∧
    ((after (.cchWriteBack 0 0x0A200000) (cacheS (some { line0 with shadow := some ([], false) }))).cline (0x0A200000 / 128)) = some line0 ∧
    (after (.cchWriteBackInvalidate 0 0x0A200000) (cacheS (some line0))).cline (0x0A200000 / 128) = none := by decide +kernel
/-- An invalidated dirty line gives the stack bytes beneath it back (R273). -/
theorem test_invalidate :
    (after (.cchInvalidate 0 0x0A200000) ((cacheS (some { line0 with shadow := some (List.replicate 128 0, false) })).putBytes 0x0A200000 [9])).byte 0x0A200000 = 0 := by
  decide +kernel
theorem test_cchStateRead : ((after (.cchStateRead 0 0x0A200000 4) (cacheS (some { line0 with cls := .keep, count := 2, shadow := some ([], false) }))).ctx 0).s 4 = 39 ∧
    ((after (.cchCtlBad 0 0x0A200004 6) (cacheS none)).strm 0).lastErr = eAlign := by decide +kernel

/-- The pool image at KV_SRC: a paged table without sequences, keys and values in bf16; its prefix tree of 4 slots at
0x21000000. -/
def poolImg : Nat := 3 * 2 ^ 1 + 3 * 2 ^ 6 + 1 * 2 ^ 16 + 1 * 2 ^ 32 + 1 * 2 ^ 48 + 0x20000000 * 2 ^ 64 + 0x21000000 * 2 ^ 240 + 2 * 2 ^ 288 + 1 * 2 ^ 293

/-- Pool 0 as p; KV_SRC at 0x20000000, holding image img. -/
def kvS (p : Pool) (img : Nat) : State :=
  let s := ctxS ctx0
  { s with pools := [(0, p)], dev := { s.dev with kvSrc := 0x20000000 } }.putBytes 0x20000000 (leBytes 64 img)

def pool0 : Pool := ⟨true, BitVec.ofNat 512 poolImg, 0, 0, 0⟩

/-- A macro-instruction on pool 0, over sequence 0 of one position. -/
def kvMi : MI := { mi0 with recs := [rec16 0 0x20000200, rec16 rolePool 0x23000000, rec16 2 0x20000100] }

/-- It on core 0, on tile t; the sequence has n pages, the first of which lies at 0x24000000. -/
def walkS (n : Nat) (t : Tile) : State :=
  let s := ((kvS pool0 (n + 0x22000000 * 2 ^ 64)).putBytes 0x23000004 [1]).putBytes 0x22000000 (leBytes 8 (2 + 1 * 2 ^ 6 + 0x24000000 / 128 * 2 ^ 22))
  { s with mis := [kvMi], cores := [(0, { Core.reset with tiles := [t] })] }

/-- The tile after the lookups of its block. -/
def walkedTile : Tile := { tile0 with walks := [⟨0, 1, [], [], [], true⟩] }

/-- Obligations.KeyValue, pools: definitions that pass and fail each check; pools defined and not, in use, busy; lookups to be made,
with a page and without one, and lookups done. -/
theorem witness_KeyValue : (kvS .none poolImg).boot.phase = .running ∧ ((kvS .none poolImg).pool 0).defined = false ∧
    (kvS .none poolImg).busy .pool = false ∧
    (kvS .none poolImg).num 0x20000000 64 = poolImg ∧ (kvS .none poolImg).poisonIn 0x20000000 64 = none ∧
    (kvS .none poolImg).poolErr 0 = 0 ∧ (kvS .none (poolImg + 2 ^ 13)).poolErr 0 = eOperand ∧
    (kvS .none (poolImg - 3 * 2 ^ 1)).poolErr 0 = eFormat ∧ (kvS .none (poolImg + 4032 * 2 ^ 32)).poolErr 0 = eBounds ∧
    (kvS .none (poolImg + 1 * 2 ^ 64)).poolErr 0 = eAlign ∧ (kvS .none (poolImg + 0x3000000000 * 2 ^ 240)).poolErr 0 = eBounds ∧
    ((kvS pool0 0).pool 0).defined = true ∧ ((kvS { pool0 with users := 1 } 0).pool 0).users ≠ 0 ∧
    ((kvS pool0 0).ctx 0).dev.toNat = (kvS pool0 0).own ∧ ({ kvS pool0 0 with ctxs := [(0, { ctx0 with dev := 1 })] }.ctx 0).dev.toNat ≠ 0 ∧
    { kvS pool0 0 with ops := [.poolPublish 0] }.running .pool = some (.poolPublish 0) ∧ opRow (.kvPoolDefine 0) ≠ some (.poolPublish 0) := by
  decide +kernel
theorem witness_KvWalk :
    (let s := walkS 1 tile0
     s.up = true ∧ (s.core 0).tiles.find? (fun y => decide (y.strm = 0) && decide (y.ticket = 0) && decide (y.idx = 0)) = some tile0 ∧
       s.tileMi tile0 = some kvMi ∧ hasRole kvMi.recs rolePool = true ∧ kvMi.mayRun tile0 = true ∧ s.allHere kvMi = true ∧
       tile0.walked 0 = false ∧ s.mayWalk kvMi tile0 0 = true ∧ (s.walkOn 0 kvMi tile0 0).bad = none ∧ s.mayWalk kvMi tile0 1 = false ∧
       ∀ ln, s.badLine ln = s.poisoned ln) ∧
    (let s := walkS 0 tile0; s.mayWalk kvMi tile0 0 = true ∧ (s.walkOn 0 kvMi tile0 0).bad = some (eKvPage, nameW 7 0) ∧
      s.flt.lockstep = false ∧ kvMi.home.toNat = s.own ∧ ∀ ln, s.badLine ln = s.poisoned ln) ∧
    walkedTile.walked 0 = true := by
  refine ⟨⟨?_, ?_, ?_, ?_, ?_, ?_, ?_, ?_, ?_, ?_, badLine_clean _ rfl rfl⟩, ⟨?_, ?_, ?_, ?_, badLine_clean _ rfl rfl⟩, ?_⟩
  all_goals decide +kernel
theorem test_kvPoolDefine : ((after (.kvPoolDefine 0) (kvS .none poolImg)).pool 0).defined = true ∧
    (after (.kvPoolDefine 0) (kvS pool0 poolImg)).dev.kvErr = eBusy := by decide +kernel
theorem test_kvPoolRemove : ((after (.kvPoolRemove 0) (kvS pool0 0)).pool 0).defined = false ∧
    (after (.kvPoolRemove 0) (kvS { pool0 with users := 1 } 0)).dev.kvErr = eBusy := by decide +kernel
theorem test_kvEpoch : (after (.kvEpochAdvance .host 0) (kvS pool0 0)).busy .pool = true ∧
    ((after (.kvEpochPublish 0) (after (.kvEpochAdvance .host 0) (kvS pool0 0))).pool 0).epoch = 1 ∧
    ((after (.kvEpochAdvance (.ctx 0) 0) (kvS pool0 0)).strm 0).epochs = [0] := by decide +kernel
/-- The read of the page's entry is in flight until the second command. -/
theorem test_kvWalk : ((after (.kvWalk 0 0 0 0 0) (walkS 1 tile0)).core 0).tiles.map (fun t => t.walked 0) = [false] ∧
    ((after (.kvWalk 0 0 0 0 0) (after (.kvWalk 0 0 0 0 0) (walkS 1 tile0))).core 0).tiles.map (fun t => t.walked 0) = [true] ∧
    (after (.kvWalk 0 0 0 0 0) (walkS 0 tile0)).mis.map MI.faulted = [true] := by decide +kernel

/-- A node of state st with references, children and parent, hash 5. -/
def nodeBytes (st refs children parent : Nat) : List Byte :=
  leBytes 2 st ++ leBytes 2 1 ++ leBytes 4 refs ++ leBytes 4 children ++ leBytes 4 parent ++ leBytes 8 5 ++ leBytes 8 0

/-- Stream 0's tree registers: hash 5, entry 17 (a shared page). Slot 0 is free, slot 1 a root with one reference, slot 2 an idle
leaf of it, slot 3 removed; with `full` slot 0 and slot 3 hold other nodes. -/
def treeS (full : Bool) : State :=
  let s := (kvS pool0 0).modSreg 0 fun r => { r with treeArg0 := 5, treeArg1 := 17 }
  let s := (s.putBytes 0x21000020 (nodeBytes 1 1 1 0xFFFFFFFF)).putBytes 0x21000040 (nodeBytes 1 0 0 1)
  if full then (s.putBytes 0x21000000 (nodeBytes 1 1 0 2)).putBytes 0x21000060 (nodeBytes 1 1 0 0) else s.putBytes 0x21000060 [2]

/-- Obligations.KeyValue, the prefix tree: its slots and probes, with a match, a free and a removed slot, and none of either. -/
theorem witness_Tree : 2 ^ treeLog2 pool0.img = 4 ∧ treeEn pool0.img = true ∧ treeEn { pool0 with img := 0 }.img = false ∧
    treeAddr pool0.img % 128 = 0 ∧ inStack (treeAddr pool0.img) 128 = true ∧ (treeS false).memOk ∧
    (∀ k < 4, ((treeS false).node pool0 k).state = [0, 1, 1, 2].getD k 0) ∧
    (∀ k < 4, ((treeS true).node pool0 k).state = 1) ∧ ((treeS false).node pool0 1).hash = 5 ∧ ((treeS false).node pool0 1).parent = 0xFFFFFFFF ∧
    ((treeS false).node pool0 1).refs = 1 ∧ ((treeS false).node pool0 2).refs = 0 ∧ ((treeS false).node pool0 2).children = 0 ∧
    ((treeS false).node pool0 2).parent = 1 ∧ sharedPte 17 = true ∧ sharedPte 1 = false ∧ 5 % 4 = 1 ∧
    inMem 0x20000000 1024 = true ∧ (treeS false).poisonIn 0x20000000 1024 = none ∧ (∀ q ∈ (treeS false).ops, q.isTree = false) ∧
    ∀ ln, (treeS false).badLine ln = (treeS false).poisoned ln := by
  refine ⟨?_, ?_, ?_, ?_, ?_, ?_, ?_, ?_, ?_, ?_, ?_, ?_, ?_, ?_, ?_, ?_, ?_, ?_, ?_, ?_, badLine_clean _ rfl rfl⟩
  all_goals first | decide +kernel | (unfold State.memOk; decide +kernel)

/-- Result and error of a tree operation. -/
def treeRes (i : Instr) (s : State) : Nat := ((after i s).sreg 0).treeStatus.toNat

theorem test_kvTreeLookup : treeRes (.kvTreeLookup 0 0 0xFFFFFFFF) (treeS false) = 2 + 4 + 1 * 2 ^ 32 ∧
    treeRes (.kvTreeLookup 0 0 0) (treeS false) = 2 + eHandle.toNat * 2 ^ 16 := by decide +kernel
theorem test_kvTreeInsert : treeRes (.kvTreeInsert 0 0 1) (treeS false) = 2 + 4 + 2 * 2 ^ 32 ∧
    treeRes (.kvTreeInsert 0 0 3) (treeS true) = 2 + eKvTreeFull.toNat * 2 ^ 16 := by decide +kernel
theorem test_kvTreeRelease : ((after (.kvTreeRelease 0 0 1) (treeS false)).node pool0 1).refs = 0 ∧
    treeRes (.kvTreeRelease 0 0 2) (treeS false) = 2 + eBounds.toNat * 2 ^ 16 := by decide +kernel
theorem test_kvTreeEvict : ((after (.kvTreeEvict 0 0 2) (treeS false)).node pool0 2).state = 2 ∧
    ((after (.kvTreeEvict 0 0 2) (treeS false)).node pool0 1).children = 0 := by decide +kernel
theorem test_kvTreeHash : treeRes (.kvTreeHash 0 0 0xFFFFFFFF) ((treeS false).modSreg 0 fun r => { r with treeArg0 := 0x20000000 }) = 2 ∧
    treeRes (.kvTreeOpRefused 0 0 0 6) (treeS false) = 2 + eHandle.toNat * 2 ^ 16 := by decide +kernel

/-! ### The schedule -/

/-- Stream 0 with schedule registers: program, shape, step; the peak 1.0. -/
def schedS (prog shape : W64) (step : BitVec 48) : State :=
  runS.setSreg 0 { StreamRegs.reset with schedProg := prog, schedShape := shape, schedStep := step, schedParam := 0x3F800000 }

/-- Obligations.Schedules: a warm-up, the constant kind, each decay before and after its period, restarts with multiplier 1 and 0, and
writes that are and are not allowed. -/
theorem witness_Schedules : runS.boot.phase = .running ∧ ((schedS 0x400000010 10 3).sreg 0).schedStep.toNat < ((schedS 0x400000010 10 3).sreg 0).schedProg.toNat / 2 ^ 32 ∧
    ((schedS 0x11 10 10).sreg 0).schedProg.toNat % 8 = 1 ∧ bit ((schedS 0x18 10 10).sreg 0).schedProg 3 = true ∧
    (0x18 : W64).toNat / 16 % 16 = 1 ∧ 4 < (0x15 : W64).toNat % 8 ∧ ¬4 < (0x14 : W64).toNat % 8 ∧ 0x7F800000 ≤ (0x7F800000 : W64).toNat % 2 ^ 32 := by
  decide +kernel
/-- Linear decay of a rate of 1.0 over 10 steps: half of it after 5, none after 10 (R308). -/
theorem test_schedLrRead : (after (.schedLrRead .host 0) (schedS 0x11 10 5)).out.replies = [.value 0x3F000000] ∧
    (after (.schedLrRead .host 0) (schedS 0x11 10 10)).out.replies = [.value 0] := by decide +kernel
theorem test_schedWrite : ((after (.schedWrite 0 .prog 0x15) runS).sreg 0).schedErr = eOperand ∧
    ((after (.schedWrite 0 .prog 0x14) runS).sreg 0).schedProg = 0x14 := by decide +kernel

/-! ### Video -/

/-- Encode session: VP9-like codec 1, 64 by 64 in and out, pitch 128, 30 pictures a second, frame stores at 0x30000000. -/
def encDesc : Nat :=
  1 + 64 * 2 ^ 16 + 64 * 2 ^ 32 + 64 * 2 ^ 48 + 64 * 2 ^ 64 + 128 * 2 ^ 80 + 8192 * 2 ^ 96 + 100 * 2 ^ 136 + 4096 * 2 ^ 192 + 1 * 2 ^ 224 +
  30 * 2 ^ 232 + 0x30000000 * 2 ^ 272 + 0x10000 * 2 ^ 320

/-- Decode session: codec 1, 64 by 64, 30 pictures a second, two frame stores at 0x30000000. -/
def decDesc : Nat :=
  1 + 64 * 2 ^ 16 + 64 * 2 ^ 32 + 30 * 2 ^ 48 + 128 * 2 ^ 64 + 8192 * 2 ^ 80 + 2 * 2 ^ 112 + 0x30000000 * 2 ^ 128 + 0x10000 * 2 ^ 176

/-- A session with a descriptor, before its first picture. -/
def ses (d : Nat) : Session := Session.new (BitVec.ofNat 1024 d)

/-- A job entry: op, session 2, flags, in_addr, out_addr, len. -/
def vjob (op flags : Nat) : BitVec 512 :=
  BitVec.ofNat 512 (op * 2 ^ 16 + 2 * 2 ^ 18 + flags + 7 * 2 ^ 32 + 0x20000000 * 2 ^ 64 + 0x21000000 * 2 ^ 128 + 4096 * 2 ^ 192)

/-- A job in progress. -/
def vwork (e : BitVec 512) (done : Bool) : Job := ⟨e, 5, 0, 0, 0, 0, 0, 0, 0, 0, done⟩

/-- An engine with rings of 16 entries at 0x22000000 and 0x23000000, the sessions and the job; entry j at its head, descriptor d at
0x20000000. -/
def vidS (e : Nat) (j : BitVec 512) (d : Nat) (ss : Table (Option Session)) (w : Option Job) : State :=
  let s := (runS.putBytes 0x22000000 (leBytes 64 j.toNat)).putBytes 0x20000000 (leBytes 128 d)
  { s with engines := [(e, { Engine.reset with ring := 0x0014000022000000, cpl := 0x0004000023000000, sessions := ss, job := w })] }

/-- Obligations.Video, its rings: enabled and not, a write that is fine, and one of an enabled ring with another content. -/
theorem witness_VideoRings : runS.boot.phase = .running ∧ bit ((vidS 0 0 0 [] none).engine 0).ring 52 = true ∧ bit (runS.engine 0).ring 52 = false ∧
    (0x0014000022000000 : W64).toNat / 2 ^ 48 % 16 = 4 ∧ (0x0014000022000000 : W64).toNat % 4096 = 0 ∧
    bit (0x0014000022000000 : W64) 52 = true ∧ (runS.engine 0).cpl.toNat / 2 ^ 48 % 16 = 4 ∧ (runS.engine 0).withheld = false ∧
    (0x0014000022000000 : W64).toNat % 2 ^ 52 ≠ ((vidS 0 0 0 [] none).engine 0).cpl.toNat := by decide +kernel

/-- Obligations.Video, taking a job: an accepted OPEN, an entry of another seq, and one refusal of each kind. -/
theorem witness_VideoTake : (vidS 0 0 0 [] none).up = true ∧ ((vidS 0 0 0 [] none).engine 0).job = none ∧ ((vidS 0 0 0 [] none).engine 0).waiting = false ∧
    (vidS 0 (vjob 1 0) encDesc [] none).jobErr 0 (vjob 1 0) = 0 ∧ ((vjob 1 0).toNat + 1) % 2 ^ 16 = 1 ∧
    (vidS 0 (vjob 1 0) 0 [] none).num 0x22000000 64 % 2 ^ 16 = 0 ∧ (vidS 0 (vjob 1 0) 0 [] none).poisonIn 0x22000000 64 = none ∧
    (vidS 0 (vjob 0 0) 0 [] none).jobErr 0 (vjob 0 0) = eOperand ∧ (vidS 0 (vjob 2 0) 0 [] none).jobErr 0 (vjob 2 0) = eState ∧
    (vidS 0 (vjob 1 (2 ^ 64)) 0 [] none).jobErr 0 (vjob 1 (2 ^ 64)) = eAlign := by decide +kernel

/-- A unit with a sequence header and a key picture of 64 by 64, no block of which is decoded, and one whose frame header is bad. -/
def unit0 : UnitRead := ⟨100, some ⟨true, 64, 64, false, 1, 0⟩, false, true, false, true, 64, 64, 30, false, []⟩
def unitBad : UnitRead := { unit0 with frameBad := true }
def pic0 : Pic := ⟨64, 64, false, [List.replicate 4096 7], [], []⟩

/-- Obligations.Video, a job in progress and one finished; what a decode shows of a unit and where its output lies; a picture
concealed from the one before. -/
theorem witness_VideoWork : (vidS 0 0 0 [] none).memOk ∧ inStack 0x23000000 64 = true ∧ (∀ ln, (vidS 0 0 0 [] none).badLine ln = (vidS 0 0 0 [] none).poisoned ln) ∧
    (((vidS 0 0 encDesc [] (some (vwork (vjob 1 0) false))).engine 0).job = some (vwork (vjob 1 0) false) ∧
    jOp (vjob 1 0) = 1 ∧ jOp (vjob 2 0) = 2 ∧ jOp (vjob 3 0) = 3 ∧ jSession (vjob 2 0) = 2 ∧
    (vidS 0 0 encDesc [] none).openErr 0 (BitVec.ofNat 1024 encDesc) = 0 ∧ (vidS 6 0 decDesc [] none).openErr 6 (BitVec.ofNat 1024 decDesc) = 0 ∧
    (vidS 0 0 0 [] none).openErr 0 0 = eFormat ∧ BitVec.ofNat 1024 ((vidS 0 0 encDesc [] none).num 0x20000000 128) = BitVec.ofNat 1024 encDesc ∧
    ((vidS 0 0 0 [(2, some (ses encDesc))] none).engine 0).session 2 = some (ses encDesc) ∧ jOut (vjob 2 0) / 2 ^ 48 = runS.own ∧
    (∀ r ∈ encReads (ses encDesc).desc (vjob 2 0), (vidS 0 0 0 [] none).poisonIn r.1 r.2 = none) ∧
    ((vidS 0 0 0 [] none).setPoison (0x20000000 / 128) true |>.poisonIn 0x20000000 128) ≠ none ∧
    runS.roiOk (jRoi (vjob 2 (2 ^ 24))) (ses encDesc).desc = true ∧ (runS.putBytes 0 [16]).roiOk 0 (ses encDesc).desc = false ∧
    ((ses decDesc).admits unit0).2.2 = true ∧ ((ses decDesc).admits unit0).1 = unit0.seq ∧ ((ses decDesc).admits { unit0 with frame := false }).2.2 = false ∧
    (let p := decodePicture (ses decDesc).desc [] ⟨true, 64, 64, false, 1, 0⟩ unit0 []
     let ws := (outRows (ses decDesc).desc [] unit0 p).map (fun r => (jOut (vjob 2 (2 ^ 25)) + r.1, r.2)) ++ [(0x26000000, taintMap p)]
     (∀ w ∈ ws, inMem w.1 w.2.length = true) ∧ ws.Pairwise (fun v w => v.1 + v.2.length ≤ w.1 ∨ w.1 + w.2.length ≤ v.1)) ∧
    unitBad.frameBad = true ∧ bit (ses (decDesc + 2 ^ 4)).desc 4 = true ∧ pic0.vecs = [] ∧ pic0.w = 64 ∧ pic0.h = 64) := by
  refine ⟨?_, ?_, badLine_clean _ rfl rfl, ?_⟩
  · unfold State.memOk; decide +kernel
  all_goals decide +kernel

theorem test_vidRingWrite : (after (.vidRingWrite 0 false 0x0014000022000000) runS).engine 0 =
      { Engine.reset with ring := 0x0014000022000000 } ∧
    ((after (.vidRingWrite 0 true 0x0005000023000000) runS).engine 0).cpl = 0x0005000023000000 := by decide +kernel
theorem test_vidDb : ((after (.vidDb 0) { runS with engines := [(0, { Engine.reset with waiting := true })] }).engine 0).waiting = false := by
  decide +kernel
theorem test_vidJobTake : ((after (.vidJobTake 0) (vidS 0 (vjob 1 0) encDesc [] none)).engine 0).job = some (vwork (vjob 1 0) false |> fun j => { j with tStart := 0 }) ∧
    ((after (.vidJobTake 0) (vidS 0 (vjob 2 0) encDesc [] none)).engine 0).refused = 1 := by decide +kernel
theorem test_vidOpen : ((after (.vidOpen 0) (vidS 0 0 encDesc [] (some (vwork (vjob 1 0) false)))).engine 0).session 2 = some (ses encDesc) ∧
    ((after (.vidOpen 0) (vidS 0 0 0 [] (some (vwork (vjob 1 0) false)))).engine 0).job.map Job.status = some eFormat := by decide +kernel
/-- An encode answers; one whose map of regions holds 16 ends with E_OPERAND (R334). -/
theorem test_vidFrameEncode : goes (.vidFrameEncode 0) (vidS 0 0 0 [(2, some (ses encDesc))] (some (vwork (vjob 2 0) false))) = true ∧
    ((after (.vidFrameEncode 0) ((vidS 0 0 0 [(2, some (ses encDesc))] (some (vwork (vjob 2 (2 ^ 24)) false))).putBytes 0 [16])).engine 0).job.map Job.status =
      some eOperand := by decide +kernel
theorem test_vidFrameDecode : goes (.vidFrameDecode 6 9) (vidS 6 0 0 [(2, some (ses decDesc))] (some (vwork (vjob 2 0) false))) = true ∧
    ((after (.vidFrameDecode 6 9) (vidS 6 0 0 [] (some (vwork (vjob 2 0) false)))).engine 6).job.map Job.status = some eState := by decide +kernel
theorem test_vidClose : ((after (.vidClose 0) (vidS 0 0 0 [(2, some (ses encDesc))] (some (vwork (vjob 3 0) false)))).engine 0).session 2 = none := by
  decide +kernel
/-- The record carries seq 0, op and session, tag 7, and t_start 5 (R344). -/
theorem test_vidJobComplete : (after (.vidJobComplete 6) (vidS 6 0 0 [] (some (vwork (vjob 2 0) true)))).num 0x23000000 64 % 2 ^ 240 =
    2 * 2 ^ 16 + 2 * 2 ^ 18 + 7 * 2 ^ 32 ∧
    (after (.vidJobComplete 6) (vidS 6 0 0 [] (some (vwork (vjob 2 0) true)))).num 0x2300001E 8 = 5 := by decide +kernel

/-! ### The fabric -/

/-- Port 0 as x. -/
def portS (x : Port) : State := { runS with ports := [(0, x)] }

/-- A port that is up, with two flits unacknowledged. -/
def port4 : Port := { Port.reset with link := .up4, rxNext := 5, unacked := 2, replay := [(7, []), (8, [])] }

/-- A data flit with seq 5, ack 7, no packet, and the CRC of R351. -/
def flit1 : FlitBits := BitVec.ofNat 2048 (5 + 1 * 2 ^ 12 + 7 * 2 ^ 16 + 0x3447A7F472A29C7E * 2 ^ 1984)

theorem flit1_body : flitBody flit1 =
    ((([5, 16, 7] ++ List.replicate 59 0) ++ List.replicate 62 0) ++ List.replicate 62 0) ++ List.replicate 62 0 := by decide +kernel
theorem crc_1 : ([5, 16, 7] ++ List.replicate 59 0).foldl crcByte (2 ^ 64 - 1) = 0xA3EED7303BB4A55B := by decide +kernel
theorem crc_2 : (List.replicate 62 0).foldl crcByte 0xA3EED7303BB4A55B = 0xD553E31CD37C1A2B := by decide +kernel
theorem crc_3 : (List.replicate 62 0).foldl crcByte 0xD553E31CD37C1A2B = 0x9BC4912FD8470AEB := by decide +kernel
theorem crc_4 : (List.replicate 62 0).foldl crcByte 0x9BC4912FD8470AEB = 0xCBB8580B8D5D6381 := by decide +kernel
theorem flit1_crc : crc64 (flitBody flit1) = 0x3447A7F472A29C7E := by
  rw [flit1_body, crc64, List.foldl_append, List.foldl_append, List.foldl_append, crc_1, crc_2, crc_3, crc_4]; decide +kernel
theorem flit1_ok : flitOk flit1 = true := by rw [flitOk, flit1_crc]; decide +kernel

/-- Obligations.Ports: each link state, flits that pass and fail, a stalled port, replays that end and that go on. -/
theorem witness_Ports : (portS port4).up = true ∧ (portS port4).Quiet ∧ (portS port4).flt.lockstep = false ∧ port4.enable = true ∧
    bit (portS port4).pins.prsnt 0 = true ∧ Port.reset.link = .down ∧ Port.reset.queue = [] ∧ port4.up = true ∧ port4.foreign = false ∧
    bit flit1 28 = false ∧ bits flit1 12 4 = 1 ∧ bits flit1 0 12 = port4.rxNext.toNat ∧ (parseSlots 15 (flitSlots flit1)).1 = [] ∧ port4.unacked < 31 ∧
    2048 ≤ tget 0 [(0, 2048)] 0 := by
  unfold State.Quiet; decide +kernel

theorem test_portTrain : ((after (.portTrain 0) (portS Port.reset)).port 0).link = .training ∧
    ((after (.portTrain 1) (portS Port.reset)).port 1).link = .down := by decide +kernel
theorem test_portUp : ((after (.portUp 0 15) (portS { Port.reset with link := .training })).port 0).link = .up4 ∧
    ((after (.portUp 0 7) (portS { Port.reset with link := .training })).port 0).link = .up2 := by decide +kernel
theorem test_portDown : ((after (.portDown 0) (portS port4)).port 0).downs = 1 ∧
    (after (.portDown 0) (portS port4)).flt.latch.map (fun e => e.1.code) = [eLinkDown] := by decide +kernel
theorem test_flitReceive : ((after (.flitReceive 0 (some 0) flit1) (portS port4)).port 0).rxNext = 6 ∧
    (after (.flitReceive 0 none flit1) (portS port4)).out.sent = [.nak 0 4] := by
  simp only [after, exec, execFlitReceive, flit1_ok]; decide +kernel
theorem test_flitReplay : (after (.flitReplay 0 7) (portS port4)).out.sent = [.resend 0 [8]] ∧
    ((after (.flitReplay 0 6) (portS { port4 with resends := 15 })).port 0).up = false := by decide +kernel
theorem test_ackTimer : (after (.ackTimer 0) (portS port4)).out.sent = [.ackFlit 0 4] := by decide +kernel
theorem test_fabStall : (after (.fabStall 0) (portS { port4 with used := [(0, 2048)] })).flt.latch.map (fun e => (e.1.code, e.2.1)) = [(eFabStall, 0)] := by
  decide +kernel
theorem test_cblPrsntChange : ((after (.cblPrsntChange 1 false) (portS Port.reset)).port 1).link = .training ∧
    ((after (.cblPrsntChange 0 true) (portS port4)).port 0).link = .down := by decide +kernel
theorem test_cblOverload : (after (.cblOverload 0) (portS port4)).pins.cblOff = 1 ∧ ((after (.cblOverload 0) (portS port4)).port 0).up = false := by
  decide +kernel
theorem test_laneFail : ((after (.laneFail 0 12) (portS port4)).port 0).link = .up2 ∧ ((after (.laneFail 0 9) (portS port4)).port 0).up = false := by
  decide +kernel

/-- A member, number 0, that serves its first 256 MiB, beside device 1 behind port 3. -/
def winS : State :=
  { farS with
    mem := [(0x0A200000, 0x11), (0x0A200001, 0x22)]
    fab := { farS.fab with inwin := [(0, 0x00400003F8000000)] } }

/-- A request of device 1 with tag 9. -/
def reqPkt (typ : BitVec 8) (code : BitVec 8) (mask : BitVec 128) (pay : List Byte) : Packet := ⟨typ, 0, 1, 9, 0x0A200000, code, 64, mask, pay⟩

/-- An answer of this device with tag 9. -/
def rspPkt (typ : BitVec 8) (code : BitVec 8) (pay : List Byte) : Packet := ⟨typ, 1, 0, 9, 0, code, 64, 0, pay⟩

/-- Obligations.Packets, requests: a window that covers the address, one that does not, stack and store addresses, an atomic. -/
theorem witness_Packets : winS.up = true ∧ winS.own = 0 ∧ winS.memOk ∧ winS.member = true ∧ runS.member = false ∧ winS.inWindow 0x0A200000 8 = true ∧
    winS.inWindow 0x10000000 8 = false ∧ inStack 0x0A200000 8 = true ∧ inMem 0x0A200000 128 = true ∧ inStack 0x4000000000 8 = false ∧
    amoCode .add = 0 ∧ winS.isLive 1 = true ∧ winS.isLive 2 = false ∧ winS.routePort (rspPkt 0x10 0 []) = some 3 ∧
    knownType 0x01 = true ∧ knownType 0x13 = false ∧ winS.Holds 0x0A200000 8 0x2211 := by
  unfold State.memOk State.Holds; decide +kernel

/-- Obligations.Packets, the first clause: a WR of 8 bytes in two slots. -/
theorem witness_Slots : parseSlots 2 [0x400000000a2000000200090001000003#128, 0x0807060504030201#128] =
    ([⟨0x03, 0, 1, 9, 0x0A200000, 0, 64, 0, [1, 2, 3, 4, 5, 6, 7, 8]⟩], []) := by decide +kernel

theorem test_rd : (after (.rd (reqPkt 0x01 8 0 [])) winS).out.packets = [(3, rspPkt 0x10 0 [0x11, 0x22, 0, 0, 0, 0, 0, 0])] ∧
    (after (.rd { reqPkt 0x01 8 0 [] with addr := 0x10000000 }) winS).out.packets = [(3, rspPkt 0x12 4 [])] := by decide +kernel
theorem test_rdl : (after (.rdl (reqPkt 0x02 0 0 [])) winS).out.packets = [(3, rspPkt 0x10 0 ([0x11, 0x22] ++ List.replicate 126 0))] := by decide +kernel
theorem test_wr : (after (.wr (reqPkt 0x03 0 0 [1, 2, 3, 4])) winS).num 0x0A200000 8 = 0x04030201 := by decide +kernel
theorem test_wrl : (after (.wrl (reqPkt 0x04 0 2 (List.replicate 128 5))) winS).num 0x0A200000 4 = 0x0511 := by decide +kernel
theorem test_atom : (after (.atom (reqPkt 0x05 0 0 [1, 0, 0, 0, 0, 0, 0, 0])) winS).num 0x0A200000 4 = 0x2212 ∧
    (after (.atom (reqPkt 0x05 0 0 [1, 0, 0, 0, 0, 0, 0, 0])) winS).out.packets = [(3, rspPkt 0x10 0 [0x11, 0x22, 0, 0, 0, 0, 0, 0])] := by decide +kernel
theorem test_packetForward : (after (.packetForward { reqPkt 0x01 8 0 [] with dst := 1, src := 2 }) winS).out.packets =
      [(3, { reqPkt 0x01 8 0 [] with dst := 1, src := 2, hops := 63 })] ∧
    (after (.packetForward { reqPkt 0x01 8 0 [] with dst := 1, hops := 0 }) winS).out.packets = [(3, rspPkt 0x12 2 [] |> fun k => { k with src := 0 })] := by
  decide +kernel

/-- Context 0 waits for the answer to a request of tag 9. -/
def waitS (r : Req) (w : Wait) : State :=
  { farS with fab := { farS.fab with reqs := [(9, some r)], cfg := 0xC800000000 }, ctxs := [(0, { memCtx with wait := w })] }

/-- A load by context 0 into s4. -/
def loadReq : Req := ⟨{ farPkt with tag := 9 }, .ctxLoad 0 4 true, false⟩

/-- Obligations.Packets, answers: a load and a posted write outstanding, a context that waits, a tag with no request; notices. -/
theorem witness_Answers : (waitS loadReq (.remote 9)).up = true ∧ (waitS loadReq (.remote 9)).Quiet ∧
    tget none (waitS loadReq (.remote 9)).fab.reqs 9 = some loadReq ∧ tget none (waitS loadReq (.remote 9)).fab.reqs 8 = none ∧
    loadReq.pkt.dst = 1 ∧ loadReq.pkt.typ = 0x01 ∧ ((waitS loadReq (.remote 9)).ctx 0).wait = .remote 9 ∧
    (waitS loadReq (.remote 9)).MoreAfter 0 4 ∧ (waitS loadReq (.remote 9)).fab.cfg.toNat / 2 ^ 33 % 2 ^ 12 ≠ 0 ∧ runS.member = false ∧
    (waitS loadReq (.remote 9)).member = true ∧ ((List.range 8).map (ctxOf 0)).find? (fun k => !(runS.ctx k).used) = some 0 := by
  unfold State.Quiet State.MoreAfter; decide +kernel
theorem witness_AnswerFault : (waitS loadReq (.remote 9)).Faultable 0 := by unfold State.Faultable; decide +kernel
theorem witness_FarCtx : let s := ctxS { ctx0 with dev := 1, wait := .idle }
    s.farCtx 1 0 0 = some 0 ∧ (s.ctx 0).wait = .idle ∧ (s.ctx 0).blocks = [] ∧ (s.strm 0).state = .running := by decide +kernel

/-- Context 0 works for stream 0 of device 1, and waits for an answer of it. -/
def theirS : State :=
  { winS with ctxs := [(0, { ctx0 with dev := 1, wait := .asked .ticket })], fars := [⟨1, 0, 2, [], none⟩] }

/-- A read of A by macro-instruction 0, outstanding with tag 9. -/
def farUse0 : FarUse := ⟨0, 0, 0, .scan⟩
def farReq (typ : BitVec 8) (who : Requester) : Req := ⟨{ farPkt with typ := typ, tag := 9 }, who, false⟩

/-- Obligations.Packets, notices of device 1: contexts that work for its stream, ready, stopped and waiting, and what asks of them and
of this device's streams meet. -/
theorem witness_Notices : theirS.member = true ∧ theirS.up = true ∧ theirS.Quiet ∧ (theirS.ctx 0).used = true ∧ (theirS.ctx 0).dev = 1 ∧
    (theirS.ctx 0).strm = 0 ∧ theirS.far 1 0 = some ⟨1, 0, 2, [], none⟩ ∧ theirS.ctxsOk ∧ (theirS.ctx 0).pc ≠ (theirS.ctx 0).codeEnd ∧
    (∀ m ∈ theirS.mis, ¬(m.home = 1 ∧ m.strm = 0)) ∧ theirS.outstanding 0 < 16 ∧
    16 ≤ { theirS with streams := [(0, { theirS.strm 0 with farMis := List.replicate 16 ⟨0, 1, []⟩ })] }.outstanding 0 ∧
    (theirS.strm 0).asks = [] ∧ (theirS.strm 0).state = .running := by
  unfold State.Quiet State.ctxsOk; decide +kernel
theorem witness_LineAnswers : (farReq 0x02 (.farRead farUse0 0)).dropped = false ∧ (farReq 0x02 (.farRead farUse0 0)).pkt.typ = 0x02 ∧
    (farReq 0x03 .posted).pkt.typ = 0x03 ∧ (winS.badLine (0x0A200000 / 128) = winS.poisoned (0x0A200000 / 128)) ∧ winS.flt.lockstep = false ∧
    (let s := { winS with upsets := hitsAt 0x0A200000 17 }
     s.badLine (0x0A200000 / 128) = true ∧ s.poisoned (0x0A200000 / 128) = false ∧ s.member = true ∧ s.inWindow 0x0A200000 8 = true) := by
  decide +kernel

theorem test_data : ((after (.data (reqPkt 0x10 0 0 [1, 2, 0, 0, 0, 0, 0, 0])) (waitS loadReq (.remote 9))).ctx 0).s 4 = 0x201 ∧
    ((after (.data (reqPkt 0x10 1 0 [1, 2, 0, 0, 0, 0, 0, 0])) (waitS loadReq (.remote 9))).strm 0).lastErr = eStackUe := by decide +kernel
theorem test_ack : (after (.ack (reqPkt 0x11 0 0 [])) (waitS ⟨{ farPkt with typ := 0x03, tag := 9 }, .posted, false⟩ .ready)).fab.reqs.all (fun e => e.2.isNone) = true := by decide +kernel
theorem test_err : ((after (.err (reqPkt 0x12 4 0 [])) (waitS loadReq (.remote 9))).strm 0).lastErr = eFabWindow := by decide +kernel
theorem test_remoteRequestTimeout : ((after (.remoteRequestTimeout 9) (waitS loadReq (.remote 9))).strm 0).lastErr = eFabTimeout := by decide +kernel
theorem test_referenceNotice : ((after (.referenceNotice 1 0x100 true) winS).group 0x100).refs = 1 := by decide +kernel
theorem test_note : ((after (.note 1 (.reserve 1 0 [(0, 2)] 5 3 4 0 2)) { winS with ctxs := [] }).ctx 0).rank = 2 ∧
    ((after (.note 1 (.fault 0 eFabWindow 5 0)) winS).strm 0).state = .faulted ∧
    (after (.note 1 (.ask 1 0 8 (.mi []))) winS).out.sent = [.notice 1 (.answer 0 8 0 0 true)] ∧
    ((after (.note 1 (.answer 0 0 0 7 true)) theirS).ctx 0).granted = some 7 := by decide +kernel

/-! ### Membership and fabric registers -/

/-- The headwater of a system of devices 0, 1 and 2, this one 0, in epoch 4. -/
def hwS : State :=
  { farS with fab := { farS.fab with isHw := true, epoch := 4, live := [(0, true), (1, true), (2, true)] }, streams := [], ctxs := [] }

/-- A member 0 of the same system; its headwater is 1. -/
def memberS : State := { hwS with fab := { hwS.fab with isHw := false, hw := 1 } }

/-- Port 3 up, present, and its neighbour 1 named; membership as m. -/
def nearS (m : MState) : State :=
  { runS with
    pins := { runS.pins with prsnt := 8 }
    fab := { Fab.reset with mstate := m }
    ports := [(3, { Port.reset with link := .up4 })] }

/-- A neighbour 1 of the system whose headwater is 1. -/
def told : HelloInfo := ⟨1, .live, 1, 4, 0, true⟩

/-- Obligations.Membership: a device out alone, one beside a neighbour, a joiner, a headwater with and without a change in progress,
a member told the next epoch, a device whose streams are EMPTY, a suspect. -/
theorem witness_Membership : (nearS .out).up = true ∧ (nearS .out).fab.mstate = .out ∧
    (∀ p < 32, ({ runS with pins := { runS.pins with prsnt := 0 } }.port p).link = .down ∧
      { runS with pins := { runS.pins with prsnt := 0 } }.mayTrain p = false) ∧
    (nearS .out).mayTrain 3 = true ∧ ((nearS .out).port 3).up = true ∧ told.reply = true ∧ told.nbrLive = true ∧ told.hw ≠ hwS.fab.hw ∧
    ((nearS .live).port 3).splitTold = false ∧ (nearS .joining).fab.sent = false ∧ (nearS .joining).boot.flrAt = none ∧ (nearS .joining).fab.waiting = [] ∧
    (∀ q < 32, ((nearS .joining).port q).link ≠ .training ∧ (((nearS .joining).port q).up = false ∨ q = 3)) ∧
    (∀ i : Fin 64, (nearS .joining).jobStreams i = []) ∧
    hwS.member = true ∧ hwS.fab.isHw = true ∧ hwS.isLive 1 = true ∧ hwS.isLive 3 = false ∧ hwS.fab.changes = [] ∧ hwS.fab.ackWait = [] ∧
    bit hwS.fab.cfg 32 = false ∧ hwS.liveSet.filter (fun x => decide (x ≠ 0 ∧ x ≠ 3)) = [1, 2] ∧ hwS.judges 1 = true ∧
    (1 : BitVec 17) ≠ BitVec.ofNat 17 (hwS.fab.cfg.toNat / 2 ^ 16 % 2 ^ 17) ∧ (0 : BitVec 17) = BitVec.ofNat 17 (hwS.fab.cfg.toNat / 2 ^ 16 % 2 ^ 17) ∧
    .join 3 ∉ hwS.fab.changes ∧ memberS.judges 2 = false ∧ memberS.fab.isHw = false ∧ hwS.fab.suspects = [] ∧ hwS.mis = [] := by decide +kernel
theorem witness_Member : memberS.member = true ∧ memberS.Quiet ∧ memberS.fab.hw ≠ 2 ∧ (5 : W32) = memberS.fab.epoch + 1 ∧
    (∀ i : StreamId, (memberS.strm i).state = .empty) ∧ (winS.strm 0).state ≠ .empty := by unfold State.Quiet; decide +kernel

theorem test_fabJoin : (after .fabJoin { runS with pins := { runS.pins with prsnt := 0 } }).fab.epoch = 1 ∧
    (after .fabJoin (nearS .out)).fab.mstate = .joining := by decide +kernel
theorem test_hello : (after (.hello 3 told) (nearS .joining)).out.sent = [.join 1] ∧
    ((after (.hello 3 told) { nearS .live with fab := hwS.fab }).port 3).foreign = true := by decide +kernel
theorem test_join : (after (.join 3 0) hwS).out.sent = [.member 1 5 (.join 3), .member 2 5 (.join 3)] ∧
    (after (.join 1 0) hwS).out.sent = [.notice 1 (.joinRefused eFabDup)] := by decide +kernel
theorem test_membershipNotice : (after (.membershipNotice 5 (.join 3)) memberS).out.sent = [.memberAck 1] ∧
    (after (.membershipNotice 6 (.join 3)) memberS).fab.epoch = 4 := by decide +kernel
theorem test_membershipAck : (after (.membershipAck 1) { hwS with fab := { hwS.fab with changes := [.join 2], ackWait := [1] } }).out.sent =
    [.notice 2 (.epochConfirm [0, 1, 2] 4 0)] := by decide +kernel
theorem test_fabLeave : (after .fabLeave memberS).out.sent = [.leave 1] ∧ (after .fabLeave winS).fab.err = eBusy := by decide +kernel
theorem test_leave : tget false (after (.leave 2) hwS).fab.live 2 = false ∧ (after (.leave 2) hwS).out.sent = [.member 1 5 (.leave 2), .member 2 5 (.leave 2)] := by decide +kernel
theorem test_suspect : (after (.suspect 1) hwS).out.sent = [.ping 1 [3]] ∧ (after (.suspect 2) memberS).out.sent = [] := by decide +kernel
theorem test_ping : (after (.ping 1 false) hwS).out.sent = [.pong 1] ∧
    (after (.ping 1 true) { hwS with fab := { hwS.fab with suspects := [1] } }).fab.suspects = [] := by decide +kernel
theorem test_pingTimeout : (after (.pingTimeout 1) { hwS with fab := { hwS.fab with suspects := [1] } }).flt.latch.map (fun e => e.1.code) = [eFabLost] ∧
    tget false (after (.pingTimeout 1) { hwS with fab := { hwS.fab with suspects := [1] } }).fab.live 1 = false := by decide +kernel

/-- Obligations.FabricRegisters: data with and without a reserved bit; a port that may retrain and one that may not; a device that is
out, and one that is not, and two numbers. -/
theorem witness_FabricRegisters : runS.boot.phase = .running ∧ runS.fab.rtData.toNat / 2 ^ 33 = 0 ∧
    { runS.fab with rtData := 0x200000000 }.rtData.toNat / 2 ^ 33 ≠ 0 ∧ (runS.port 0).enable = true ∧ bit runS.pins.prsnt 0 = true ∧
    bit runS.pins.prsnt 1 = false ∧ runS.fab.mstate = .out ∧ hwS.fab.mstate ≠ .out ∧ hwS.own = 0 ∧ (1 : W64).toNat % 2 ^ 16 ≠ 0 := by decide +kernel
theorem test_fabRtWrite : tget 0 (after (.fabRtWrite 7) { runS with fab := { runS.fab with rtData := 0x100000003 } }).fab.routes 7 = 0x100000003 ∧
    (after (.fabRtWrite 7) { runS with fab := { runS.fab with rtData := 0x200000000 } }).fab.rtErr = eOperand := by decide +kernel
theorem test_fabRtRead : (after (.fabRtRead 1) winS).fab.rtData = 0x100000008 ∧ (after (.fabRtOpRefused 1) winS).fab.rtErr = eHandle := by decide +kernel
theorem test_fabPortRetrain : ((after (.fabPortRetrain 0) (portS port4)).port 0).link = .training ∧
    ((after (.fabPortRetrain 0) (portS port4)).port 0).rxNext = 5 := by decide +kernel
theorem test_fabCfgWrite : ((after (.fabCfgWrite 5) (ctxS ctx0)).ctx 0).dev = 5 ∧ (after (.fabCfgWrite 5) hwS).own = 0 := by decide +kernel

/-- Obligations.JobRegister: a stream that is EMPTY and one that is not; the resets and KILL have their witnesses with theirs. -/
theorem witness_JobRegister : runS.boot.phase = .running ∧ (runS.strm 0).state = .empty ∧ ((ctxS ctx0).strm 0).state ≠ .empty ∧
    runS.pins.standby = true ∧ runS.pins.pwrEn = true ∧ runS.hostUp = true := by decide +kernel
theorem test_strmJobWrite : ((after (.strmJobWrite 0 false 5) runS).sreg 0).job = 5 ∧ ((after (.strmJobWrite 0 true 1) runS).sreg 0).paceMatch = true := by
  decide +kernel

/-! ### The weir -/

/-- The machine with weir w. -/
def weirS (w : Weir) : State := { runS with weir := w }

/-- Sensor 618 as x. -/
def sensorS (x : Sensor) : State := weirS { Weir.reset with sensors := [(618, x)] }

/-- Obligations.WeirLaw, the period: the excursion account open, an island that governs, a sensor off its neighbours for two
periods and again, one 5 and 10 °C over its limit for a third period. -/
theorem witness_WeirPeriod : (weirS Weir.reset).up = true ∧ (weirS Weir.reset).flt.lockstep = false ∧ bit Weir.reset.cap 12 = true ∧
    bits Weir.reset.cap 0 12 = 3200 ∧ Weir.reset.excStuck = false ∧ (weirS Weir.reset).spareIsland 0 = true ∧ (weirS Weir.reset).spareIsland 1 = false ∧
    (weirS Weir.reset).flt.hold = false ∧ Weir.reset.tripping = false ∧ ((ctxS ctx0).strm 0).state ≠ .empty ∧
    ((sensorS ⟨100, false, false, 2, 0⟩).sensor 618).off = 2 ∧ ((sensorS ⟨100, false, false, 2, 0⟩).sensor 618).failed = false ∧
    ((sensorS ⟨0, false, true, 0, 2⟩).sensor 618).off = 0 ∧ 2 ≤ ((sensorS ⟨0, false, true, 0, 2⟩).sensor 618).hot ∧
    (4 * ((sensorClass 618).1 : Int) + 20) ≤ 440 ∧ (4 * ((sensorClass 618).1 : Int) + 40) ≤ 460 := by decide +kernel
theorem witness_WeirOff : 120 < 2 * ((sensorS ⟨100, false, false, 2, 0⟩).sensor 618).read -
    median2 ((sensorNbrs 618).map fun x => ((sensorS ⟨100, false, false, 2, 0⟩).sensor x).read) := by
  have h : median2 ((sensorNbrs 618).map fun x => ((sensorS ⟨100, false, false, 2, 0⟩).sensor x).read) = 0 := by
    rw [show ((sensorNbrs 618).map fun x => ((sensorS ⟨100, false, false, 2, 0⟩).sensor x).read) = [0] by decide +kernel]
    simp [median2]
  rw [h]; decide +kernel
/-- 3300 W against a cap of 3200 W, no static share, gain 1: ceil(64 x 100 / 3300) = 2; 10 us of the account are spent (R383, R385). -/
theorem test_weirLaw : lawTerm 16 330000 0 320000 0 = 2 ∧ (excursion Weir.reset 3300 3200).1 = 1990000 := by decide +kernel

/-- A job of number 5 whose streams lag by floor k; this device, 0, is a member and its headwater is h. -/
def jobS (h : BitVec 16) (t : Option (BitVec 6)) : State :=
  { hwS with
    streams := [(0, { Stream.empty with state := .running, leaves := [(0, 0)] })]
    sregs := [(0, { StreamRegs.reset with job := 5 })]
    ctxs := [(8, { ctx0 with job := 5 })]
    fab := { hwS.fab with jobs := [(5, { JobInfo.none with hw := h, members := [0, 1], told := t })] } }

/-- Obligations.WeirLaw, the other commands: an island with and without a generator, a job here and elsewhere that lags and does not,
streams of a job, a log that is on and off. -/
theorem witness_Weir : runS.up = true ∧ (jobS 1 none).own = 0 ∧ 0 ∈ ((jobS 1 none).job 5).members ∧ ((jobS 1 none).job 5).hw.toNat ≠ 0 ∧
    ((jobS 0 none).job 5).hw.toNat = 0 ∧ (jobS 1 none).localFrac 5 ≤ 8 ∧ ((jobS 1 (some 20)).job 5).told = some 20 ∧
    8 < ({ jobS 1 none with weir := { Weir.reset with fracP := 30 } }).localFrac 5 ∧
    (jobS 1 none).jobOf 0 = 5 ∧ ((jobS 1 none).strm 0).state ≠ .empty ∧ ((jobS 1 none).job 5).whole = false ∧
    bit Weir.reset.elog 52 = false ∧ bit (0x0014000022000000 : W64) 52 = true ∧ inStack 0x22000000 32 = true := by decide +kernel
theorem test_currentEval : (after (.currentEval 70 100) runS).weir.meter.toNat / 2 ^ 32 = 70 + 100 * 2 ^ 16 := by decide +kernel
theorem test_staticPowerRefresh : (after (.staticPowerRefresh 9 8) runS).weir = { runS.weir with staticP := 9, staticI := 8 } := by decide +kernel
theorem test_droopStretch : (after (.droopStretch 1) runS).weir.stretched = [1] ∧ (after (.droopStretch 600) runS).weir.stretched = [] := by decide +kernel
theorem test_nominalPeriodReturn : (after (.nominalPeriodReturn 1) (weirS { Weir.reset with stretched := [1, 2] })).weir.stretched = [2] := by decide +kernel
/-- The job at 100 us: told lag t, whether its fraction has been above 8/64 since time 0, the power term. -/
def lagS (t : Option (BitVec 6)) (o : Bool) (p : Nat) : State :=
  let s := jobS 1 t
  { s with time := 100000, weir := { Weir.reset with fracP := p }, fab := { s.fab with jobs := [(5, { s.job 5 with isOver := o })] } }

/-- Obligations.WeirLaw, lags: told and not, above 8/64 and not, long enough and not, four steps away. -/
theorem witness_Lags : 8 < (lagS none true 30).localFrac 5 ∧ ((lagS none true 30).job 5).told = none ∧ ((lagS none true 30).job 5).isOver = decide (8 < (lagS none true 30).localFrac 5) ∧
    100000 ≤ (lagS none true 30).time.toNat - ((lagS none true 30).job 5).since.toNat ∧ (lagS (some 20) false 8).localFrac 5 ≤ 8 ∧
    (20 : BitVec 6).toNat + 4 ≤ (lagS (some 20) true 30).localFrac 5 ∧ ¬(27 : BitVec 6).toNat + 4 ≤ (lagS (some 20) true 30).localFrac 5 := by decide +kernel
theorem test_lagNotice : (after (.lagNotice 5) (lagS none true 30)).out.sent = [.lag 1 5 30 false] ∧
    (after (.lagNotice 5) (lagS none false 30)).out.sent = [] ∧
    (after (.lagNotice 5) (lagS (some 20) false 0)).out.sent = [.lag 1 5 0 true] := by decide +kernel
theorem test_paceNotice : ((after (.paceNotice 5 12) (jobS 1 none)).job 5).floor = 12 ∧ (after (.paceNotice 5 12) (jobS 1 none)).out.sent = [.paceAck 1 5] := by
  decide +kernel
/-- The record: t, energy 77, job 5, device 0, stream 0, reason 3, 9 ns (R393). -/
theorem test_energyRecordSend :
    (after (.energyRecordSend 5) { jobS 1 none with streams := [(0, { (jobS 1 none).strm 0 with energy := 80, told := 3, thrNs := 9, thrBy := [(3, 9)] })] }).out.sent =
    [.energy 1 (BitVec.ofNat 256 (77 * 2 ^ 64 + 5 * 2 ^ 128 + 3 * 2 ^ 168 + 9 * 2 ^ 192))] := by decide +kernel
theorem test_energyRecordReceive : (after (.energyRecordReceive 77) (weirS { Weir.reset with elog := 0x0014000022000000 })).num 0x22000000 4 = 77 ∧
    (after (.energyRecordReceive 77) (weirS { Weir.reset with elog := 0x0014000022000000 })).weir.elogHead = 1 := by decide +kernel
theorem test_weirCapWrite : (after (.weirCapWrite 0x5DC) runS).weir.excStuck = true ∧ (after (.weirCapWrite 0x3E8) runS).weir = runS.weir := by decide +kernel
theorem test_weirCfgWrite : (after (.weirCfgWrite 0x28100A0A07) runS).weir.cfg = 0x28100A0A07 ∧ (after (.weirCfgWrite 0x28100A0A00) runS).weir = runS.weir := by
  decide +kernel
theorem test_weirElogWrite : (after (.weirElogWrite 0x0014000022000000) runS).weir.elog = 0x0014000022000000 ∧
    (after (.weirElogWrite 0x0014000022000001) runS).weir = runS.weir := by decide +kernel

/-! ### The host port -/

/-- BAR2 shows device 0 from 0x0A200000 on; HIF_WIN as w. -/
def barS (w : W64) : State := { winS with hif := { winS.hif with win := w, bar2Log2 := 30 } }

/-- Obligations.HostWindow: D3hot, before RUNNING, addresses of this device in and outside memory, of a dead and a live device. -/
theorem witness_HostWindow : (barS 0x0A200000).hostUp = true ∧ (barS 0).hif.d3hot = false ∧ { (barS 0).hif with d3hot := true }.d3hot = true ∧
    State.reset.boot.phase ≠ .running ∧ (barS 0).boot.phase = .running ∧ (barS 0).memOk ∧ inMem 0x0A200000 8 = true ∧ inMem 0x3000000000 8 = false ∧
    (0x0001000000000000 : W64).toNat / 2 ^ 48 = 1 ∧ (barS 0).isLive 1 = true ∧ (barS 0).isLive 2 = false ∧ (barS 0).fab.waiting = [] ∧
    (barS 0).lineHeld 1 0x0A200000 = false ∧ (barS 0).freeTag = some 0 ∧
    (barS 0).routePort ⟨0x01, 1, 0, 0, 0x0A200000, 8, 64, 0, []⟩ = some 3 := by unfold State.memOk; decide +kernel
theorem test_bar2Read : (after (.bar2Read 0 2) (barS 0x0A200000)).out.replies = [.bytes [0x11, 0x22]] ∧
    (after (.bar2Read 0x0A200000 8) (barS 0x0001000000000000)).out.packets = [(3, ⟨0x01, 1, 0, 0, 0x0A200000, 8, 64, 0, []⟩)] := by decide +kernel
theorem test_bar2Write : (after (.bar2Write 1 [9, 8]) (barS 0x0A200000)).num 0x0A200000 4 = 0x080911 ∧
    (after (.bar2Write 0 [1]) (barS 0x0002000000000000)).mem = (barS 0).mem := by decide +kernel

/-- Obligations.HostRegisters: aligned and misaligned bases, rings enabled and not, sizes in and out of range. -/
theorem witness_HostRegisters : runS.hostUp = true ∧ runS.boot.phase = .running ∧ (0x40000000 : W64).toNat % 2 ^ runS.hif.bar2Log2 = 0 ∧
    (0x1000 : W64).toNat % 2 ^ runS.hif.bar2Log2 ≠ 0 ∧ bits (0x3 : W64) 0 4 < 4 ∧ bits (0x14 : W64) 0 4 = 4 ∧ bit (0x14 : W64) 4 = true ∧
    bit (runS.sreg 0).cmdRing 4 = false ∧ bit (runS.chan 0).ring 4 = false ∧ (9 : W64).toNat % 8 ≠ 0 := by decide +kernel
theorem test_hifWinWrite : (after (.hifWinWrite 0x40000000) runS).hif.win = 0x40000000 ∧ (after (.hifWinWrite 0x1000) runS).hif.win = 0 := by decide +kernel
theorem test_hifRingWrite : ((after (.hifRingWrite (.cmd 0) 0x5014) runS).sreg 0).cmdRing = 0x5014 ∧
    ((after (.hifRingWrite (.dma 1) 0x5013) runS).chan 1).ring = 4 := by decide +kernel
theorem test_irqPendClear : (after (.irqPendClear true 2) { runS with hif := { runS.hif with pend := 7 * 2 ^ 64 } }).hif.pend = 5 * 2 ^ 64 := by
  decide +kernel

/-- DMA channel 0 with an enabled ring of 16, head 0, tail 3, the write-back at 0x8000, and work. -/
def dmaS (w : List (BitVec 256)) : State :=
  { winS with hif := { winS.hif with dma := [(0, { Chan.reset with ring := 0x14, wb := 0x8000, tail := 3, work := w })] } }

/-- A descriptor: host address 0x7000, device address 0x0A200000, 2 bytes, tag 5, flags. -/
def dmaDesc (flags : Nat) : BitVec 256 := BitVec.ofNat 256 (0x7000 + 0x0A200000 * 2 ^ 64 + 2 * 2 ^ 128 + 5 * 2 ^ 192 + flags)

/-- Obligations.HostDma: a tail in range, a due descriptor, a reserved bit, an outside address, work in both directions, a halt. -/
theorem witness_HostDma : (dmaS []).up = true ∧ (dmaS []).hostUp = true ∧ (dmaS []).hif.d3hot = false ∧ bit ((dmaS []).chan 0).ring 4 = true ∧
    ((dmaS []).chan 0).halted = false ∧ ((dmaS []).chan 0).started ≠ ((dmaS []).chan 0).tail ∧ ((dmaS []).chan 0).sent = false ∧
    (dmaS []).dmaPending 0 = false ∧ bits (dmaDesc 0) 163 29 = 0 ∧ bits (dmaDesc 0) 224 32 = 0 ∧ bits (dmaDesc (2 ^ 224)) 224 32 ≠ 0 ∧
    bits (dmaDesc 0) 64 64 = 0x0A200000 ∧ bits (dmaDesc 0) 128 32 = 2 ∧ bit (dmaDesc (2 ^ 160)) 160 = true ∧ bit (dmaDesc (2 ^ 161)) 161 = true ∧
    (dmaS []).poisonIn 0x0A200000 2 = none ∧ (dmaS []).memOk ∧ ((dmaS [dmaDesc 0]).chan 0).work = [dmaDesc 0] := by unfold State.memOk; decide +kernel
/-- A channel that waits for the answer of its last line, to or from device 1, with tag 9. -/
def dmaFar (typ : BitVec 8) (who : Requester) (d : BitVec 256) : State :=
  let s := dmaS [d]
  { s with fab := { s.fab with reqs := [(9, some (farReq typ who))] }, hif := { s.hif with dma := [(0, { (s.chan 0) with sent := true })] } }
theorem witness_DmaAnswers :
    (let s := dmaFar 0x04 (.dma 0) (dmaDesc 0)
     s.Quiet ∧ (s.chan 0).sent = true ∧ (s.chan 0).work = [dmaDesc 0] ∧ (reqPkt 0x11 0 0 []).dst.toNat = s.own ∧
       tget none s.fab.reqs 9 = some (farReq 0x04 (.dma 0)) ∧ (∀ e ∈ s.fab.reqs, e.1 ≠ 9 → ∀ q, e.2 = some q → q.who.isDma 0 = false) ∧
       (s.fab.reqs.map Prod.fst).Pairwise (· < ·)) ∧
    (let s := dmaFar 0x02 (.dmaRead 0 0 0 2) (dmaDesc (2 ^ 160))
     tget none s.fab.reqs 9 = some (farReq 0x02 (.dmaRead 0 0 0 2)) ∧ bit (dmaDesc (2 ^ 160)) 160 = true ∧ bits (dmaDesc (2 ^ 160)) 128 32 = 2) := by
  refine ⟨⟨?_, ?_, ?_, ?_, ?_, ?_, ?_⟩, ?_⟩
  · unfold State.Quiet; decide +kernel
  · decide +kernel
  · decide +kernel
  · decide +kernel
  · decide +kernel
  · intro e he hne
    have : e = (9, some (farReq 0x04 (.dma 0))) := by simpa [dmaFar] using he
    subst this; exact absurd rfl hne
  · decide +kernel
  · decide +kernel
theorem test_dmaAnswers : ((after (.ack (reqPkt 0x11 0 0 [])) (dmaFar 0x04 (.dma 0) (dmaDesc 0))).chan 0).head = 1 ∧
    (after (.data (reqPkt 0x10 0 0 (List.replicate 128 6))) (dmaFar 0x02 (.dmaRead 0 0 0 2) (dmaDesc (2 ^ 160)))).out.hostWrites =
      [(0x7000, [6, 6]), (0x8000, [1, 0, 0, 0, 5, 0, 0, 0])] := by decide +kernel
theorem test_dmaTailDoorbell : ((after (.dmaTailDoorbell 0 16) (dmaS [])).chan 0).tail = 16 ∧ ((after (.dmaTailDoorbell 0 17) (dmaS [])).chan 0).tail = 3 := by
  decide +kernel
theorem test_dmaDescriptor : ((after (.dmaDescriptor 0 (dmaDesc 0)) (dmaS [])).chan 0).work = [dmaDesc 0] ∧
    ((after (.dmaDescriptor 0 (dmaDesc (2 ^ 224))) (dmaS [])).chan 0).err = eOperand := by decide +kernel
theorem test_dmaDescriptorDone : (after (.dmaDescriptorDone 0 none) (dmaS [dmaDesc (2 ^ 160)])).out.hostWrites =
      [(0x7000, [0x11, 0x22]), (0x8000, [1, 0, 0, 0, 5, 0, 0, 0])] ∧
    (after (.dmaDescriptorDone 0 (some [7, 8])) (dmaS [dmaDesc 0])).num 0x0A200000 4 = 0x0807 := by decide +kernel
theorem test_dmaRestart : ((after (.dmaRestart 0) { dmaS [] with hif := { Hif.reset with linkUp := true, dma := [(0, { Chan.reset with halted := true })] } }).chan 0).halted = false := by
  decide +kernel

/-- Obligations.HostEndpoints: ready and not, D3hot, sessions, phases, IDE streams secure and not, a locked levee bit. -/
theorem witness_HostEndpoints : runS.hostUp = true ∧ runS.boot.imageOk = true ∧ State.reset.boot.imageOk = false ∧ State.reset.boot.phase = .rom ∧
    runS.hif.sessions < 4 ∧ (∀ i : StreamId, (runS.sreg i).held = []) ∧ bit runS.sec.levee 1 = false ∧ bit (2 : BitVec 4) 1 = true ∧
    runS.hif.eid = 0 ∧ (runS.ideOf 0).secure = false ∧ runS.flt.lockstep = false := by decide +kernel
theorem test_configRequest : (after (.configRequest (.read 0)) runS).out.replies = [.value 0x05121F4D] ∧
    (after (.configRequest (.read 0)) { runS with boot := { runS.boot with imageOk := false, phase := .rom } }).out.replies = [.retryStatus] := by decide +kernel
theorem test_d3hotEnter : (after .d3hotEnter runS).hif.d3hot = true := by decide +kernel
/-- A masked message waits and goes out when its vector is unmasked (R412). -/
theorem test_msix : (let s := { runS with hif := { runS.hif with msixEn := true } }
    (s.raise 85).out.msix = [] ∧ (s.raise 85).hif.msixPba = [85] ∧
    (after (.configRequest (.msixVector 85 false)) (s.raise 85)).out.msix = [85] ∧
    (after (.configRequest (.msixVector 85 false)) (s.raise 85)).hif.msixPba = [] ∧
    (after (.configRequest (.resizeBar2 30)) s).hif.bar2Log2 = 30 ∧
    (after (.configRequest (.msixControl false true)) s).hif.msixMask = true) := by decide +kernel
theorem test_d0Return : (after .d0Return { runS with hif := { runS.hif with d3hot := true, held := [(8, [1])], msixHeld := [3] } }).out.hostWrites = [(8, [1])] ∧
    (after .d0Return { runS with hif := { runS.hif with d3hot := true, held := [(8, [1])], msixHeld := [3] } }).out.msix = [3] := by decide +kernel
theorem test_mctpMessage : (after (.mctpMessage 0 0 [0, 1, 0, 9]) runS).hif.eid = 9 ∧ (after (.mctpMessage 0 1 [0, 1, 0, 9]) runS).hif.eid = 0 := by
  decide +kernel
theorem test_smbusPacket : (after (.smbusPacket true 0 0 [0, 1, 0, 9]) runS).hif.eidSmb = 9 ∧ (after (.smbusPacket false 0 0 [0, 1, 0, 9]) runS).hif.eidSmb = 0 := by
  decide +kernel
theorem test_spdmRequest : (after (.spdmRequest .keyExchange false []) runS).hif.sessions = 1 ∧
    (after (.spdmRequest .keyExchange false []) { runS with hif := { runS.hif with sessions := 4 } }).out.replies = [.spdmError "SessionLimitExceeded"] := by
  decide +kernel
theorem test_ideKm : ((after (.ideKm (.configure 1 true)) { runS with hif := { runS.hif with sessions := 1 } }).ideOf 1).enabled = true ∧
    ((after (.ideKm (.configure 1 true)) runS).ideOf 1).enabled = false := by decide +kernel
theorem test_ideIntegrityFail : ((after (.ideIntegrityFail 1) { runS with hif := { runS.hif with ide := [(1, ⟨true, true, true⟩)] } }).ideOf 1).secure = false := by
  decide +kernel

/-! ### Power, start-up and resets -/

/-- The rails on, the image verified, before step 6. -/
def railsS : State := { runS with boot := { runS.boot with phase := .rails } }

/-- In the phase p. -/
def phaseS (p : Phase) : State := { runS with boot := { runS.boot with phase := p } }

/-- Findings of a start-up without a fault. -/
def sound : StartupInput := ⟨[], [], [], [], [], [], [], none, none, [], [], [], 0, 0, false⟩

/-- A core of context 0 of another device's stream, a stream that runs, a group. -/
def flrS : State := { ctxS { ctx0 with dev := 1, wait := .idle } with groups := [(0x100, { Group.none with defined := true })] }

/-- Obligations.BootRom, PowerPins, StartUp and Resets: each power state and each phase; blank flash. That a slot passes R435 rests on
keys and secrets, which are open here (log 16), so that no witness shows it. -/
theorem witness_Power : State.reset.pins.standby = false ∧ runS.pins.standby = true ∧ runS.pins.pwrEn = true ∧ State.reset.pins.pwrEn = false ∧
    State.reset.flashCheck 0 1 = eBootImage ∧ State.reset.flashCheck 0x1000000 1 = eBootImage ∧ railsS.boot.phase = .rails ∧
    railsS.pins.pwrGood = true ∧ railsS.pins.corePower = true ∧ railsS.flt.lockstep = false ∧ sound.tripped = false ∧
    { sound with tripped := true }.tripped = true ∧ railsS.flashCheck 0x2000000 2 ≠ 0 ∧ runS.hostUp = true ∧ (phaseS .recovery).boot.phase = .recovery ∧
    runS.imageCheck 1 4 (sliceOf [0, 0, 0, 0]) ≠ 0 := by decide +kernel
theorem witness_Resets : (phaseS .ready).boot.phase = .ready ∧ flrS.hostUp = true ∧ flrS.boot.phase = .running ∧ flrS.ctxsOk ∧ flrS.memOk ∧
    (flrS.ctx 0).used = true ∧ (flrS.ctx 0).dev.toNat ≠ flrS.own ∧ (∀ i : StreamId, (runS.strm i).state = .empty) ∧ runS.mis = [] := by
  unfold State.ctxsOk State.memOk; decide +kernel

/-- A posted write to device 1 is outstanding with tag 9, with and without a function-level reset that waits for it. -/
def flrWait (x : Option W64) : State :=
  let s := waitS (farReq 0x04 .posted) .ready
  { s with hif := { s.hif with linkUp := true }, boot := { s.boot with flrAt := x } }
theorem witness_FlrWaits : (flrWait none).hostUp = true ∧ (∃ q ∈ (flrWait none).fab.reqs, q.2 ≠ none) ∧ (flrWait (some 0)).up = true ∧
    (flrWait (some 0)).boot.flrAt = some 0 ∧ (flrWait (some 0)).fab.waiting = [] ∧ (flrWait (some 0)).fab.mstate ≠ .leaving ∧
    (reqPkt 0x11 0 0 []).dst.toNat = (flrWait (some 0)).own ∧ ((flrWait (some 0)).fab.reqs.map Prod.fst).Pairwise (· < ·) ∧
    tget none (flrWait (some 0)).fab.reqs 9 = some (farReq 0x04 .posted) ∧ (farReq 0x04 .posted).pkt.dst = (reqPkt 0x11 0 0 []).src ∧
    (∀ e ∈ (flrWait (some 0)).fab.reqs, e.1 ≠ 9 → e.2 = none) ∧ (∀ q ∈ runS.fab.reqs, q.2 = none) ∧ runS.fab.waiting = [] := by decide +kernel
theorem test_flrWaits : (after .functionLevelReset (flrWait none)).boot.flrAt = some 0 ∧
    (after (.ack (reqPkt 0x11 0 0 [])) (after .functionLevelReset (flrWait none))).boot.lastReset = 3 := by decide +kernel
/-- Obligations.StartUp: a fetch in a free register set; five lanes of a tier that fail. -/
theorem witness_StartUp : runS.OpFree (.rcvFetch 4 true) ∧ (runS.busy .rcv = false ∧ { runS with ops := [.rcvFetch 4 true] }.busy .rcv = true) ∧
    4 < (badLanes { sound with lanes := (List.range 5).map fun k => ⟨3, 2, true, BitVec.ofNat 9 k⟩ } 3 2 true).length ∧
    (2 : Nat) ≤ ones 6 (0x5 : BitVec 6) ∧ ones 17 (0x10 : BitVec 17) = 1 := by
  refine ⟨⟨?_, ?_⟩, ?_⟩ <;> decide +kernel

theorem test_vinRise : (after (.vinRise 5) State.reset).boot.phase = .recovery ∧ (after (.vinRise 5) State.reset).pins.slotId = 5 := by decide +kernel
theorem test_vinUndervolt : (after .vinUndervolt runS).pins.standby = false ∧ (after .vinUndervolt runS).boot.phase = .rom := by decide +kernel
theorem test_vinOvervolt : (after .vinOvervolt (ctxS ctx0)).streams = [] ∧ (after .vinOvervolt State.reset).pins = State.reset.pins := by decide +kernel
theorem test_pwrEnRise : (after (.pwrEnRise true) { phaseS .image with pins := { runS.pins with pwrEn := false } }).boot.phase = .rails ∧
    (after (.pwrEnRise false) { runS with pins := { runS.pins with pwrEn := false } }).pins.pwrGood = false := by decide +kernel
theorem test_pwrEnFall : (after .pwrEnFall runS).boot.lastReset = 1 ∧ (after .pwrEnFall flrS).groups = [] := by decide +kernel
theorem test_railOutOfRegulation : (after .railOutOfRegulation runS).pins.pwrGood = false := by decide +kernel
theorem test_startupContinue : (after (.startupContinue { sound with tripped := true }) railsS).boot.err = eThermalTrip ∧
    (after (.startupContinue sound) railsS).boot.err = eBootImage := by decide +kernel
theorem test_perstAssert : (after (.perstAssert 3) runS).boot.lastReset = 2 ∧ (after (.perstAssert 3) runS).pins.slotId = 3 := by decide +kernel
theorem test_perstRelease : (after .perstRelease { runS with pins := { runS.pins with perst := true }, hif := Hif.reset }).hif.linkUp = true := by decide +kernel
theorem test_functionLevelReset : (after .functionLevelReset flrS).boot.lastReset = 3 ∧ ((after .functionLevelReset flrS).group 0x100).defined = false := by
  decide +kernel
theorem test_bootRcvFetch : (after (.bootRcvFetch 0x1000001 true []) runS).boot.rcvErr = eBounds ∧
    (after (.bootRcvFetch 4 false [0, 0, 0, 0]) runS).boot.rcvErr = eBusy := by decide +kernel
theorem test_bootRcvOpRefused : (after (.bootRcvOpRefused 4 true) runS).boot.rcvErr = eHandle := by decide +kernel

/-- Obligations.HostAck: READY and another phase; a ring control of 2^5 entries with enable. -/
theorem witness_HostAck : (phaseS .ready).hostUp = true ∧ (phaseS .ready).boot.phase = .ready ∧ runS.boot.phase ≠ .ready ∧ bit (0x5015 : W64) 4 = true ∧
    4 ≤ bits (0x5015 : W64) 0 4 ∧ bits (0x5015 : W64) 0 4 ≤ 12 ∧ bit ((phaseS .ready).sreg 0).cmdRing 4 = false := by decide +kernel
theorem test_hostAck : (after .hostAck (phaseS .ready)).boot.phase = .running ∧ (after .hostAck (phaseS .selftest)).boot.phase = .selftest := by decide +kernel

/-! ### Faults, keys and registers -/

/-- A fault bit of stream 0. -/
def fbit (c : Code) (k : BitVec 8) (st : Option StreamId) : FaultBit := ⟨c, k, 0, st, 5, 6⟩

/-- Obligations.FaultClasses: a code of each class, streams live and not, a residue within 1 ms of another. -/
theorem witness_FaultClasses : (ctxS ctx0).pins.corePower = true ∧ ((ctxS ctx0).strm 0).state = .running ∧ (ctxS ctx0).flt.lockstep = false ∧
    (fbit eSensor 7 none).code = eSensor ∧ (fbit eVecKat 0 (some 0)).code = eVecKat ∧ (fbit eThermalTrip 5 none).code = eThermalTrip ∧
    ({ ctxS ctx0 with cores := [(0, { Core.reset with residueAt := some 0 })] }.core 0).residueAt = some 0 ∧
    [eStackTier, eSensor, eNoiseHealth, eFabStall, eLinkDown, eRiffleKat, eRiffleLate, eVecKat, eLockstep, eThermalTrip, eClock, eResidue, eSecded,
      eStackUe].contains eHandshake = false := by decide +kernel
/-- A machine where context 0 of core 0 runs a dispatched block: what a class 2 fault of the core meets. -/
theorem witness_CoreWork : let s := ctxS { ctx0 with blocks := [⟨0, 0, [], 0⟩] }
    ctxCore 0 = 0 ∧ (s.ctx 0).used = true ∧ (s.ctx 0).dev.toNat = s.own ∧ (s.ctx 0).blocks ≠ [] ∧ (s.strm (s.ctx 0).strm).state = .running := by
  decide +kernel
theorem test_faultLatch : ((after (.faultLatch (fbit eHandshake 0 (some 0))) (ctxS ctx0)).strm 0).state = .faulted ∧
    (after (.faultLatch (fbit eSensor 7 none)) (ctxS ctx0)).flt.latch.map (fun e => e.2.1) = [0] := by decide +kernel
theorem test_lockstepMismatch : (after .lockstepMismatch (ctxS ctx0)).flt.hold = true ∧ ((after .lockstepMismatch (ctxS ctx0)).strm 0).lastErr = eLockstep := by
  decide +kernel

/-- One fault at the latch; number 300 is next, and the ring is off. -/
def latchS : State := { runS with flt := { runS.flt with latch := [(fbit eSensor 7 none, 0, 9)], next := 300, read := [(44, false)] } }

/-- Obligations.FaultRecords: the latch empty and not; islands of a core, a cluster and the cobbler, a spare one; a fenced core. -/
theorem witness_FaultRecords : runS.flt.latch = [] ∧ latchS.flt.latch = [(fbit eSensor 7 none, 0, 9)] ∧ latchS.hif.d3hot = false ∧ runS.up = true ∧
    runS.flt.lockstep = false ∧ physOf (bits (runS.cluster 0).coreSpare 0 5) 0 = 1 ∧ bits (runS.cluster 0).coreSpare 0 5 = 0 ∧ 300 % 256 = 44 ∧
    tget true latchS.flt.read 44 = false := by decide +kernel
/-- Number 300, E_SENSOR, class 0, source kind 7, no stream; the unread record 44 is overwritten (R457, R458). -/
theorem test_faultRecord : (tget 0 (after .faultRecord latchS).flt.records 44).toNat % 2 ^ 64 = 300 + eSensor.toNat * 2 ^ 32 + 7 * 2 ^ 56 ∧
    (after .faultRecord latchS).flt.overrun = 1 := by decide +kernel
theorem test_handshakeTimeout : (after (.handshakeTimeout 1 577 none) runS).flt.latch.map (fun e => e.1) = [⟨eHandshake, 0, 0, none, 0x0A00000000010241, 0⟩] := by
  decide +kernel
theorem test_clockMonitorTrip : (after (.clockMonitorTrip 619) runS).flt.hold = true ∧ ((after (.clockMonitorTrip 1) runS).core 0).fenced = true := by
  decide +kernel
theorem test_secdedScrub : (after (.secdedScrub (.line 0 200 true)) runS).flt.latch.map (fun e => e.1.arg0) = [128] ∧
    (after (.secdedScrub (.tag 0 3 true)) runS).flt.hold = true := by decide +kernel
theorem test_safeCoreClear : ((after (.safeCoreClear 0 1) { runS with cores := [(0, { Core.reset with fenced := true })] }).core 0).fenced = false ∧
    ((after (.safeCoreClear 0 1) { runS with cores := [(0, { Core.reset with fenced := true })] }).core 0).mustKat = true := by decide +kernel

/-- Obligations.LeveeAndKeys: levee bits set and clear, a slot that is not the signer's, floors in and out of range. Which keys the fuses
revoke is open here (log 16), so that no witness shows a key that is not revoked. -/
theorem witness_LeveeAndKeys : runS.boot.phase = .running ∧ runS.sec.levee = 0 ∧ bit (2 : BitVec 4) 1 = true ∧ bit (8 : BitVec 4) 3 = true ∧
    runS.signer = 0 ∧ runS.sec.floor = 0 ∧ runS.boot.svn = 0 ∧ runS.sec.floorPend = none := by decide +kernel
theorem witness_Revoked : { runS with sec := { runS.sec with revoked := 2 } }.revoked 1 = true := by
  rw [State.revoked, Bool.or_eq_true]; exact Or.inr (by decide +kernel)
theorem test_leveeLockWrite : (after (.leveeLockWrite .host 5) runS).sec.levee = 5 ∧ (after (.leveeLockWrite (.ctx 0) 5) runS).sec.levee = 0 := by decide +kernel
theorem test_secKeyRevoke : (after (.secKeyRevoke 1) { runS with sec := { runS.sec with levee := 2 } }).sec.revoked = 0 ∧ goes (.secKeyRevoke 1) runS = true := by
  decide +kernel
theorem test_secFloorWrite : (after (.secFloorWrite 0) runS).sec.floorPend = some 0 ∧ (after (.secFloorWrite 1) runS).sec.floorPend = none := by decide +kernel
theorem test_secFloorStored : (after .secFloorStored { runS with sec := { runS.sec with floorPend := some 3 } }).sec.floor = 3 := by decide +kernel

/-- A group list of one member, core 0, at 0x0A300000, described at 0x0A200000. -/
def gdefS (n : Nat) : State :=
  let s := (runS.putBytes 0x0A200000 (leBytes 4 n ++ leBytes 6 0x0A300000)).putBytes 0x0A300000 [0, 0, 0, 0]
  { s with dev := { s.dev with gdefSrc := 0x0A200000 } }

/-- Obligations.GroupRegisters: a source aligned and not, in and out of memory, a definition that succeeds and one that fails, a group
that is defined and one in use. -/
theorem witness_GroupRegisters : runS.boot.phase = .running ∧ runS.dev.gdefSrc.toNat % 64 = 0 ∧ (0x21 : BitVec 48).toNat % 64 ≠ 0 ∧
    inMem 0x3000000000 32 = false ∧ (gdefS 1).gdefErr 0x100 true 0x0A200000 = 0 ∧ (gdefS 1).gdefErr 0x10 true 0x0A200000 ≠ 0 ∧
    (groupS { Group.none with defined := true }).group 0x100 = { Group.none with defined := true } ∧ runS.busy .gdef = false ∧
    { runS with ops := [.gdefRemove 7] }.busy .gdef = true ∧ { runS with ops := [.gdefRemove 7] }.running .gdef ≠ some (.gdefDefine 7) ∧ (runS.group 0x100).defined = false := by decide +kernel
theorem test_unitGdefDefine : ((after (.unitGdefDefine 0x100) (gdefS 1)).group 0x100).defined = true ∧ (after (.unitGdefDefine 0xFF) (gdefS 1)).dev.gdefErr = eHandle := by
  decide +kernel
theorem test_unitGdefRemove : ((after (.unitGdefRemove 0x100) (groupS { Group.none with defined := true })).group 0x100).defined = false ∧
    (after (.unitGdefRemove 0x100) (groupS { Group.none with defined := true, refs := 1 })).dev.gdefErr = eBusy := by decide +kernel
theorem test_unitGdefOpRefused : (after (.unitGdefOpRefused 0x100) runS).dev.gdefErr = eHandle := by decide +kernel

/-- The selector of event e for every stream, its counter enabled, of the cobbler. -/
def selOf (e : Nat) : W64 := BitVec.ofNat 64 (e + 64 * 2 ^ 12 + 2 ^ 19)

/-- Obligations.EventCounters: selectors that are good, that name no event, and that filter no stream; a counter that counts. -/
theorem witness_EventCounters : runS.boot.phase = .running ∧ evDomain evHifBadAccess = some .device ∧ evDomain 0xFF = none ∧
    bits (selOf evHifBadAccess) 12 7 ≤ 64 ∧ 64 < bits (0x7F000 : W64) 12 7 ∧ bit (selOf evHifBadAccess) 19 = true ∧
    evHifBadAccess ≠ 0 ∧ evHifBadAccess ≠ evHeldAtBound ∧ counterNo (.cobbler 0) = 4608 ∧ runS.evt.freeze = false := by decide +kernel
theorem test_snapshot : (let s := (after (.evtSelWrite (.core 0 0) 0xC0000) runS)
    tget 0 s.evt.pend 0 = 0 ∧ (s.snapshot [0]).evt.pend = []) := by decide +kernel
theorem test_evtSelWrite : (after (.evtSelWrite (.cobbler 0) (selOf evHifBadAccess)) runS).evtSel 4608 = selOf evHifBadAccess ∧
    (after (.evtSelWrite (.core 0 0) (selOf evHifBadAccess)) runS).evtSel 0 = 0x40000 := by decide +kernel
theorem test_evtCntWrite : ((after (.evtCntWrite (.cobbler 0) 7) runS).evtCnt 4608).toNat = 7 := by decide +kernel
theorem test_evtFreeze : (after (.evtFreeze true) runS).evt.freeze = true := by decide +kernel
theorem test_evtClear : (after .evtClear { runS with evt := ⟨[], [(3, 5)], false, [], []⟩ }).evtCnt 3 = 0 := by decide +kernel

/-- The debug window open; core 0 halted; its context 0 at an add. -/
def dbgS : State :=
  let s := (ctxS ctx0).putBytes 0x10000000 [1, 0x12, 4, 0]
  { s with sec := { s.sec with dbgEn := true }, cores := [(0, { Core.reset with halt := true })] }

/-- Obligations.DebugWindow: the window open and closed, a core halted and not, a context that may issue. -/
theorem witness_DebugWindow : dbgS.dbgOpen = true ∧ runS.dbgOpen = false ∧ (dbgS.core 0).halt = true ∧ (runS.core 0).halt = false ∧
    (dbgS.modCore 0 fun x => { x with halt := false }).canRetry 0 (fun _ => true) true = true ∧ (encodeSeq ((dbgS.fetch 0).getD (.sEnd 0 always))).isSome = true ∧ (dbgS.fetch 0).isSome = true := by decide +kernel
theorem test_dbgHalt : ((after (.dbgHalt 0 false) dbgS).core 0).halt = false ∧ ((after (.dbgHalt 0 true) runS).core 0).halt = false := by decide +kernel
theorem test_dbgStep : ((after (.dbgStep 0 0) dbgS).ctx 0).pc = 0x10000004 ∧ ((after (.dbgStep 0 0) dbgS).core 0).halt = true := by decide +kernel

/-- Obligations.RegisterAccesses: alignment, phases, ranges without a register. -/
theorem witness_RegisterAccesses : runS.hostUp = true ∧ (0x12 : BitVec 26).toNat % 4 ≠ 0 ∧ (phaseS .ready).boot.phase ≠ .running ∧
    (0x14000 : BitVec 26).toNat % 8 = 0 ∧ { runS with timeHi := some 3 }.timeHi = some 3 := by decide +kernel
/-- Operations of register sets: none in progress, another, the row's own, and one of another stream that comes before it. -/
theorem witness_RegisterOps : let q := RegOp.treeOp 2 1 0 0
    runS.busy q.set = false ∧ opRow (.kvTreeLookup 1 0 0) = some q ∧ { runS with ops := [.treeOp 3 1 0 0] }.running q.set = some (.treeOp 3 1 0 0) ∧
    { runS with ops := [.treeOp 1 0 0 0, q] }.running q.set = some q ∧ { runS with ops := [.treeOp 1 0 0 0, q] }.turn q = false ∧
    { runS with ops := [q] }.turn q = true ∧ runS.OpFree q ∧ { runS with ops := [.treeOp 1 0 0 0] }.running q.set = none ∧
    (let s := runS.setTree 1 0 0; q.written s = s) := by
  refine ⟨?_, ?_, ?_, ?_, ?_, ?_, ?_, ?_, ?_⟩
  all_goals first | decide +kernel | (unfold State.OpFree; decide +kernel)
/-- A write that starts a definition makes the set busy; another write is then refused; the row carries it out (R28, R29). -/
theorem test_registerOp : (after (.registerWrite .host 0x88 true 0x10100) (gdefS 1)).busy .gdef = true ∧
    (let s := after (.registerWrite .host 0x88 true 0x10100) (gdefS 1)
     (after (.registerWrite .host 0x88 true 0x10101) s).ops = s.ops ∧ ((after (.unitGdefDefine 0x100) s).group 0x100).defined = true ∧
       (after (.unitGdefDefine 0x100) s).busy .gdef = false) := by decide +kernel
theorem test_registerRead : (after (.registerRead .host 0 true) runS).out.replies = [.value 0x0020020005120001] ∧
    (after (.registerRead .host 2 false) runS).out.replies = [.unsupported] := by decide +kernel
theorem test_registerWrite : (after (.registerWrite .host 0x118 true 0x1122334455667788) runS).dev.rprData = 0x1122334455667788 ∧
    (after (.registerWrite .host 0x11C false 9) runS).dev.rprData = 0x900000000 := by decide +kernel

/-! ### Steps, words and ill-formed commands -/

/-- Obligations.StepRunsFront: the command at the front runs with the rest of the queue; a machine without commands. -/
theorem test_step : (match step { runS with pending := [.evtFreeze true, .evtClear] } with
    | .next t => t.evt.freeze && decide (t.pending = [.evtClear]) | _ => false) = true ∧ runS.pending = [] ∧
    (match step runS with | .next t => decide (t.time = 1) | _ => false) = true := by decide +kernel

/-- Obligations.Encoding: an instruction of each kind has a word; the table gives no bits, so no word spells a command. -/
theorem witness_Encoding : (encodeSeq (.sEnd 0 always)).isSome = true ∧ (encodeVec (.vAdd 0 always (vop 0 0))).isSome = true ∧
    decodeTableWord 32 0xF8000000 = none ∧ (runS.withFetchWord 32 0xF8000000) = runS := by decide +kernel

/-- Obligations.StepKeepsTables and LocksHold: memory and contexts in order, a step that answers, a bit set and a key revoked. -/
theorem witness_Invariants : (ctxS ctx0).memOk ∧ (ctxS ctx0).ctxsOk ∧ goes .evtClear (ctxS ctx0) = true ∧ bit (4 : BitVec 4) 2 = true ∧
    bit { runS.sec with revoked := 2 }.revoked 1 = true := by unfold State.memOk State.ctxsOk; decide +kernel

theorem ill_entryCode : Instr.ill (.load 0 1) = some .entryCode ∧ Instr.ill (.load 0 2) = none := by decide +kernel
theorem ill_vectorForm : Instr.ill (.vAdd 0 always (vop 0 0)) = some .vectorForm ∧ Instr.ill (.vAdd 0 always (vop 1 0)) = none := by decide +kernel
theorem ill_cacheValue : Instr.ill (.cchCtlBad 0 0 5) = some .cacheValue ∧ Instr.ill (.cchCtlBad 0 0 6) = none := by decide +kernel
theorem ill_lineSpan : Instr.ill (.lineAccess ⟨127, .none, 0, none, some [1, 2], []⟩) = some .lineSpan := by decide +kernel
theorem ill_awlAlign : Instr.ill (.awlRequest 0 4 (.read true) []) = some .awlAlign := by decide +kernel
theorem ill_tier : Instr.ill (.stkRprRead 0 6 0 0) = some .tier := by decide +kernel
theorem ill_refusedOp : Instr.ill (.kvTreeOpRefused 0 0 0 5) = some .refusedOp := by decide +kernel
theorem ill_engine : Instr.ill (.vidDb 10) = some .engine := by decide +kernel
theorem ill_upsetCell : Instr.ill (.patrolScrubLine 0 [⟨0, 6, 0, 0, 0, 0⟩]) = some .upsetCell := by decide +kernel
theorem ill_noLane : Instr.ill (.portUp 0 0) = some .noLane := by decide +kernel
theorem ill_packetType : Instr.ill (.rd (reqPkt 0x02 8 0 [])) = some .packetType := by decide +kernel
theorem ill_packetPayload : Instr.ill (.wr (reqPkt 0x03 0 0 [1])) = some .packetPayload := by decide +kernel
theorem ill_bar2Size : Instr.ill (.bar2Read 0 0) = some .bar2Size := by decide +kernel
theorem ill_configAlign : Instr.ill (.configRequest (.read 2)) = some .configAlign := by decide +kernel
theorem ill_registerAlign : Instr.ill (.registerRead .host 4 true) = some .registerAlign := by decide +kernel
theorem ill_imageLength : Instr.ill (.bootRcvFetch 3 false [1]) = some .imageLength := by decide +kernel
theorem ill_sensor : Instr.ill (.weirPeriod ⟨[(1024, 0)], 0, 0, 0, 0, [], [], 0, [], []⟩) = some .sensor := by decide +kernel
theorem ill_spare : Instr.ill (.startupContinue { sound with spare := [(0, 17)] }) = some .spare := by decide +kernel
theorem ill_claimShape : Instr.ill (.rangeClaim (.take 0 0 0 0 0 0 [] [] 0 1 1 1 0 [])) = some .claimShape := by decide +kernel

end Sys2Proof.Tests
end

section
/-! PROOFS. The video engines: an encode that fits its buffer reports the status that its job came with, so that the completion
status of `Obligations.Video` fails for a job in progress whose status is not 0. -/

namespace Sys2Proof.Machine

/-! ### Memory without stored errors -/

/-- A codeword without symbols in error on a vault without failed tiers decodes (R278). -/
theorem State.decodeLine_of_sound {s : State} (h : s.Sound) (v q : Nat) : s.decodeLine v q = .clean := by
  obtain ⟨hupsets, hfailed⟩ := h
  have herrors : s.symbolErrors v q = [] := by simp [State.symbolErrors, hupsets]
  rw [State.decodeLine, herrors, hfailed v]
  decide

/-- Where no symbol is in error, a reader meets the marked lines only (R279). -/
theorem State.badLine_of_sound {s : State} (h : s.Sound) (ln : Nat) : s.badLine ln = s.poisoned ln := by
  simp [State.badLine, State.decodeLine_of_sound h]

/-- No line lies in no bytes. -/
@[simp] theorem State.poisonIn_zero (s : State) (a : Nat) : s.poisonIn a 0 = none := by simp [State.poisonIn]

/-! ### Work on a job -/

/-- Work of an op on an unfinished job of that op on an engine that may do it. -/
theorem State.onJob_of_working {s : State} {e : Nat} {j : Job} {enc : Option Bool} (he : e < 10) (hup : s.up = true)
    (hjob : (s.engine e).job = some j) (hfin : j.finished = false) (henc : enc.any (fun b => b != isEncoder e) = false)
    (k : State → Job → State) : s.onJob e (jOp j.entry) enc k = k s j := by
  simp [State.onJob, hup, hjob, hfin, henc, show ¬10 ≤ e by omega]

/-- The job of an engine whose work ends here. -/
@[simp] theorem State.job_endJob (s : State) (e : Nat) (j : Job) :
    ((s.endJob e j).engine e).job = some { j with finished := true } := by simp [State.endJob]

/-- The bitstream of a picture is held to the cap where cap_en is set (R329). -/
theorem length_pictureBytes_le_cap {d : BitVec 1024} (h : bit d 224 = true) (past : List FrameIn) (us : List CodedUnit) :
    (pictureBytes d past us).length ≤ bits d 192 32 := by
  simp only [pictureBytes, h, if_true, List.length_take]
  omega

theorem pictureBytes_of_cap_zero {d : BitVec 1024} (h : bit d 224 = true) (hzero : bits d 192 32 = 0) (past : List FrameIn)
    (us : List CodedUnit) : pictureBytes d past us = [] :=
  List.length_eq_zero_iff.mp (Nat.le_zero.mp (hzero ▸ length_pictureBytes_le_cap h past us))

/-- An encode without a map of regions, of an unpoisoned input, whose buffer holds the cap of its session ends with the status its job had
when the work began: no step of this path sets one (R344, R345). -/
theorem exec_vidFrameEncode_keeps_status {s : State} {eng : EngineId} {j : Job} {z : Session} (he : eng.toNat < 6)
    (hup : s.up = true) (hjob : (s.engine eng.toNat).job = some j) (hfin : j.finished = false) (hop : jOp j.entry = 2)
    (hz : (s.engine eng.toNat).session (jSession j.entry) = some z) (hmap : bit j.entry 24 = false)
    (hreads : ∀ r ∈ encReads z.desc j.entry, s.poisonIn r.1 r.2 = none) (hcap : bit z.desc 224 = true)
    (hlen : bits z.desc 192 32 ≤ jLen j.entry) :
    ∃ t, exec (.vidFrameEncode eng) s = .next t ∧ (t.engine eng.toNat).job.map Job.status = some j.status := by
  refine ⟨_, rfl, ?_⟩
  rw [← hop, State.onJob_of_working (by omega) hup hjob hfin (by simp [isEncoder, he])]
  have hclean : ((encReads z.desc j.entry).any fun r => (s.poisonIn r.1 r.2).isSome) = false := by
    rw [List.any_eq_false]
    intro r hr
    simp [hreads r hr]
  have hfits (past : List FrameIn) (us : List CodedUnit) : ¬jLen j.entry < (pictureBytes z.desc past us).length := by
    have := length_pictureBytes_le_cap hcap past us
    omega
  simp [hz, hmap, hclean, hfits]

/-! ### A job in progress that carries a status -/

/-- The descriptor of a session that codes pictures of no size under a cap of no bytes (cap_en 1, cap 0). -/
def cappedDesc : BitVec 1024 := BitVec.ofNat 1024 (2 ^ 224)

/-- A FRAME job of session 0 without maps, whose bitstream goes to the first byte of the stack; it is in progress with status 1. -/
def staleJob : Job := ⟨BitVec.ofNat 512 (2 * 2 ^ 16 + stackLo * 2 ^ 128), 0, 1, 0, 0, 0, 0, 0, 0, 0, false⟩

/-- A running device at reset values but for engine 0, which encodes that job in that session. -/
def staleJobState : State :=
  { State.reset with
    pins := { State.reset.pins with corePower := true }
    boot := { State.reset.boot with phase := .running }
    engines := [(0, { Engine.reset with sessions := [(0, some (Session.new cappedDesc))], job := some staleJob })] }

theorem staleJobState_sound : staleJobState.Sound := ⟨rfl, fun _ => rfl⟩

/-- The job reads its input picture only, which has no bytes. -/
theorem encReads_staleJob : encReads cappedDesc staleJob.entry = [(0, 0)] := by decide +kernel

theorem poisonIn_of_mem_encReads_staleJob {r : Nat × Nat} (hr : r ∈ encReads cappedDesc staleJob.entry) :
    staleJobState.poisonIn r.1 r.2 = none := by
  rw [encReads_staleJob, List.mem_singleton] at hr
  simp [hr]

/-- A picture of that session has no bitstream, whatever is coded. -/
theorem pictureBytes_cappedDesc (past : List FrameIn) (us : List CodedUnit) :
    pictureBytes (Session.new cappedDesc).desc past us = [] :=
  pictureBytes_of_cap_zero (by decide +kernel) (by decide +kernel) past us

/-- What engine 0 leaves of that job still has status 1. -/
theorem exec_vidFrameEncode_staleJobState : ∃ t, exec (.vidFrameEncode 0) staleJobState = .next t ∧
    (t.engine 0).job.map Job.status = some 1 :=
  exec_vidFrameEncode_keeps_status (eng := 0) (j := staleJob) (z := Session.new cappedDesc) (by decide) rfl rfl rfl
    (by decide +kernel) (by decide +kernel) (by decide +kernel) (fun _ => poisonIn_of_mem_encReads_staleJob)
    (by decide +kernel) (by decide +kernel)

/-- Refutes O32: the statement has an encode that fits its buffer end with status 0, whatever job is in progress, but the engine
keeps the status that the job carries, and writes it into the record (R344); `staleJobState` has a job in progress with status 1.
The clause lacks the hypothesis `j.status = 0`, which `Job.new` gives every job that an engine takes up. -/
theorem not_video : ¬ Obligations.Video := by
  unfold Obligations.Video
  rintro ⟨-, hjobs, -⟩
  obtain ⟨-, -, hencode, -⟩ := hjobs staleJobState 0 staleJob (by decide) rfl rfl rfl rfl
  obtain ⟨-, haccepted⟩ := hencode (Session.new cappedDesc) (by decide +kernel) rfl (by decide +kernel)
  obtain ⟨-, -, hcoded⟩ := haccepted (fun hmap => absurd hmap (by decide +kernel))
  simp only [pictureBytes_cappedDesc, List.length_nil, Nat.not_lt_zero, if_false] at hcoded
  obtain ⟨t, ht, -, ⟨-, hengine, -⟩, -⟩ := hcoded (fun _ => poisonIn_of_mem_encReads_staleJob) (by decide +kernel)
    (by decide +kernel) (State.badLine_of_sound staleJobState_sound)
  obtain ⟨u, hu, hstatus⟩ := exec_vidFrameEncode_staleJobState
  obtain rfl : t = u := Host.Outcome.next.inj (ht.symm.trans hu)
  have hzero : (t.engine 0).job.map Job.status = some 0 := congrArg (fun x => x.job.map Job.status) hengine
  rw [hzero] at hstatus
  exact absurd hstatus (by decide)

end Sys2Proof.Machine
end

section
/-! PROOFS. STRM_JOB (R379): a write is taken in EMPTY only, KILL keeps the register, and the resets leave it at its reset value. The
long part is a function-level reset that waits for remote requests: no response touches the start-up state before the last steps of the
reset, which empty the registers of the streams. -/

namespace Sys2Proof.Machine

/-! ### Conditionals and folds of states -/

@[simp] theorem State.boot_ite (c : Prop) [Decidable c] (s t : State) :
    (if c then s else t).boot = if c then s.boot else t.boot := apply_ite ..

@[simp] theorem State.sregs_ite (c : Prop) [Decidable c] (s t : State) :
    (if c then s else t).sregs = if c then s.sregs else t.sregs := apply_ite ..

/-- What every step of a fold keeps, the fold keeps. -/
theorem foldl_keeps {α β : Type} (g : State → β) {f : State → α → State} (h : ∀ s x, g (f s x) = g s) (l : List α) (s : State) :
    g (l.foldl f s) = g s := by
  induction l generalizing s with
  | nil => rfl
  | cons x l ih => rw [List.foldl_cons, ih, h]

@[simp] theorem State.boot_foldl {α : Type} {f : State → α → State} (h : ∀ s x, (f s x).boot = s.boot) (l : List α) (s : State) :
    (l.foldl f s).boot = s.boot := foldl_keeps State.boot h l s

@[simp] theorem State.sregs_foldl {α : Type} {f : State → α → State} (h : ∀ s x, (f s x).sregs = s.sregs) (l : List α) (s : State) :
    (l.foldl f s).sregs = s.sregs := foldl_keeps State.sregs h l s

/-- Messages that go out leave everything else. -/
@[simp] theorem State.boot_foldl_send {α : Type} (msg : State → α → Sent) (l : List α) (s : State) :
    (l.foldl (fun s x => s.send (msg s x)) s).boot = s.boot := foldl_keeps State.boot (fun _ _ => by rfl) l s

@[simp] theorem State.sregs_foldl_send {α : Type} (msg : State → α → Sent) (l : List α) (s : State) :
    (l.foldl (fun s x => s.send (msg s x)) s).sregs = s.sregs := foldl_keeps State.sregs (fun _ _ => by rfl) l s

/-! ### Updates of one part of the state -/

@[simp] theorem State.modMi_boot (s : State) (d : Nat) (i : StreamId) (t : W64) (f : MI → MI) : (s.modMi d i t f).boot = s.boot := rfl
@[simp] theorem State.modJob_boot (s : State) (j : Nat) (f : JobInfo → JobInfo) : (s.modJob j f).boot = s.boot := rfl
@[simp] theorem State.modJob_sregs (s : State) (j : Nat) (f : JobInfo → JobInfo) : (s.modJob j f).sregs = s.sregs := rfl
@[simp] theorem State.dropTag_boot (s : State) (t : Nat) : (s.dropTag t).boot = s.boot := rfl
@[simp] theorem State.modReq_boot (s : State) (t : Nat) (f : Req → Req) : (s.modReq t f).boot = s.boot := rfl
@[simp] theorem State.rewrite_boot (s : State) (v q : Nat) : (s.rewrite v q).boot = s.boot := rfl
@[simp] theorem State.farGot_boot (s : State) (u : FarUse) (n : Nat) (bs : List Byte) : (s.farGot u n bs).boot = s.boot := rfl
@[simp] theorem State.setLive_boot (s : State) (d : Nat) (b : Bool) : (s.setLive d b).boot = s.boot := rfl

/-! ### Causes and entries -/

@[simp] theorem State.raise_boot (s : State) (c : Nat) : (s.raise c).boot = s.boot := (s.raise_effects c).boot
@[simp] theorem State.raise_sregs (s : State) (c : Nat) : (s.raise c).sregs = s.sregs := by
  simp [State.raise, State.sendMsix]

@[simp] theorem State.hostWrite_boot (s : State) (a : W64) (bs : List Byte) : (s.hostWrite a bs).boot = s.boot :=
  (s.hostWrite_effects a bs).boot

@[simp] theorem State.postEntry_boot (s : State) (i : StreamId) (e : BitVec 256) : (s.postEntry i e).boot = s.boot :=
  (s.postEntry_effects i e).boot

@[simp] theorem State.complete_boot (s : State) (i : StreamId) (x : SState) (code : Nat) (e : Code) (tag : W32) (k : BitVec 16)
    (v : W64) : (s.complete i x code e tag k v).boot = s.boot := by
  simp [State.complete]

@[simp] theorem State.tellFar_sregs (s : State) (i : StreamId) (n : Notice) : (s.tellFar i n).sregs = s.sregs := by
  simp [State.tellFar]

@[simp] theorem State.latchFault_boot (s : State) (f : FaultBit) : (s.latchFault f).boot = s.boot := (s.latchFault_effects f).boot
@[simp] theorem State.faultOn_boot (s : State) (i : StreamId) (c : Nat) (e : Code) (w : W64) : (s.faultOn i c e w).boot = s.boot := by
  simp [State.faultOn]
@[simp] theorem State.faultFar_boot (s : State) (d : BitVec 16) (i : StreamId) (c : Nat) (e : Code) (w : W64) :
    (s.faultFar d i c e w).boot = s.boot := by
  simp [State.faultFar]

/-! ### Macro-instructions -/

@[simp] theorem State.releaseMi_boot (s : State) (m : MI) : (s.releaseMi m).boot = s.boot := by
  unfold State.releaseMi
  dsimp only
  split <;> exact foldl_keeps State.boot (fun _ _ => by rfl) _ s

@[simp] theorem State.releaseMi_sregs (s : State) (m : MI) : (s.releaseMi m).sregs = s.sregs := by
  unfold State.releaseMi
  dsimp only
  split <;> exact foldl_keeps State.sregs (fun _ _ => by rfl) _ s

@[simp] theorem State.removeMi_boot (s : State) (m : MI) : (s.removeMi m).boot = s.boot :=
  (foldl_keeps State.boot (fun _ _ => by rfl) _ _).trans (s.releaseMi_boot m)

@[simp] theorem State.removeMi_sregs (s : State) (m : MI) : (s.removeMi m).sregs = s.sregs :=
  (foldl_keeps State.sregs (fun _ _ => by rfl) _ _).trans (s.releaseMi_sregs m)

@[simp] theorem State.senseUe_boot (s : State) (e : Code) (w : W64) : (s.senseUe e w).boot = s.boot := by
  simp [State.senseUe, State.poisonLine, State.countHome]

@[simp] theorem State.miFault_boot (s : State) (m : MI) (c : Nat) (e : Code) (w : W64) : (s.miFault m c e w).boot = s.boot := by
  simp [State.miFault]

@[simp] theorem State.tileFault_boot (s : State) (c : Nat) (m : MI) (t : Tile) (e : Code) (w : W64) :
    (s.tileFault c m t e w).boot = s.boot :=
  (foldl_keeps State.boot (fun _ _ => by rfl) _ _).trans (s.miFault_boot ..)

@[simp] theorem State.farFailed_boot (s : State) (u : FarUse) (e : Code) (w : W64) : (s.farFailed u e w).boot = s.boot := by
  unfold State.farFailed
  split
  · rfl
  · split
    · rfl
    · split <;> simp

/-! ### Jobs -/

@[simp] theorem State.paceJob_boot (s : State) (j : Nat) : (s.paceJob j).boot = s.boot := by
  simp [State.paceJob]
@[simp] theorem State.paceJob_sregs (s : State) (j : Nat) : (s.paceJob j).sregs = s.sregs := by
  simp [State.paceJob]
@[simp] theorem State.electJob_boot (s : State) (j : Nat) : (s.electJob j).boot = s.boot := by
  simp [State.electJob, State.setHeadwater]
@[simp] theorem State.electJob_sregs (s : State) (j : Nat) : (s.electJob j).sregs = s.sregs := by
  simp [State.electJob, State.setHeadwater]
@[simp] theorem State.reportJob_boot (s : State) (j : Nat) : (s.reportJob j).boot = s.boot := by
  simp [State.reportJob, State.takeReport]
@[simp] theorem State.reportJob_sregs (s : State) (j : Nat) : (s.reportJob j).sregs = s.sregs := by
  simp [State.reportJob, State.takeReport]
@[simp] theorem State.reportJobs_boot (s : State) : s.reportJobs.boot = s.boot := by
  simp [State.reportJobs]
@[simp] theorem State.jobLoss_boot (s : State) (d : Nat) : (s.jobLoss d).boot = s.boot := by
  simp [State.jobLoss]

/-! ### Contexts -/

@[simp] theorem State.faultCtx_boot (s : State) (c : CtxId) (e : Code) (w : W64) : (s.faultCtx c e w).boot = s.boot := by
  simp [State.faultCtx]

@[simp] theorem State.faultAt_boot (s : State) (d : BitVec 16) (i : StreamId) (c : Nat) (e : Code) (w : W64) :
    (s.faultAt d i c e w).boot = s.boot := by
  simp [State.faultAt]

@[simp] theorem State.endLead_boot (s : State) (c : CtxId) : (s.endLead c).boot = s.boot := by
  simp [State.endLead]

theorem State.tryAsk_boot {s t : State} {i : StreamId} {a : BitVec 16 × CtxId × Ask} (h : s.tryAsk i a = some t) : t.boot = s.boot := by
  obtain ⟨d, c, q⟩ := a
  cases q <;> simp only [State.tryAsk, Option.ite_none_left_eq_some, Option.ite_none_right_eq_some, Option.some.injEq,
    reduceCtorEq] at h
  · obtain ⟨-, rfl⟩ := h
    rfl
  · obtain ⟨-, rfl⟩ := h
    rfl

@[simp] theorem State.settleAsks_boot (s : State) (i : StreamId) : (s.settleAsks i).boot = s.boot := by
  refine State.boot_foldl (fun s a => ?_) _ s
  split
  · next h => simp [State.tryAsk_boot h]
  · rfl

@[simp] theorem State.reportEnd_boot (s : State) (c : CtxId) (t : W64) : (s.reportEnd c t).boot = s.boot := by
  simp [State.reportEnd, State.leafDone]

@[simp] theorem State.nextBlock_boot (s : State) (c : CtxId) (n : Nat) : (s.nextBlock c n).boot = s.boot := by
  induction n generalizing s with
  | zero => rfl
  | succ n ih =>
    unfold State.nextBlock
    dsimp only
    split <;> simp [ih]

@[simp] theorem State.endBlock_boot (s : State) (c : CtxId) : (s.endBlock c).boot = s.boot := by
  unfold State.endBlock
  dsimp only
  split <;> simp

@[simp] theorem State.goto_boot (s : State) (c : CtxId) (pc : W64) : (s.goto c pc).boot = s.boot := by
  simp [State.goto, State.endCtx]

@[simp] theorem State.returnTo_boot (s : State) (c : CtxId) (tag : BitVec 13) (d : Reg) (v : W64) :
    (s.returnTo c tag d v).boot = s.boot := by
  simp [State.returnTo, State.advance]

/-! ### The host port -/

@[simp] theorem State.askHost_boot (n : Nat) (s : State) : (s.askHost n).boot = s.boot := by
  induction n generalizing s with
  | zero => rfl
  | succ n ih =>
    unfold State.askHost
    dsimp only
    split <;> simp [ih]

@[simp] theorem State.dmaFailed_boot (s : State) (d : Nat) (e : Code) : (s.dmaFailed d e).boot = s.boot := by
  unfold State.dmaFailed
  split <;> simp [State.dmaHalt, State.dmaWriteBack]

@[simp] theorem State.dmaComplete_boot (s : State) (d : Nat) : (s.dmaComplete d).boot = s.boot := by
  unfold State.dmaComplete
  split <;> simp [State.dmaWriteBack, State.answerHost]

@[simp] theorem State.dmaAcked_boot (s : State) (d : Nat) : (s.dmaAcked d).boot = s.boot := by
  unfold State.dmaAcked
  split
  · split <;> simp
  · rfl

@[simp] theorem State.dmaGot_boot (s : State) (d o : Nat) (bs : List Byte) : (s.dmaGot d o bs).boot = s.boot := by
  simp [State.dmaGot]

@[simp] theorem State.hostFail_boot (s : State) (b : Bool) (e : Code) : (s.hostFail b e).boot = s.boot := by
  simp [State.hostFail]

@[simp] theorem State.saveEnd_boot (s : State) (i : StreamId) (e : Code) (w : W64) : (s.saveEnd i e w).boot = s.boot := by
  unfold State.saveEnd
  split <;> simp [State.refuse]

@[simp] theorem State.saveAcked_boot (s : State) (i : StreamId) : (s.saveAcked i).boot = s.boot := by
  simp [State.saveAcked]

/-! ### The fabric -/

@[simp] theorem State.pump_boot (s : State) (p n : Nat) : (s.pump p n).boot = s.boot := by
  induction n generalizing s with
  | zero => rfl
  | succ n ih =>
    unfold State.pump
    dsimp only
    split <;> simp [ih]

@[simp] theorem State.sendOn_boot (s : State) (p : Nat) (k : Packet) : (s.sendOn p k).boot = s.boot := by
  simp [State.sendOn]

@[simp] theorem State.sendRsp_boot (s : State) (k : Packet) : (s.sendRsp k).boot = s.boot := by
  unfold State.sendRsp
  split <;> simp

@[simp] theorem State.cannotForward_boot (s : State) (k : Packet) (n : Nat) : (s.cannotForward k n).boot = s.boot := by
  simp [State.cannotForward, State.badPkt, State.answerErr]

@[simp] theorem State.forward_boot (s : State) (k : Packet) : (s.forward k).boot = s.boot := by
  unfold State.forward
  split
  · simp
  · split
    · simp
    · split <;> simp

@[simp] theorem State.failReq_boot (s : State) (r : Req) (e : Code) : (s.failReq r e).boot = s.boot := by
  unfold State.failReq
  cases r.who with
  | macroWrite d i t =>
    dsimp only
    split <;> simp
  | _ => simp

theorem State.request_boot {s t : State} {typ : BitVec 8} {dst addr : Nat} {code : BitVec 8} {mask : BitVec 128} {pay : List Byte}
    {who : Requester} {tag : Nat} (h : s.request typ dst addr code mask pay who = .sent tag t) : t.boot = s.boot := by
  unfold State.request at h
  split at h
  · cases h
  · split at h
    · cases h
    · split at h
      · cases h
      · dsimp only at h
        split at h
        · cases h
        · cases h
          simp

theorem State.trySend_boot {s t : State} {r : Req} (h : s.trySend r = some t) : t.boot = s.boot := by
  unfold State.trySend at h
  split at h
  · next hsent => cases h; exact State.request_boot hsent
  · cases h; simp
  · cases h

@[simp] theorem State.drainList_boot (s : State) (kept l : List Req) : (s.drainList kept l).1.boot = s.boot := by
  induction l generalizing s kept with
  | nil => rfl
  | cons r l ih =>
    unfold State.drainList
    split
    · exact ih ..
    · split
      · next h => exact (ih ..).trans (State.trySend_boot h)
      · exact ih ..

@[simp] theorem State.drainWaiting_boot (s : State) : s.drainWaiting.boot = s.boot := by
  simp [State.drainWaiting]

/-! ### Membership -/

@[simp] theorem State.fabDone_boot (s : State) (e : Code) : (s.fabDone e).boot = s.boot := by
  simp [State.fabDone]

@[simp] theorem State.becomeOut_boot (s : State) (e : Code) : (s.becomeOut e).boot = s.boot := by
  simp [State.becomeOut]

@[simp] theorem State.stranded_boot (s : State) (d : Nat) : (s.stranded d).boot = s.boot := by
  simp [State.stranded]

@[simp] theorem State.removalEffects_boot (s : State) (d : Nat) : (s.removalEffects d).boot = s.boot := by
  simp [State.removalEffects]

@[simp] theorem State.reissueFrom_boot (s : State) (d : Nat) (m : MI) : (s.reissueFrom d m).boot = s.boot := by
  simp [State.reissueFrom]

@[simp] theorem State.lossEffects_boot (s : State) (d : Nat) : (s.lossEffects d).boot = s.boot := by
  unfold State.lossEffects
  dsimp only
  rw [State.boot_foldl (fun s m => by simp)]
  refine State.boot_foldl (fun s e => ?_) _ s
  split
  · split <;> simp
  · rfl

@[simp] theorem State.newHeadwater_boot (s : State) (d : Nat) : (s.newHeadwater d).boot = s.boot := by
  simp [State.newHeadwater]

@[simp] theorem State.applyChange_boot (s : State) (c : Change) : (s.applyChange c).boot = s.boot := by
  unfold State.applyChange
  split <;> cases c <;> simp

@[simp] theorem State.confirm_boot (s : State) (c : Change) : (s.confirm c).boot = s.boot := by
  cases c <;> simp [State.confirm]

@[simp] theorem State.publishNext_boot (s : State) (n : Nat) : (s.publishNext n).boot = s.boot := by
  induction n generalizing s with
  | zero => rfl
  | succ n ih =>
    unfold State.publishNext
    split
    · rfl
    · split
      · rfl
      · simp [ih]

@[simp] theorem State.leaveCheck_boot (s : State) : s.leaveCheck.boot = s.boot := by
  simp [State.leaveCheck, State.enqueue, State.publishChanges]

@[simp] theorem State.raiseSuspect_boot (s : State) (d : Nat) : (s.raiseSuspect d).boot = s.boot := by
  simp [State.raiseSuspect, State.takeSuspect]

/-! ### KILL keeps STRM_JOB (R122) -/

/-- A state with the registers of another reads each of them as it does. -/
theorem State.sreg_of_sregs {s t : State} (h : t.sregs = s.sregs) (i : StreamId) : t.sreg i = s.sreg i := by
  simp [State.sreg, h]

@[simp] theorem State.sreg_raise (s : State) (c : Nat) (i : StreamId) : (s.raise c).sreg i = s.sreg i :=
  State.sreg_of_sregs (s.raise_sregs c) i

@[simp] theorem State.sreg_orphan (s : State) (i k : StreamId) : (s.orphan i).sreg k = s.sreg k := rfl

@[simp] theorem State.sreg_reportJob (s : State) (j : Nat) (i : StreamId) : (s.reportJob j).sreg i = s.sreg i :=
  State.sreg_of_sregs (s.reportJob_sregs j) i

/-- A queued operation of UNIT_GDEF writes registers of no stream (R23). -/
@[simp] theorem State.gdefFlush_sregs (s : State) : s.gdefFlush.sregs = s.sregs := by
  unfold State.gdefFlush
  split <;> simp [State.gdefDefine, State.gdefRemove, State.gdefEnd, State.gdefine, State.gundefine, State.refMembers]

@[simp] theorem State.bindGroup_sregs (s : State) (h : W32) (f : BitVec 7 → BitVec 7) : (s.bindGroup h f).sregs = s.sregs := by
  simp [State.bindGroup]

@[simp] theorem State.sregs_foldl_unspecify (s : State) (rs : List (Nat × Nat)) :
    (rs.foldl (fun s r => s.unspecify r.1 r.2) s).sregs = s.sregs :=
  foldl_keeps State.sregs (fun _ _ => by rfl) rs s

/-- Of the registers of its stream KILL resets those of the schedule only (R122, R312). -/
theorem State.killStream_job (s : State) (i : StreamId) : ((s.killStream i).sreg i).job = (s.sreg i).job := by
  simp only [State.killStream, State.modSreg_def, State.sreg_reportJob, State.sreg_orphan, State.sreg_setStrm, State.sreg_setSreg]
  rw [State.sreg_of_sregs (s := s)]
  simp

theorem State.writeEntry_job (s : State) (i : StreamId) (e : BitVec 256) : ((s.writeEntry i e).sreg i).job = (s.sreg i).job := by
  unfold State.writeEntry
  dsimp only
  split <;> simp

theorem State.complete_job (s : State) (i : StreamId) (x : SState) (code : Nat) (e : Code) (tag : W32) (k : BitVec 16) (v : W64) :
    ((s.complete i x code e tag k v).sreg i).job = (s.sreg i).job := by
  unfold State.complete State.postEntry
  dsimp only
  rw [State.sreg_count]
  split
  · rfl
  · split
    · simp
    · exact s.writeEntry_job ..

/-- A fetched command whose bits and state are legal has its effect on the state in which its ring has moved on, and completes without
an error (R110-R115). -/
theorem State.takeCmd_ok {s t : State} {i : StreamId} {e : BitVec 512} {code : Nat} {k : State → Done} (hfetch : s.Fetches i)
    (hentry : EntryFor e code) (hlegal : cmdLegal code (s.strm i).state = true) (hk : k (s.taken i) = .ok t) :
    s.takeCmd i e code k = Completed s i e code t 0 0 := by
  obtain ⟨hidle, hblocked⟩ := hfetch
  obtain ⟨hcode, used, hused, hbits⟩ := hentry
  have hc : bits e 0 8 = code := by simpa [bits] using hcode
  unfold State.taken at hk
  simp only [State.takeCmd, hidle, hblocked, hc, hused, hbits, hlegal, hk, Done.ok, Bool.false_eq_true, Bool.not_true, ne_eq,
    not_true_eq_false, if_true, if_false]
  rfl

theorem exec_kill_job {s : State} {i : StreamId} {e : BitVec 512} (hfetch : s.Fetches i) (hentry : EntryFor e 8) :
    ∃ t, exec (.kill i e) s = .next t ∧ (t.sreg i).job = (s.sreg i).job := by
  have htaken : ((s.taken i).sreg i).job = (s.sreg i).job := by simp [State.taken]
  refine ⟨_, rfl, ?_⟩
  by_cases hempty : ((s.taken i).strm i).state = .empty
  · rw [State.takeCmd_ok hfetch hentry rfl (if_pos hempty), Completed, State.complete_job, htaken]
  · rw [State.takeCmd_ok hfetch hentry rfl (if_neg hempty), Completed, State.complete_job, State.killStream_job, htaken]

/-! ### What resets leave of the registers of streams (R447-R449) -/

@[simp] theorem State.deriveKeys_sregs (s : State) : s.deriveKeys.sregs = s.sregs := by
  simp [State.deriveKeys, State.writeFlash]

@[simp] theorem State.bootRom_sregs (s : State) : s.bootRom.sregs = s.sregs := by
  simp [State.bootRom]

@[simp] theorem State.railsUp_sregs (s : State) : s.railsUp.sregs = s.sregs := by
  simp [State.railsUp]

/-- Cold and warm reset leave no register of a stream written. -/
theorem State.coldReset_sregs (s : State) : s.coldReset.sregs = [] := rfl
theorem State.warmReset_sregs (s : State) : s.warmReset.sregs = [] := by
  simp [State.warmReset, State.dark, State.reset]

/-- Nor does a function-level reset that completes. -/
theorem State.flrEnd_sregs (s : State) (began : W64) : (s.flrEnd began).sregs = [] := by
  simp [State.flrEnd, State.flrRegisters]

/-- From s to t a function-level reset that waits either goes on waiting or completes, with every register of a stream at its reset
value (R448, R449). -/
def ResetDone (s t : State) : Prop := s.boot.flrAt ≠ none → t.boot.flrAt = none → t.sregs = []

theorem ResetDone.of_boot {s t : State} (h : t.boot = s.boot) : ResetDone s t := fun hwait hdone => absurd (h ▸ hdone) hwait

theorem ResetDone.flrCheck {s t : State} (h : t.boot = s.boot) : ResetDone s t.flrCheck := by
  unfold State.flrCheck
  split
  · split
    · exact fun _ _ => t.flrEnd_sregs _
    · exact .of_boot h
  · exact .of_boot h

theorem ResetDone.settle {s t : State} (h : t.boot = s.boot) : ResetDone s t.settle := .flrCheck (by simpa using h)

/-! ### What may complete a function-level reset that waits -/

theorem ResetDone.arrive {s : State} {k : Packet} {f : State → Packet → State} (h : ResetDone s (f s k)) :
    ResetDone s (s.arrive k f) := by
  unfold State.arrive
  split
  · exact .of_boot rfl
  · split
    · exact .of_boot (s.forward_boot k)
    · exact h

theorem ResetDone.onAck (s : State) (k : Packet) : ResetDone s (s.onAck k) := by
  unfold State.onAck
  split
  · exact .of_boot (s.countDev_boot _)
  · refine .settle ?_
    split <;> simp

theorem ResetDone.onErr (s : State) (k : Packet) : ResetDone s (s.onErr k) := by
  unfold State.onErr
  dsimp only
  split
  · exact .of_boot (s.countDev_boot _)
  · split
    · exact .of_boot (s.countDev_boot _)
    · exact .settle (by simp [State.lateRsp])

theorem ResetDone.onData (s : State) (k : Packet) : ResetDone s (s.onData k) := by
  unfold State.onData
  split
  · exact .of_boot (s.countDev_boot _)
  · refine .settle ?_
    split
    · simp [State.lateRsp]
    · split <;> simp

theorem ResetDone.remoteRequestTimeout {s t : State} {tag : BitVec 13} (h : exec (.remoteRequestTimeout tag) s = .next t) :
    ResetDone s t := by
  change execRemoteRequestTimeout tag s = .next t at h
  unfold execRemoteRequestTimeout at h
  split at h
  · cases h; exact .of_boot rfl
  · split at h
    · split at h
      · split at h
        · cases h; exact .of_boot (by simp)
        · cases h; exact .of_boot rfl
      · cases h; exact .of_boot rfl
    · cases h
      exact .settle (by simp)

/-- A response or a timeout completes a waiting reset by its steps, or leaves it waiting. -/
theorem ResetDone.response {s t : State} {k : Packet} {tag : BitVec 13}
    (h : exec (.ack k) s = .next t ∨ exec (.data k) s = .next t ∨ exec (.err k) s = .next t ∨
      exec (.remoteRequestTimeout tag) s = .next t) : ResetDone s t := by
  obtain h | h | h | h := h
  · cases h; exact .arrive (.onAck s k)
  · cases h; exact .arrive (.onData s k)
  · cases h; exact .arrive (.onErr s k)
  · exact .remoteRequestTimeout h

/-- FUNCTION_LEVEL_RESET that completes at once. -/
theorem State.functionReset_sregs {s : State} (h : s.functionReset.boot.flrAt = none) : s.functionReset.sregs = [] := by
  unfold State.functionReset at h ⊢
  dsimp only at h ⊢
  generalize State.abandonRemote _ = u at h ⊢
  exact ResetDone.flrCheck (s := { u with boot := { u.boot with flrAt := some u.time } }) rfl (Option.some_ne_none _) h

theorem exec_perstAssert_sregs {s t : State} {id : BitVec 4} (h : exec (.perstAssert id) s = .next t) (hstandby : s.pins.standby = true)
    (hpwrEn : s.pins.pwrEn = true) : t.sregs = [] := by
  change execPerstAssert id s = .next t at h
  simp only [execPerstAssert, hstandby, hpwrEn, Bool.and_self, if_true] at h
  obtain rfl := Host.Outcome.next.inj h
  exact State.warmReset_sregs _

theorem exec_pwrEnFall_sregs {s t : State} (h : exec .pwrEnFall s = .next t) (hstandby : s.pins.standby = true)
    (hpwrEn : s.pins.pwrEn = true) : t.sregs = [] := by
  change execPwrEnFall s = .next t at h
  simp only [execPwrEnFall, hstandby, hpwrEn] at h
  obtain rfl := Host.Outcome.next.inj h
  exact s.coldReset_sregs

theorem exec_functionLevelReset_sregs {s t : State} (h : exec .functionLevelReset s = .next t) (hup : s.hostUp = true)
    (hdone : t.boot.flrAt = none) : t.sregs = [] := by
  change execFunctionLevelReset s = .next t at h
  simp only [execFunctionLevelReset, hup, if_true] at h
  obtain rfl := Host.Outcome.next.inj h
  exact State.functionReset_sregs hdone

/-! ### Writes of STRM_JOB and STRM_PACE (R379, R395) -/

/-- Settles O37: the register takes a write in EMPTY only, KILL keeps it, and a reset that completes leaves no register written. -/
theorem jobRegister : Obligations.JobRegister := by
  unfold Obligations.JobRegister
  intro s i v hrun
  have hwrite (pace : Bool) : exec (.strmJobWrite i pace v) s = .next (s.writeJob i pace v) := congrArg _ (if_pos hrun)
  refine ⟨fun hbusy pace => ?_, fun hempty => ⟨?_, ?_⟩, fun e hfetch hentry => exec_kill_job hfetch hentry, fun t ht => ?_⟩
  · rw [CountsOne, hwrite, State.writeJob, if_pos hbusy, State.regRefused]
  · simp [hwrite, State.writeJob, hempty, bits]
  · simp [hwrite, State.writeJob, hempty]
  · have hregs : t.sregs = [] := by
      obtain ⟨⟨id, h⟩ | h, hstandby, hpwrEn⟩ | ⟨h, hup, hdone⟩ | ⟨⟨k, tag, h⟩, hwait, hdone⟩ := ht
      · exact exec_perstAssert_sregs h hstandby hpwrEn
      · exact exec_pwrEnFall_sregs h hstandby hpwrEn
      · exact exec_functionLevelReset_sregs h hup hdone
      · exact ResetDone.response h hwait hdone
    simp [State.sreg, hregs, StreamRegs.reset]

end Sys2Proof.Machine
end

section
/-! PROOFS. Start-up and reset: the boot ROM's choice of a slot (R436), where an update that was under way has left its slot failing
R435 (R446), and the acceptance of BOOT_HOST_ACK, after which a command ring can be enabled (R442, R444). -/

namespace Sys2Proof.Machine

/-! ### What the boot ROM's checks read (R435, R446) -/

/-- What a reset that comes during operation o leaves of the start-up state b: a fetch has the magic of its slot spoilt. -/
def Boot.spoil (b : Boot) : RegOp → Boot
  | .rcvFetch _ slot => { b with flash := tput b.flash (if slot then 0x1000000 else 0) (~~~(BitVec.ofNat 8 imageMagic)) }
  | _ => b

/-- An interrupted update is seen in the start-up state alone, and depends on the operations in progress alone. -/
theorem State.breakUpdate_eq (s : State) : s.breakUpdate = { s with boot := s.ops.foldl Boot.spoil s.boot } := by
  unfold State.breakUpdate
  refine List.foldl_hom (fun b : Boot => { s with boot := b }) fun b o => ?_
  cases o <;> rfl

/-- The check of an image reads of the state the rollback floor and the revoked keys (R435). -/
theorem State.imageCheck_of_sec {s t : State} (hfloor : t.sec.floor = s.sec.floor) (hrevoked : t.sec.revoked = s.sec.revoked)
    (kind size : Nat) (get : Nat → Nat → List Byte) : t.imageCheck kind size get = s.imageCheck kind size get := by
  simp only [State.imageCheck, State.keyFused, State.revoked, hfloor, hrevoked]

theorem State.flashBytes_of_flash {s t : State} (hflash : t.boot.flash = s.boot.flash) (a n : Nat) :
    t.flashBytes a n = s.flashBytes a n := by
  simp only [State.flashBytes, State.flashByte, hflash]

/-! ### The choice of a slot (R436) -/

/-- A start-up state in which a slot with its security version runs, and the error that it shows. -/
def Boot.Runs (b : Boot) (slot : Bool) (err : Code) (svn : BitVec 16) : Prop :=
  b.imageOk = true ∧ b.slot = slot ∧ b.err = err ∧ b.svn = svn ∧ b.phase ≠ .recovery

/-- The start-up state b is what the boot ROM chooses by the flash, the floor and the keys of u: slot A, else slot B with the error
of slot A, else recovery (R436). -/
def State.Boots (u : State) (b : Boot) : Prop :=
  (u.flashCheck 0 1 = 0 → b.Runs false 0 (u.slotSvn false)) ∧
  (u.flashCheck 0 1 ≠ 0 → u.flashCheck 0x1000000 1 = 0 → b.Runs true (u.flashCheck 0 1) (u.slotSvn true)) ∧
  (u.flashCheck 0 1 ≠ 0 → u.flashCheck 0x1000000 1 ≠ 0 → b.imageOk = false ∧ b.phase = .recovery)

/-- The choice reads flash, floor and revoked keys only. -/
theorem State.Boots.of_same_inputs {s u : State} {b : Boot} (h : s.Boots b) (hflash : s.boot.flash = u.boot.flash)
    (hfloor : s.sec.floor = u.sec.floor) (hrevoked : s.sec.revoked = u.sec.revoked) : u.Boots b := by
  simpa only [State.Boots, State.flashCheck, State.slotSvn, State.imageCheck_of_sec hfloor hrevoked,
    State.flashBytes_of_flash hflash] using h

/-- The keys of a boot go to the certificate in flash; of the start-up state nothing else changes (R464, R465). -/
theorem State.deriveKeys_boot (s : State) : ∃ f, s.deriveKeys.boot = { s.boot with flash := f } := by
  unfold State.deriveKeys
  dsimp only
  split <;> exact ⟨_, rfl⟩

theorem Boot.Runs.deriveKeys {s : State} {slot : Bool} {err : Code} {svn : BitVec 16} (h : s.boot.Runs slot err svn) :
    s.deriveKeys.boot.Runs slot err svn := by
  obtain ⟨f, hboot⟩ := s.deriveKeys_boot
  rw [hboot]
  exact h

theorem Boot.Runs.enterRails {b : Boot} {slot : Bool} {err : Code} {svn : BitVec 16} (h : b.Runs slot err svn) :
    { b with phase := .rails }.Runs slot err svn := by
  obtain ⟨hok, hslot, herr, hsvn, -⟩ := h
  exact ⟨hok, hslot, herr, hsvn, by simp⟩

/-- The boot ROM chooses by what it finds. -/
theorem State.bootRom_boots (s : State) : s.Boots s.bootRom.boot := by
  refine ⟨fun ha => ?_, fun ha hb => ?_, fun ha hb => ?_⟩
  · rw [State.bootRom, if_pos ha]
    exact Boot.Runs.deriveKeys ⟨rfl, rfl, rfl, rfl, by simp⟩
  · rw [State.bootRom, if_neg ha, if_pos hb]
    exact Boot.Runs.deriveKeys ⟨rfl, rfl, rfl, rfl, by simp⟩
  · rw [State.bootRom, if_neg ha, if_neg hb]
    exact ⟨rfl, rfl⟩

/-- Rails in regulation move the start-up on from the verified image only (R437): what was chosen stays chosen. -/
theorem State.Boots.railsUp {u s : State} (h : u.Boots s.boot) : u.Boots s.railsUp.boot := by
  unfold State.railsUp
  dsimp only
  split
  case isFalse => exact h
  case isTrue hgood =>
    obtain ⟨-, himage⟩ : s.pins.pwrGood = true ∧ s.boot.phase = .image := by simpa using hgood
    obtain ⟨hA, hB, hnone⟩ := h
    refine ⟨fun ha => (hA ha).enterRails, fun ha hb => (hB ha hb).enterRails, fun ha hb => ?_⟩
    obtain ⟨-, hrecovery⟩ := hnone ha hb
    exact absurd (himage.symm.trans hrecovery) (by decide)

@[simp] theorem State.breakUpdate_sec (s : State) : s.breakUpdate.sec = s.sec := by rw [State.breakUpdate_eq]
@[simp] theorem State.dark_floor (s : State) : s.dark.sec.floor = s.sec.floor := by simp [State.dark]
@[simp] theorem State.dark_revoked (s : State) : s.dark.sec.revoked = s.sec.revoked := by simp [State.dark]

/-- A boot of d, which has of s the flash that an interrupted update leaves, the floor and the revoked keys, chooses by them. -/
theorem State.boots_of_bootRom {s d : State} (hflash : d.boot.flash = s.breakUpdate.boot.flash)
    (hfloor : d.sec.floor = s.sec.floor) (hrevoked : d.sec.revoked = s.sec.revoked) :
    s.breakUpdate.Boots d.bootRom.railsUp.boot :=
  d.bootRom_boots.railsUp.of_same_inputs hflash (by simpa using hfloor) (by simpa using hrevoked)

/-! ### The two resets that run the boot ROM (R437, R447) -/

theorem State.warmReset_boots (s : State) : s.breakUpdate.Boots s.warmReset.boot :=
  State.boots_of_bootRom rfl s.dark_floor s.dark_revoked

theorem exec_vinRise_boots {s : State} (id : BitVec 4) (hoff : s.pins.standby = false) :
    ∃ t, exec (.vinRise id) s = .next t ∧ s.breakUpdate.Boots t.boot :=
  ⟨_, if_neg (by simp [hoff]), State.boots_of_bootRom rfl s.dark_floor s.dark_revoked⟩

theorem exec_perstAssert_boots {s : State} (id : BitVec 4) (hstandby : s.pins.standby = true) (hpwrEn : s.pins.pwrEn = true) :
    ∃ t, exec (.perstAssert id) s = .next t ∧ s.breakUpdate.Boots t.boot := by
  change ∃ t, execPerstAssert id s = .next t ∧ _
  rw [execPerstAssert, if_pos (by simp [hstandby, hpwrEn])]
  refine ⟨_, rfl, (State.warmReset_boots _).of_same_inputs ?_ ?_ ?_⟩ <;> simp only [State.breakUpdate_eq]

/-- Settles O43: every boot chooses by the flash that an interrupted update leaves, and the rails change nothing of the choice. -/
theorem bootRom : Obligations.BootRom := by
  unfold Obligations.BootRom
  rintro s id o (⟨rfl, hoff⟩ | ⟨rfl, hstandby, hpwrEn⟩)
  · exact exec_vinRise_boots id hoff
  · exact exec_perstAssert_boots id hstandby hpwrEn

/-! ### Fields of a masked word -/

theorem bits_eq_extractLsb' {n : Nat} (x : BitVec n) (lo w : Nat) : bits x lo w = (x.extractLsb' lo w).toNat := by
  rw [bits, BitVec.extractLsb'_toNat, Nat.shiftRight_eq_div_pow]

theorem bit_eq_bits {n : Nat} (x : BitVec n) (i : Nat) : bit x i = decide (bits x i 1 = 1) := rfl

/-- A field that lies under ones of a mask passes it. -/
theorem bits_and_of_ones {n lo w : Nat} (x : BitVec n) {m : BitVec n} (h : m.extractLsb' lo w = BitVec.allOnes w) :
    bits (x &&& m) lo w = bits x lo w := by
  rw [bits_eq_extractLsb', bits_eq_extractLsb', BitVec.extractLsb'_and, h, BitVec.and_allOnes]

/-! ### Enabling a command ring (R403, R442) -/

/-- The bits of HIF_CMD_RING that are kept: base, enable and log2 (R403). -/
def cmdRingMask : W64 := 0xFFFFFFFFFFFFF01F

@[simp] theorem bits_log2_cmdRingMask (v : W64) : bits (v &&& cmdRingMask) 0 4 = bits v 0 4 := bits_and_of_ones v (by decide)
@[simp] theorem bits_base_cmdRingMask (v : W64) : bits (v &&& cmdRingMask) 12 52 = bits v 12 52 := bits_and_of_ones v (by decide)
@[simp] theorem bit_enable_cmdRingMask (v : W64) : bit (v &&& cmdRingMask) 4 = bit v 4 := by
  rw [bit_eq_bits, bit_eq_bits, bits_and_of_ones v (by decide)]

/-- A ring that is not enabled refuses sizes out of range only. -/
theorem ringRefused_of_disabled {old v : W64} (hold : bit old 4 = false) (hlo : 4 ≤ bits v 0 4) (hhi : bits v 0 4 ≤ 12) :
    ringRefused old v = false := by
  simp [ringRefused, hold, hlo, hhi]

/-- A write that enables a command ring takes its fields and starts the ring anew (R403). -/
theorem State.writeCmdRing_enables {s : State} {i : StreamId} {v : W64} (henable : bit v 4 = true) (hlo : 4 ≤ bits v 0 4)
    (hhi : bits v 0 4 ≤ 12) (hold : bit (s.sreg i).cmdRing 4 = false) :
    s.writeCmdRing i v = s.setSreg i { s.sreg i with cmdRing := v &&& cmdRingMask, cmdHead := 0, cmdTail := 0 } := by
  have htakes : ringRefused (s.sreg i).cmdRing (v &&& cmdRingMask) = false :=
    ringRefused_of_disabled hold (by simpa using hlo) (by simpa using hhi)
  have hstarts : (bit (v &&& cmdRingMask) 4 && !bit (s.sreg i).cmdRing 4) = true := by simp [henable, hold]
  exact (if_neg (ne_true_of_eq_false htakes)).trans (if_pos hstarts)

/-- Outside RUNNING a write that enables a command ring is refused and counted (R442). -/
theorem exec_hifRingWrite_enable_early {s : State} {i : StreamId} {v : W64} (hup : s.hostUp = true) (hphase : s.boot.phase ≠ .running)
    (henable : bit v 4 = true) : CountsOne (exec (.hifRingWrite (.cmd i) v) s) s evRegWriteRefused := by
  refine congrArg _ ((if_neg hphase).trans ?_)
  simp [State.earlyRing, ringEnables, hup, henable, State.regRefused]

/-- In RUNNING it is accepted. -/
theorem exec_hifRingWrite_enable {s : State} {i : StreamId} {v : W64} (hphase : s.boot.phase = .running) (henable : bit v 4 = true)
    (hlo : 4 ≤ bits v 0 4) (hhi : bits v 0 4 ≤ 12) (hold : bit (s.sreg i).cmdRing 4 = false) :
    exec (.hifRingWrite (.cmd i) v) s =
      .next (s.setSreg i { s.sreg i with cmdRing := v &&& cmdRingMask, cmdHead := 0, cmdTail := 0 }) :=
  congrArg _ ((if_pos hphase).trans (State.writeCmdRing_enables henable hlo hhi hold))

/-! ### The acknowledgement of the host (R444) -/

theorem exec_hostAck {s : State} (hup : s.hostUp = true) : exec .hostAck s = .next s.hostAck := congrArg _ (if_pos hup)

/-- Settles O45: the acknowledgement is refused outside READY, and what it enters is the one phase in which rings are enabled. -/
theorem hostAck : Obligations.HostAck := by
  unfold Obligations.HostAck
  intro s hup
  rw [CountsOne, exec_hostAck hup]
  refine ⟨fun hphase => congrArg _ (if_neg hphase), fun hready =>
    ⟨congrArg _ (if_pos hready), fun i v henable hlo hhi hold => ⟨?_, _, exec_hifRingWrite_enable rfl henable hlo hhi hold, ?_⟩⟩⟩
  · exact exec_hifRingWrite_enable_early hup (by simp [hready]) henable
  · simp [henable]

end Sys2Proof.Machine
end

section
/-! PROOFS. Accesses of the host to the register map (R402, R442, R480-R486): what a read of a slot answers, what a write of a word or
of a half does, and how an operation goes from its write to its row (R28, R29). -/

namespace Sys2Proof.Machine

/-! ### The halves of a word (R481) -/

theorem ofNat_halves (x : W64) : BitVec.ofNat 64 (bits x 0 32 + bits x 32 32 * 2 ^ 32) = x := by
  apply BitVec.eq_of_toNat_eq
  have hlt := x.isLt
  simp only [bits, BitVec.toNat_ofNat]
  omega

theorem bits_lt {n : Nat} (x : BitVec n) (lo w : Nat) : bits x lo w < 2 ^ w := Nat.mod_lt _ (by positivity)

/-- The writes of a word, of its low half and of its high half. -/
abbrev Wr.whole (v : W64) : Wr := ⟨v, true, true⟩
abbrev Wr.low (v : W64) : Wr := ⟨BitVec.ofNat 64 (bits v 0 32), true, false⟩
abbrev Wr.high (v : W64) : Wr := ⟨BitVec.ofNat 64 (bits v 0 32 * 2 ^ 32), false, true⟩

@[simp] theorem Wr.over_whole (v old : W64) : (Wr.whole v).over old = v := ofNat_halves v

@[simp] theorem Wr.has_whole (v : W64) (k : Nat) : (Wr.whole v).has k = bit v k := by simp [Wr.has]

/-- The low half is written: the high half stays. -/
theorem Wr.over_lo {v old x : W64} (hlo : bits x 0 32 = bits v 0 32) (hhi : bits x 32 32 = bits old 32 32) :
    (Wr.low v).over old = x := by
  have hv : bits (BitVec.ofNat 64 (bits v 0 32)) 0 32 = bits v 0 32 := by
    have := bits_lt v 0 32
    simp only [bits, BitVec.toNat_ofNat] at *
    omega
  change BitVec.ofNat 64 (bits (BitVec.ofNat 64 (bits v 0 32)) 0 32 + bits old 32 32 * 2 ^ 32) = x
  rw [hv, ← hlo, ← hhi, ofNat_halves]

/-- The high half is written: the low half stays. -/
theorem Wr.over_hi {v old x : W64} (hlo : bits x 0 32 = bits old 0 32) (hhi : bits x 32 32 = bits v 0 32) :
    (Wr.high v).over old = x := by
  have hv : bits (BitVec.ofNat 64 (bits v 0 32 * 2 ^ 32)) 32 32 = bits v 0 32 := by
    have := bits_lt v 0 32
    simp only [bits, BitVec.toNat_ofNat] at *
    omega
  change BitVec.ofNat 64 (bits old 0 32 + bits (BitVec.ofNat 64 (bits v 0 32 * 2 ^ 32)) 32 32 * 2 ^ 32) = x
  rw [hv, ← hlo, ← hhi, ofNat_halves]

/-! ### Where the slots lie (R480) -/

/-- The eight bytes from offset o on are those of slot p. -/
def Slot.LiesAt (p : Slot) (o : Nat) : Prop := o % 8 = 0 ∧ o < 2 ^ 26 ∧ slotOf o = p

theorem Slot.LiesAt.dev {o : Nat} (h : o % 8 = 0 ∧ o < 0x1000) : (Slot.dev o).LiesAt o :=
  ⟨h.1, by omega, if_pos h.2⟩

theorem Slot.LiesAt.stream {o k : Nat} (i : StreamId) (ho : o = 0x10000 + 0x100 * i.toNat + k) (hk : k % 8 = 0 ∧ k < 0x100) :
    (Slot.stream i k).LiesAt o := by
  have hi := i.isLt
  have hno : (o - 0x10000) / 0x100 = i.toNat := by omega
  have hin : o % 0x100 = k := by omega
  refine ⟨by omega, by omega, ?_⟩
  simp (disch := omega) only [slotOf, if_neg, if_pos, hno, hin, BitVec.ofNat_toNat, BitVec.setWidth_eq]

theorem Slot.LiesAt.cluster {o c k : Nat} (ho : o = 0x20000 + 0x1000 * c + k) (hc : c < 32) (hk : k % 8 = 0 ∧ k < 0x1000) :
    (Slot.cluster c k).LiesAt o := by
  have hno : (o - 0x20000) / 0x1000 = c := by omega
  have hin : o % 0x1000 = k := by omega
  refine ⟨by omega, by omega, ?_⟩
  simp (disch := omega) only [slotOf, if_neg, if_pos, hno, hin]

theorem Slot.LiesAt.core {o c k : Nat} (ho : o = 0x40000 + 0x100 * c + k) (hc : c < 512) (hk : k % 8 = 0 ∧ k < 0x100) :
    (Slot.core c k).LiesAt o := by
  have hno : (o - 0x40000) / 0x100 = c := by omega
  have hin : o % 0x100 = k := by omega
  refine ⟨by omega, by omega, ?_⟩
  simp (disch := omega) only [slotOf, if_neg, if_pos, hno, hin]

theorem Slot.LiesAt.array {o k : Nat} (ho : o = 0x60000 + k) (hk : k % 8 = 0 ∧ k < 0xD000) : (Slot.array k).LiesAt o := by
  have hin : o - 0x60000 = k := by omega
  refine ⟨by omega, by omega, ?_⟩
  simp (disch := omega) only [slotOf, if_neg, if_pos, hin]

theorem Slot.LiesAt.store {n j : Nat} (hn : n < 256) (hj : j < 8) : (Slot.store n j).LiesAt (0x70000 + 64 * n + 8 * j) := by
  have hno : (0x70000 + 64 * n + 8 * j - 0x70000) / 64 = n := by omega
  have hin : (0x70000 + 64 * n + 8 * j) % 64 / 8 = j := by omega
  refine ⟨by omega, by omega, ?_⟩
  simp (disch := omega) only [slotOf, if_neg, if_pos, hno, hin]

/-- The ranges of the map without a slot. -/
theorem slotOf_eq_none {o : Nat} (h : (0x14000 ≤ o ∧ o < 0x20000) ∨ 0x102000 ≤ o ∨ (0x1000 ≤ o ∧ o < 0x10000)) :
    slotOf (o / 8 * 8) = .none := by
  rcases h with h | h | h <;> simp (disch := omega) only [slotOf, if_neg, if_pos]

/-- The offsets that answer before RUNNING (R442). -/
theorem early_of_earlySlot {o : Nat} (h : earlySlot (slotOf (o / 8 * 8)) = true) :
    o < 0x30 ∨ o / 8 = 0x58 / 8 ∨ o / 8 = 0x60 / 8 ∨ (0x20000 ≤ o ∧ o < 0x40000 ∧ o % 0x1000 / 8 = 0x30 / 8) ∨
      (0x66000 ≤ o ∧ o < 0x662C0) ∨ (0x66300 ≤ o ∧ o < 0x66310) ∨ (0x70000 ≤ o ∧ o < 0x74000) := by
  simp only [slotOf, apply_ite earlySlot] at h
  simp only [earlySlot, Bool.ite_eq_true_distrib, ite_prop_iff_or, Bool.or_eq_true, decide_eq_true_eq, Bool.false_eq_true,
    and_false, false_or, or_false, and_true] at h
  omega

/-- The access of 4 or 8 bytes at an offset. -/
def accAt (o : Nat) (size8 : Bool) : RegAcc := ⟨(BitVec.ofNat 26 o).toNat, size8⟩

theorem Slot.LiesAt.toNat_ofNat {p : Slot} {o k : Nat} (h : p.LiesAt o) (hk : k < 8) : (BitVec.ofNat 26 (o + k)).toNat = o + k := by
  obtain ⟨h8, hlt, -⟩ := h
  exact Nat.mod_eq_of_lt (by omega)

theorem Slot.LiesAt.slot_accAt {p : Slot} {o k : Nat} (h : p.LiesAt o) (hk : k < 8) (size8 : Bool) :
    (accAt (o + k) size8).slot = p := by
  obtain ⟨h8, hlt, hslot⟩ := id h
  rw [accAt, RegAcc.slot, h.toNat_ofNat hk, show (o + k) / 8 * 8 = o by omega, hslot]

theorem Slot.LiesAt.mod_accAt {p : Slot} {o k : Nat} (h : p.LiesAt o) (hk : k < 8) (size8 : Bool) : (accAt (o + k) size8).off % 8 = k := by
  obtain ⟨h8, -, -⟩ := id h
  rw [accAt, h.toNat_ofNat hk]
  change (o + k) % 8 = k
  omega

/-! ### Host accesses that reach a slot (R402, R442) -/

/-- A slot answers in RUNNING, and those of R442 before. -/
def State.AnswersAt (s : State) (p : Slot) : Prop := s.boot.phase = .running ∨ earlySlot p = true

theorem State.AnswersAt.not_closed {s : State} {p : Slot} (h : s.AnswersAt p) :
    (decide (s.boot.phase ≠ .running) && !earlySlot p) = false := by
  rcases h with h | h <;> simp [h]

section
variable {s : State} {off : BitVec 26} {size8 : Bool} {v : W64}

theorem exec_registerRead_misaligned (hup : s.hostUp = true) (hmis : RegAcc.aligned ⟨off.toNat, size8⟩ = false) :
    exec (.registerRead .host off size8) s = .next ((s.countDev evHifBadAccess).reply .unsupported) :=
  (if_neg (by simp [hup])).trans (if_pos (by simp [hmis]))

theorem exec_registerWrite_misaligned (hup : s.hostUp = true) (hmis : RegAcc.aligned ⟨off.toNat, size8⟩ = false) :
    CountsOne (exec (.registerWrite .host off size8 v) s) s evHifBadAccess :=
  (if_neg (by simp [hup])).trans (if_pos (by simp [hmis]))

/-- A register that does not answer yet reads 0. -/
theorem exec_registerRead_closed (hup : s.hostUp = true) (haligned : RegAcc.aligned ⟨off.toNat, size8⟩ = true)
    (hphase : s.boot.phase ≠ .running) (hlate : earlySlot (RegAcc.slot ⟨off.toNat, size8⟩) = false) :
    exec (.registerRead .host off size8) s = .next (s.reply (.value 0)) :=
  (if_neg (by simp [hup])).trans ((if_neg (by simp [haligned])).trans (if_pos (by simp [hphase, hlate])))

theorem exec_registerWrite_closed (hup : s.hostUp = true) (haligned : RegAcc.aligned ⟨off.toNat, size8⟩ = true)
    (hphase : s.boot.phase ≠ .running) (hlate : earlySlot (RegAcc.slot ⟨off.toNat, size8⟩) = false) :
    exec (.registerWrite .host off size8 v) s = .next
      (if ringEnable (RegAcc.slot ⟨off.toNat, size8⟩) (RegAcc.wr ⟨off.toNat, size8⟩ v) then s.regRefused else s.dropWrite) :=
  (if_neg (by simp [hup])).trans ((if_neg (by simp [haligned])).trans (if_pos (by simp [hphase, hlate])))

theorem exec_registerRead_open (hup : s.hostUp = true) (haligned : RegAcc.aligned ⟨off.toNat, size8⟩ = true)
    (hanswers : s.AnswersAt (RegAcc.slot ⟨off.toNat, size8⟩)) :
    exec (.registerRead .host off size8) s = .next (s.hostRegRead ⟨off.toNat, size8⟩) :=
  (if_neg (by simp [hup])).trans ((if_neg (by simp [haligned])).trans (if_neg (ne_true_of_eq_false hanswers.not_closed)))

theorem exec_registerWrite_open (hup : s.hostUp = true) (haligned : RegAcc.aligned ⟨off.toNat, size8⟩ = true)
    (hanswers : s.AnswersAt (RegAcc.slot ⟨off.toNat, size8⟩)) :
    exec (.registerWrite .host off size8 v) s = s.hostRegWrite ⟨off.toNat, size8⟩ v :=
  (if_neg (by simp [hup])).trans ((if_neg (by simp [haligned])).trans (if_neg (ne_true_of_eq_false hanswers.not_closed)))
end

section
variable {s : State} {p : Slot} {o k : Nat} {size8 : Bool} {v : W64}

theorem Slot.LiesAt.aligned_accAt (h : p.LiesAt o) (hk : k < 8) (hsize : k % (if size8 then 8 else 4) = 0) :
    (accAt (o + k) size8).aligned = true := by
  obtain ⟨h8, -, -⟩ := id h
  rw [accAt, RegAcc.aligned, h.toNat_ofNat hk, decide_eq_true_eq]
  cases size8
  · simp only [Bool.false_eq_true, if_false] at hsize ⊢
    omega
  · simp only [if_true] at hsize ⊢
    omega

/-- A read inside a slot that answers. -/
theorem Slot.LiesAt.read (h : p.LiesAt o) (hk : k < 8) (hsize : k % (if size8 then 8 else 4) = 0) (hup : s.hostUp = true)
    (hanswers : s.AnswersAt p) :
    exec (.registerRead .host (BitVec.ofNat 26 (o + k)) size8) s = .next (s.hostRegRead (accAt (o + k) size8)) :=
  exec_registerRead_open hup (h.aligned_accAt hk hsize) ((h.slot_accAt hk size8).symm ▸ hanswers)

/-- A write inside a slot that answers. -/
theorem Slot.LiesAt.write (h : p.LiesAt o) (hk : k < 8) (hsize : k % (if size8 then 8 else 4) = 0) (hup : s.hostUp = true)
    (hanswers : s.AnswersAt p) :
    exec (.registerWrite .host (BitVec.ofNat 26 (o + k)) size8 v) s = s.hostRegWrite (accAt (o + k) size8) v :=
  exec_registerWrite_open hup (h.aligned_accAt hk hsize) ((h.slot_accAt hk size8).symm ▸ hanswers)
end

/-! ### What a read of a slot answers (R481) -/

/-- A read of the slot has no effect. -/
def Slot.plain : Slot → Bool
  | .dev o => decide (o ≠ 8)
  | .stream _ o => decide (o ≠ 0x60)
  | .array o => decide (o < 0x1000 ∨ 0x2000 ≤ o)
  | .store _ _ => false
  | .debug _ _ => false
  | _ => true

theorem State.regRead_of_plain {s : State} {a : RegAcc} (h : a.slot.plain = true) :
    s.regRead a = (a.part ((s.slot a.slot).getD 0), s) := by
  unfold State.regRead
  generalize a.slot = p at h
  dsimp only
  split
  · simp [Slot.plain] at h
  · simp [Slot.plain] at h
  · simp only [Slot.plain, decide_eq_true_eq] at h
    exact if_neg (by omega)
  · simp [Slot.plain] at h
  · rfl

/-- A read of a slot that is outside the debug window answers what the slot gives. -/
theorem State.hostRegRead_of_some {s : State} {a : RegAcc} (h : (s.slot a.slot).isSome = true) :
    s.hostRegRead a = (s.regRead a).2.reply (.value (s.regRead a).1) := by
  unfold State.hostRegRead
  split
  next hslot => simp [hslot, State.slot] at h
  next => rfl

section
variable {s : State} {p : Slot} {o : Nat}

theorem Slot.LiesAt.slot_whole (h : p.LiesAt o) : (accAt o true).slot = p := h.slot_accAt (k := 0) (by decide) true
theorem Slot.LiesAt.slot_low (h : p.LiesAt o) : (accAt o false).slot = p := h.slot_accAt (k := 0) (by decide) false
theorem Slot.LiesAt.slot_high (h : p.LiesAt o) : (accAt (o + 4) false).slot = p := h.slot_accAt (by decide) false

theorem Slot.LiesAt.read_whole (h : p.LiesAt o) (hup : s.hostUp = true) (hanswers : s.AnswersAt p) (hsome : (s.slot p).isSome = true) :
    exec (.registerRead .host (BitVec.ofNat 26 o) true) s =
      .next ((s.regRead (accAt o true)).2.reply (.value (s.regRead (accAt o true)).1)) :=
  (h.read (k := 0) (by decide) rfl hup hanswers).trans (congrArg _ (State.hostRegRead_of_some (h.slot_whole.symm ▸ hsome)))

theorem Slot.LiesAt.read_low (h : p.LiesAt o) (hup : s.hostUp = true) (hanswers : s.AnswersAt p) (hsome : (s.slot p).isSome = true) :
    exec (.registerRead .host (BitVec.ofNat 26 o) false) s =
      .next ((s.regRead (accAt o false)).2.reply (.value (s.regRead (accAt o false)).1)) :=
  (h.read (k := 0) (by decide) rfl hup hanswers).trans (congrArg _ (State.hostRegRead_of_some (h.slot_low.symm ▸ hsome)))

theorem Slot.LiesAt.read_high (h : p.LiesAt o) (hup : s.hostUp = true) (hanswers : s.AnswersAt p) (hsome : (s.slot p).isSome = true) :
    exec (.registerRead .host (BitVec.ofNat 26 (o + 4)) false) s =
      .next ((s.regRead (accAt (o + 4) false)).2.reply (.value (s.regRead (accAt (o + 4) false)).1)) :=
  (h.read (by decide) rfl hup hanswers).trans (congrArg _ (State.hostRegRead_of_some (h.slot_high.symm ▸ hsome)))
end

/-- The host's read of offset `off` answers x and leaves the rest of the state. -/
def State.Gives (s : State) (off : BitVec 26) (size8 : Bool) (x : W64) : Prop :=
  exec (.registerRead .host off size8) s = .next (s.reply (.value x))

/-- The slot at offset o reads x, whole and by its halves; the low half of COB_TIME has an effect beside (R44). -/
def State.GivesWord (s : State) (o : Nat) (x : W64) : Prop :=
  s.Gives (BitVec.ofNat 26 o) true x ∧ (o ≠ 8 → s.Gives (BitVec.ofNat 26 o) false (BitVec.ofNat 64 (bits x 0 32)) ∧
    s.Gives (BitVec.ofNat 26 (o + 4)) false (BitVec.ofNat 64 (bits x 32 32)))

section
variable {s : State} {p : Slot} {o : Nat} {v x : W64}

theorem Slot.LiesAt.part_low (h : p.LiesAt o) (x : W64) : (accAt o false).part x = BitVec.ofNat 64 (bits x 0 32) := by
  have hmod : (accAt o false).off % 8 = 0 := h.mod_accAt (k := 0) (by decide) false
  change BitVec.ofNat 64 (bits x (if (accAt o false).off % 8 = 4 then 32 else 0) 32) = _
  rw [hmod, if_neg (by decide)]

theorem Slot.LiesAt.part_high (h : p.LiesAt o) (x : W64) : (accAt (o + 4) false).part x = BitVec.ofNat 64 (bits x 32 32) := by
  change BitVec.ofNat 64 (bits x (if (accAt (o + 4) false).off % 8 = 4 then 32 else 0) 32) = _
  rw [if_pos (h.mod_accAt (by decide) false)]

theorem Slot.LiesAt.wr_low (h : p.LiesAt o) (v : W64) : (accAt o false).wr v = .low v := by
  have hmod : (accAt o false).off % 8 = 0 := h.mod_accAt (k := 0) (by decide) false
  exact if_neg (by omega : ¬(accAt o false).off % 8 = 4)

theorem Slot.LiesAt.wr_high (h : p.LiesAt o) (v : W64) : (accAt (o + 4) false).wr v = .high v :=
  if_pos (h.mod_accAt (by decide) false)

/-- A slot without effects of its reads gives its word. -/
theorem Slot.LiesAt.givesWord (h : p.LiesAt o) (hup : s.hostUp = true) (hanswers : s.AnswersAt p) (hplain : p.plain = true)
    (hval : s.slot p = some x) : s.GivesWord o x := by
  have hread {a : RegAcc} (hslot : a.slot = p) : s.regRead a = (a.part x, s) := by
    rw [State.regRead_of_plain (hslot.symm ▸ hplain), hslot, hval, Option.getD_some]
  have hsome : (s.slot p).isSome = true := by rw [hval, Option.isSome_some]
  refine ⟨(h.read_whole hup hanswers hsome).trans ?_, fun _ => ⟨(h.read_low hup hanswers hsome).trans ?_,
    (h.read_high hup hanswers hsome).trans ?_⟩⟩
  · rw [hread h.slot_whole]
    rfl
  · rw [hread h.slot_low, ← h.part_low]
  · rw [hread h.slot_high, ← h.part_high]
end

/-! ### Reads with an effect (R44, R459, R481) -/

section
variable {s : State} {a : RegAcc}

/-- The high half of COB_TIME is the one that the read of the low half froze. -/
theorem State.regRead_time_high {h : W32} (hslot : a.slot = .dev 8) (hsize : a.size8 = false) (hlo : a.lo = false)
    (hfrozen : s.timeHi = some h) : s.regRead a = (h.setWidth 64, { s with timeHi := none }) := by
  simp [State.regRead, hslot, hsize, hlo, hfrozen]

/-- Any read of a fault record marks it read. -/
theorem State.regRead_store {n j : Nat} (hslot : a.slot = .store n j) :
    s.regRead a = (a.part ((s.slot (.store n j)).getD 0), { s with flt := { s.flt with read := tput s.flt.read n true } }) := by
  simp [State.regRead, hslot]

theorem State.arraySlot_vault (s : State) {k : Nat} (hk : k < 512) : s.slot (.array (0x1000 + 8 * k)) = some (vaultWord (s.vault k)) := by
  have hno : (0x1000 + 8 * k - 0x1000) / 8 = k := by omega
  simp (disch := omega) only [State.slot, State.arraySlot, if_neg, if_pos, hno]

/-- A read of the high half of a vault's status clears ce_tier. -/
theorem State.regRead_vault {k : Nat} (hk : k < 512) (hslot : a.slot = .array (0x1000 + 8 * k)) :
    s.regRead a = (a.part (vaultWord (s.vault k)), if a.hi then s.modVault k fun x => { x with ceTier := 0 } else s) := by
  have hin : 0x1000 ≤ 0x1000 + 8 * k ∧ 0x1000 + 8 * k < 0x2000 := by omega
  cases hhi : a.hi <;> simp [State.regRead, hslot, s.arraySlot_vault hk, hin, hhi]
end

theorem exec_registerRead_store {s : State} {n j : Nat} (hup : s.hostUp = true) (hn : n < 256) (hj : j < 8) :
    exec (.registerRead .host (BitVec.ofNat 26 (0x70000 + 64 * n + 8 * j)) true) s = .next
      ({ s with flt := { s.flt with read := tput s.flt.read n true } }.reply
        (.value (BitVec.ofNat 64 (bits (tget 0 s.flt.records n) (64 * j) 64)))) := by
  have hlies := Slot.LiesAt.store hn hj
  rw [hlies.read_whole hup (.inr rfl) rfl, State.regRead_store hlies.slot_whole]
  rfl

section
variable {s : State} {k : Nat}

theorem Slot.LiesAt.vault (hk : k < 512) : (Slot.array (0x1000 + 8 * k)).LiesAt (0x61000 + 8 * k) :=
  .array (by omega) (by omega)

theorem State.gives_vault_low (hup : s.hostUp = true) (hrun : s.boot.phase = .running) (hk : k < 512) :
    s.Gives (BitVec.ofNat 26 (0x61000 + 8 * k)) false (BitVec.ofNat 64 (bits (vaultWord (s.vault k)) 0 32)) := by
  have hlies := Slot.LiesAt.vault hk
  have hmod : (accAt (0x61000 + 8 * k) false).off % 8 = 0 := hlies.mod_accAt (k := 0) (by decide) false
  have hhi : (accAt (0x61000 + 8 * k) false).hi ≠ true := by
    change decide ((accAt (0x61000 + 8 * k) false).off % 8 = 4) ≠ true
    rw [hmod]
    decide
  rw [State.Gives, hlies.read_low hup (.inl hrun) (by rw [s.arraySlot_vault hk]; rfl), State.regRead_vault hk hlies.slot_low,
    hlies.part_low, if_neg hhi]

theorem exec_registerRead_vault (hup : s.hostUp = true) (hrun : s.boot.phase = .running) (hk : k < 512) :
    exec (.registerRead .host (BitVec.ofNat 26 (0x61000 + 8 * k)) true) s = .next
      ((s.modVault k fun x => { x with ceTier := 0 }).reply (.value (vaultWord (s.vault k)))) := by
  have hlies := Slot.LiesAt.vault hk
  rw [hlies.read_whole hup (.inl hrun) (by rw [s.arraySlot_vault hk]; rfl), State.regRead_vault hk hlies.slot_whole]
  rfl
end

/-! ### Slots of indexed registers (R480) -/

section
variable {o b d n k : Nat}

theorem arrIdx_above (h : b + d * n ≤ o) : arrIdx o b d n = none := if_neg (by omega)

theorem arrIdx_at (hd : 0 < d) (hk : k < n) : arrIdx (b + d * k) b d n = some k := by
  have hin : b ≤ b + d * k ∧ b + d * k < b + d * n ∧ (b + d * k - b) % d = 0 := by
    rw [Nat.add_sub_cancel_left, Nat.mul_mod_right]
    exact ⟨Nat.le_add_right _ _, Nat.add_lt_add_left (Nat.mul_lt_mul_of_pos_left hk hd) _, rfl⟩
  rw [arrIdx, if_pos hin, Nat.add_sub_cancel_left, Nat.mul_div_cancel_left _ hd]

end

section
variable (s : State)

theorem State.arraySlot_port {p : Nat} (hp : p < 32) : s.slot (.array (0x3008 + 16 * p)) = some (s.portWord p) := by
  have hno : (0x3008 + 16 * p - 0x3000) / 16 = p := by omega
  simp (disch := omega) only [State.slot, State.arraySlot, if_neg, if_pos, hno]

theorem State.arraySlot_sensor {x : Nat} (hx : x < 1024) : s.slot (.array (0x8000 + 8 * x)) = some (sensorWord (s.sensor x)) := by
  have hno : (0x8000 + 8 * x - 0x8000) / 8 = x := by omega
  simp (disch := omega) only [State.slot, State.arraySlot, if_neg, if_pos, hno]

theorem State.arraySlot_engine {e k : Nat} (he : e < 10) (hk : k < 0x40) : s.slot (.array (0x2000 + 0x40 * e + k)) = s.vidSlot e k := by
  have hno : (0x2000 + 0x40 * e + k - 0x2000) / 0x40 = e := by omega
  have hin : (0x2000 + 0x40 * e + k) % 0x40 = k := by omega
  simp (disch := omega) only [State.slot, State.arraySlot, if_neg, if_pos, hno, hin]

theorem State.arraySlot_key_isSome {k : Nat} (hk : k < 4) : (s.slot (.array (0xB000 + 8 * k))).isSome = true := by
  simp (disch := omega) only [State.slot, State.arraySlot, if_neg, if_pos, Option.isSome_some]

theorem State.clusterSlot_ctr {j : Nat} (c : Nat) (hj : j < 64) :
    s.slot (.cluster c (0x400 + 8 * j)) = some (lastCtr (s.inSlot (some c) j)) := by
  simp only [State.slot, State.clusterSlot]
  split
  case h_9 => simp (disch := omega) only [evtOf, arrIdx_above, arrIdx_at]
  all_goals omega

theorem State.clusterSlot_ret {j : Nat} (c : Nat) (hj : j < 64) :
    s.slot (.cluster c (0x600 + 8 * j)) = some (lastRet (s.inSlot (some c) j)) := by
  simp only [State.slot, State.clusterSlot]
  split
  case h_9 => simp (disch := omega) only [evtOf, arrIdx_above, arrIdx_at]
  all_goals omega

theorem State.clusterSlot_sel {n : Nat} (c : Nat) (hn : n < 16) :
    s.slot (.cluster c (0x200 + 8 * n)) = some (s.evtSel (4096 + 16 * c + n)) := by
  simp only [State.slot, State.clusterSlot]
  split
  case h_9 => simp (disch := omega) only [evtOf, arrIdx_above, arrIdx_at]
  all_goals omega

/-- A write of a cluster's counter selector. -/
theorem State.writeCluster_sel {n : Nat} (c : Nat) (hn : n < 16) (w : Wr) :
    s.writeCluster c (0x200 + 8 * n) w = s.writeEvt (4096 + 16 * c + n) false w := by
  simp only [State.writeCluster]
  split
  case h_8 => simp (disch := omega) only [evtOf, arrIdx_at]
  all_goals omega

theorem State.writeArray_vidRing {e : Nat} (he : e < 10) (w : Wr) :
    s.writeArray (0x2000 + 0x40 * e + 0) w = s.writeVidRing e (w.over (s.engine e).ring) := by
  have hno : (0x2000 + 0x40 * e + 0 - 0x2000) / 0x40 = e := by omega
  have hin : (0x2000 + 0x40 * e + 0) % 0x40 = 0 := by omega
  simp (disch := omega) only [State.writeArray, if_neg, if_pos, hno, hin]

theorem State.writeArray_vidDb {e : Nat} (he : e < 10) (w : Wr) :
    s.writeArray (0x2000 + 0x40 * e + 0x10) w = if w.lo then stateOr s (execVidDb (BitVec.ofNat 4 e) s) else s := by
  have hno : (0x2000 + 0x40 * e + 0x10 - 0x2000) / 0x40 = e := by omega
  have hin : (0x2000 + 0x40 * e + 0x10) % 0x40 = 0x10 := by omega
  simp (disch := omega) only [State.writeArray, if_neg, if_pos, hno, hin]

theorem State.writeArray_key {k : Nat} (hk : k < 4) (w : Wr) :
    s.writeArray (0xB000 + 8 * k) w = if w.lo then s.writeKey k (bit w.v 1) else s := by
  have hno : (0xB000 + 8 * k - 0xB000) / 8 = k := by omega
  simp (disch := omega) only [State.writeArray, if_neg, if_pos, hno]
end

/-! ### Writes of a slot (R481) -/

/-- A write of a register outside the debug window is the write of its slot; a fault record keeps. -/
theorem State.hostRegWrite_of_some {s : State} {a : RegAcc} {v : W64} (h : (s.slot a.slot).isSome = true) :
    s.hostRegWrite a v = .next (s.slotWrite .host a.slot (a.wr v)) := by
  unfold State.hostRegWrite
  split
  next hslot => simp [hslot, State.slot] at h
  next hslot => simp [hslot, State.slotWrite]
  next => rw [if_neg (by simp [Option.isNone_iff_eq_none, ← Option.not_isSome_iff_eq_none, h])]

/-- A write where no register lies is dropped and counted. -/
theorem State.hostRegWrite_of_none {s : State} {a : RegAcc} {v : W64} (h : a.slot = .none) :
    s.hostRegWrite a v = .next s.dropWrite := by
  simp [State.hostRegWrite, h, State.slot]

section
variable {s : State} {p : Slot} {o : Nat} {v x : W64}

theorem Slot.LiesAt.write_whole (h : p.LiesAt o) (hup : s.hostUp = true) (hanswers : s.AnswersAt p) (hsome : (s.slot p).isSome = true) :
    exec (.registerWrite .host (BitVec.ofNat 26 o) true v) s = .next (s.slotWrite .host p (.whole v)) := by
  rw [← h.slot_whole] at hsome ⊢
  exact (h.write (k := 0) (by decide) rfl hup hanswers).trans (State.hostRegWrite_of_some hsome)

theorem Slot.LiesAt.write_low (h : p.LiesAt o) (hup : s.hostUp = true) (hanswers : s.AnswersAt p) (hsome : (s.slot p).isSome = true) :
    exec (.registerWrite .host (BitVec.ofNat 26 o) false v) s = .next (s.slotWrite .host p (.low v)) := by
  rw [← h.slot_low] at hsome ⊢
  rw [← h.wr_low]
  exact (h.write (k := 0) (by decide) rfl hup hanswers).trans (State.hostRegWrite_of_some hsome)

theorem Slot.LiesAt.write_high (h : p.LiesAt o) (hup : s.hostUp = true) (hanswers : s.AnswersAt p) (hsome : (s.slot p).isSome = true) :
    exec (.registerWrite .host (BitVec.ofNat 26 (o + 4)) false v) s = .next (s.slotWrite .host p (.high v)) := by
  rw [← h.slot_high] at hsome ⊢
  rw [← h.wr_high]
  exact (h.write (by decide) rfl hup hanswers).trans (State.hostRegWrite_of_some hsome)
end

section
variable {s : State} {off : BitVec 26} {size8 : Bool} {v : W64}

/-- An offset without a register reads 0. -/
theorem exec_registerRead_none (hup : s.hostUp = true) (haligned : RegAcc.aligned ⟨off.toNat, size8⟩ = true)
    (hanswers : s.AnswersAt .none) (hnone : RegAcc.slot ⟨off.toNat, size8⟩ = .none) : s.Gives off size8 0 := by
  have hzero : RegAcc.part ⟨off.toNat, size8⟩ 0#64 = 0#64 := by cases size8 <;> simp [RegAcc.part, bits]
  rw [State.Gives, exec_registerRead_open hup haligned (hnone ▸ hanswers)]
  simp [State.hostRegRead, State.regRead, hnone, State.slot, hzero]

theorem exec_registerWrite_none (hup : s.hostUp = true) (haligned : RegAcc.aligned ⟨off.toNat, size8⟩ = true)
    (hanswers : s.AnswersAt .none) (hnone : RegAcc.slot ⟨off.toNat, size8⟩ = .none) :
    CountsOne (exec (.registerWrite .host off size8 v) s) s evHifBadAccess := by
  rw [CountsOne, exec_registerWrite_open hup haligned (hnone ▸ hanswers), State.hostRegWrite_of_none hnone]
  rfl
end

/-! ### Writes that do what a command does (R481-R483) -/

/-- What a command of RUNNING does there. -/
theorem next_in_running {s t u : State} (hrun : s.boot.phase = .running) :
    (.next (if s.boot.phase = .running then t else u) : Res) = .next t := congrArg _ (if_pos hrun)

theorem next_unless_running {s t u : State} (hrun : s.boot.phase = .running) :
    (.next (if s.boot.phase ≠ .running then u else t) : Res) = .next t := congrArg _ (if_neg (not_not.mpr hrun))

theorem next_stateOr {s : State} {r : Res} (h : ∃ t, r = .next t) : r = .next (stateOr s r) := by
  obtain ⟨t, rfl⟩ := h
  rfl

theorem exec_bootRcvOpRefused {s : State} {len : BitVec 25} {slot : Bool} (hup : s.hostUp = true) :
    exec (.bootRcvOpRefused len slot) s = .next (s.badOp .rcv fun s => (s.setRcv len slot).rcvEnd eHandle) :=
  congrArg _ (if_pos hup)

theorem exec_irqPendClear {s : State} {inst : Bool} {v : W64} (hup : s.hostUp = true) :
    exec (.irqPendClear inst v) s = .next (s.clearPend inst v) := congrArg _ (if_pos hup)

theorem exec_fabCfgWrite (v : W64) (s : State) : exec (.fabCfgWrite v) s = .next (stateOr s (execFabCfgWrite v s)) := by
  refine next_stateOr (r := execFabCfgWrite v s) ?_
  unfold execFabCfgWrite
  split
  · exact ⟨_, rfl⟩
  · split <;> exact ⟨_, rfl⟩

theorem exec_fabJoin (s : State) : exec .fabJoin s = .next (stateOr s (execFabJoin s)) := by
  refine next_stateOr (r := execFabJoin s) ?_
  unfold execFabJoin
  split <;> exact ⟨_, rfl⟩

theorem exec_fabLeave (s : State) : exec .fabLeave s = .next (stateOr s (execFabLeave s)) := by
  refine next_stateOr (r := execFabLeave s) ?_
  unfold execFabLeave
  split
  · exact ⟨_, rfl⟩
  · split <;> exact ⟨_, rfl⟩

section
variable {s : State} {p : Slot} {o : Nat} {v : W64} {c : Instr} {t : State}

/-- Where the write of a slot in RUNNING and a command leave the same state, the host's write is that command. -/
theorem Slot.LiesAt.write_eq_exec (h : p.LiesAt o) (hup : s.hostUp = true) (hrun : s.boot.phase = .running)
    (hsome : (s.slot p).isSome = true) (hwrite : s.slotWrite .host p (.whole v) = t) (hexec : exec c s = .next t) :
    exec (.registerWrite .host (BitVec.ofNat 26 o) true v) s = exec c s := by
  rw [h.write_whole hup (.inl hrun) hsome, hwrite, hexec]

/-- The slot takes a word g: a write of it, or of one half with the other as it stands. -/
theorem Slot.LiesAt.write_keeps {g : W64} {u : W64 → State} (h : p.LiesAt o) (hup : s.hostUp = true) (hrun : s.boot.phase = .running)
    (hsome : (s.slot p).isSome = true) (hwrite : ∀ w : Wr, s.slotWrite .host p w = u (w.over g)) :
    exec (.registerWrite .host (BitVec.ofNat 26 o) true v) s = .next (u v) ∧
    (∀ x : W64, bits x 0 32 = bits v 0 32 → bits x 32 32 = bits g 32 32 →
      exec (.registerWrite .host (BitVec.ofNat 26 o) false v) s = .next (u x)) ∧
    ∀ x : W64, bits x 0 32 = bits g 0 32 → bits x 32 32 = bits v 0 32 →
      exec (.registerWrite .host (BitVec.ofNat 26 (o + 4)) false v) s = .next (u x) := by
  refine ⟨?_, fun x hlo hhi => ?_, fun x hlo hhi => ?_⟩
  · rw [h.write_whole hup (.inl hrun) hsome, hwrite, Wr.over_whole]
  · rw [h.write_low hup (.inl hrun) hsome, hwrite, Wr.over_lo hlo hhi]
  · rw [h.write_high hup (.inl hrun) hsome, hwrite, Wr.over_hi hlo hhi]
end

/-! ### The op fields of the control registers (R28, R256, R281, R303, R304, R445, R483) -/

section
variable {s : State} {v : W64}

theorem State.writeGdefCtl_define (hop : bits v 16 2 = 1) : s.writeGdefCtl v =
    s.startOp (.gdefDefine (BitVec.ofNat 16 (bits v 0 16))) fun s => s.setGdef (BitVec.ofNat 16 (bits v 0 16)) := by
  simp only [State.writeGdefCtl, hop]

theorem State.writeGdefCtl_remove (hop : bits v 16 2 = 2) : s.writeGdefCtl v =
    s.startOp (.gdefRemove (BitVec.ofNat 16 (bits v 0 16))) fun s => s.setGdef (BitVec.ofNat 16 (bits v 0 16)) := by
  simp only [State.writeGdefCtl, hop]

theorem State.writeGdefCtl_refused (hop : bits v 16 2 = 3) :
    s.writeGdefCtl v = stateOr s (execUnitGdefOpRefused (BitVec.ofNat 16 (bits v 0 16)) s) := by
  simp only [State.writeGdefCtl, hop]

/-- The fields of DELTA_GEN_CTL. -/
def deltaSlotOf (v : W64) : BitVec 3 := BitVec.ofNat 3 (bits v 0 3)
def deltaGenOf (v : W64) : BitVec 16 := BitVec.ofNat 16 (bits v 16 16)
def deltaMaskOf (v : W64) : W32 := BitVec.ofNat 32 (bits v 32 32)

theorem State.writeDeltaCtl_load (hop : bits v 3 2 = 1) : s.writeDeltaCtl (.whole v) =
    s.startOp (.deltaLoad (deltaSlotOf v) (deltaGenOf v) (deltaMaskOf v))
      fun s => s.setDelta (deltaSlotOf v) (deltaGenOf v) (deltaMaskOf v) := by
  simp [State.writeDeltaCtl, hop, deltaSlotOf, deltaGenOf, deltaMaskOf]

theorem State.writeDeltaCtl_retire (hop : bits v 3 2 = 2) : s.writeDeltaCtl (.whole v) =
    s.startOp (.deltaRetire (deltaSlotOf v) (deltaGenOf v) (deltaMaskOf v))
      fun s => s.setDelta (deltaSlotOf v) (deltaGenOf v) (deltaMaskOf v) := by
  simp [State.writeDeltaCtl, hop, deltaSlotOf, deltaGenOf, deltaMaskOf]

/-- An op value that is refused takes slot and gen; the mask that the write brings is the one that stands. -/
theorem State.writeDeltaCtl_refused (hop : bits v 3 2 = 3) (hmask : bits v 32 32 = s.dev.deltaMask.toNat) :
    s.writeDeltaCtl (.whole v) =
      s.badOp .delta fun s => (s.setDelta (deltaSlotOf v) (deltaGenOf v) s.dev.deltaMask).deltaEnd eHandle 0 := by
  simp [State.writeDeltaCtl, State.badOp, hop, hmask, deltaSlotOf, deltaGenOf]

theorem State.writePoolCtl_define (who : Agent) (hop : bits v 8 2 = 1) : s.writePoolCtl who v =
    s.startOp (.poolDefine (BitVec.ofNat 8 (bits v 0 8))) fun s => s.setPool (BitVec.ofNat 8 (bits v 0 8)) := by
  simp only [State.writePoolCtl, hop]

theorem State.writePoolCtl_remove (who : Agent) (hop : bits v 8 2 = 2) : s.writePoolCtl who v =
    s.startOp (.poolRemove (BitVec.ofNat 8 (bits v 0 8))) fun s => s.setPool (BitVec.ofNat 8 (bits v 0 8)) := by
  simp only [State.writePoolCtl, hop]

theorem State.writePoolCtl_advance (who : Agent) (hop : bits v 8 2 = 3) : s.writePoolCtl who v =
    s.startOp (.poolAdvance who (BitVec.ofNat 8 (bits v 0 8))) fun s => s.setPool (BitVec.ofNat 8 (bits v 0 8)) := by
  simp only [State.writePoolCtl, hop]

/-- The fields of STK_RPR_CTL. -/
def rprVaultOf (v : W64) : VaultId := BitVec.ofNat 9 (bits v 0 9)
def rprTierOf (v : W64) : BitVec 3 := BitVec.ofNat 3 (bits v 9 3)
def rprStoreOf (v : W64) : BitVec 2 := BitVec.ofNat 2 (bits v 12 2)
def rprIndexOf (v : W64) : BitVec 7 := BitVec.ofNat 7 (bits v 14 7)

/-- The op values that STK_RPR_CTL starts: a soft write and a soft clear on the soft store only. -/
theorem State.writeRprCtl_starts (hdone : bit v 25 = false)
    (hop : bits v 21 3 = 1 ∨ bits v 21 3 = 4 ∨ bits v 21 3 = 5 ∨ (bits v 21 3 = 2 ∨ bits v 21 3 = 3) ∧ bits v 12 2 = 1) :
    s.writeRprCtl v =
      s.startOp (.rprOp (BitVec.ofNat 3 (bits v 21 3)) (rprVaultOf v) (rprTierOf v) (rprStoreOf v) (rprIndexOf v))
        fun s => s.setRpr (rprVaultOf v) (rprTierOf v) (rprStoreOf v) (rprIndexOf v) := by
  have hnonzero : BitVec.ofNat 3 (bits v 21 3) ≠ 0 := by
    rcases hop with h | h | h | ⟨h | h, -⟩ <;> rw [h] <;> decide
  have hallowed : ¬(6 ≤ (BitVec.ofNat 3 (bits v 21 3)).toNat ∨
      ((BitVec.ofNat 3 (bits v 21 3) = 2 ∨ BitVec.ofNat 3 (bits v 21 3) = 3) ∧ BitVec.ofNat 2 (bits v 12 2) ≠ 1)) := by
    rcases hop with h | h | h | ⟨h | h, hstore⟩
    · rw [h]; simp
    · rw [h]; simp
    · rw [h]; simp
    · rw [h, hstore]; simp
    · rw [h, hstore]; simp
  simp only [State.writeRprCtl, if_neg hnonzero, if_neg hallowed, hdone]
  by_cases hbusy : s.busy .rpr = true
  · simp [State.startOp, RegOp.set, hbusy]
  · simp [hbusy, rprVaultOf, rprTierOf, rprStoreOf, rprIndexOf]

/-- The fields of BOOT_RCV_CTL. -/
def rcvLenOf (v : W64) : BitVec 25 := BitVec.ofNat 25 (bits v 0 25)

theorem State.writeRcvCtl_fetch (hop : bits v 26 2 = 1) (hdone : bit v 29 = false) : s.writeRcvCtl v =
    s.startOp (.rcvFetch (rcvLenOf v) (bit v 25)) fun s => s.setRcv (rcvLenOf v) (bit v 25) := by
  simp only [State.writeRcvCtl, hop, hdone]
  by_cases hbusy : s.busy .rcv = true
  · simp [State.startOp, RegOp.set, hbusy]
  · simp [hbusy, rcvLenOf]

theorem State.writeRcvCtl_refused (hop : 2 ≤ bits v 26 2) (hdone : bit v 29 = false) : s.writeRcvCtl v =
    s.badOp .rcv fun s => (s.setRcv (rcvLenOf v) (bit v 25)).rcvEnd eHandle := by
  simp only [State.writeRcvCtl, hdone]
  split
  · omega
  · omega
  · rfl

/-- The fields of KV_TREE_CTL. -/
def treePoolOf (v : W64) : Byte := BitVec.ofNat 8 (bits v 8 8)
def treeSlotOf (v : W64) : W32 := BitVec.ofNat 32 (bits v 16 32)
def treeFnOf (v : W64) : BitVec 3 := BitVec.ofNat 3 (bits v 0 3)

theorem toNat_treeFnOf (v : W64) : (treeFnOf v).toNat = bits v 0 3 := Nat.mod_eq_of_lt (bits_lt v 0 3)

theorem State.writeTreeCtl_whole (i : StreamId) (hop : 1 ≤ bits v 0 3) : s.writeTreeCtl i (.whole v) =
    if (treeFnOf v).toNat < 6 then
      s.startOp (.treeOp (treeFnOf v) i (treePoolOf v) (treeSlotOf v)) fun s => s.setTree i (treePoolOf v) (treeSlotOf v)
    else stateOr s (execKvTreeOpRefused i (treePoolOf v) (treeSlotOf v) (treeFnOf v) s) := by
  have hnonzero : treeFnOf v ≠ 0 := by
    intro hzero
    have := toNat_treeFnOf v
    rw [hzero] at this
    exact absurd this.symm (Nat.ne_of_gt hop)
  simp only [State.writeTreeCtl, Wr.over_whole]
  exact if_neg hnonzero

theorem State.writeTreeCtl_starts (i : StreamId) (hlo : 1 ≤ bits v 0 3) (hhi : bits v 0 3 ≤ 5) : s.writeTreeCtl i (.whole v) =
    s.startOp (.treeOp (treeFnOf v) i (treePoolOf v) (treeSlotOf v)) fun s => s.setTree i (treePoolOf v) (treeSlotOf v) :=
  (s.writeTreeCtl_whole i hlo).trans (if_pos (by rw [toNat_treeFnOf]; omega))

theorem State.writeTreeCtl_refused (i : StreamId) (hop : 6 ≤ bits v 0 3) : s.writeTreeCtl i (.whole v) =
    stateOr s (execKvTreeOpRefused i (treePoolOf v) (treeSlotOf v) (treeFnOf v) s) :=
  (s.writeTreeCtl_whole i (by omega)).trans (if_neg (by rw [toNat_treeFnOf]; omega))

/-- The op field of FAB_RT_CTL with done, which stands above it, not written. -/
theorem rtOp_of_bits {n : Nat} (h : bits v 16 3 = n) (hn : n < 4) : bits v 16 2 = n ∧ bit v 18 = false := by
  simp only [bits] at h
  simp only [bit, bits, decide_eq_false_iff_not]
  omega

theorem State.writeRtCtl_read (hop : bits v 16 3 = 1) :
    s.writeRtCtl v = stateOr s (execFabRtRead (BitVec.ofNat 16 (bits v 0 16)) s) := by
  obtain ⟨hfn, hdone⟩ := rtOp_of_bits hop (by decide)
  simp [State.writeRtCtl, hfn, hdone]

theorem State.writeRtCtl_write (hop : bits v 16 3 = 2) :
    s.writeRtCtl v = stateOr s (execFabRtWrite (BitVec.ofNat 16 (bits v 0 16)) s) := by
  obtain ⟨hfn, hdone⟩ := rtOp_of_bits hop (by decide)
  simp [State.writeRtCtl, hfn, hdone]

theorem State.writeRtCtl_refused (hop : bits v 16 3 = 3) :
    s.writeRtCtl v = stateOr s (execFabRtOpRefused (BitVec.ofNat 16 (bits v 0 16)) s) := by
  obtain ⟨hfn, hdone⟩ := rtOp_of_bits hop (by decide)
  simp [State.writeRtCtl, hfn, hdone]

/-- FAB_CTL joins, then leaves. -/
theorem State.writeDev_fabCtl (w : Wr) : s.writeDev .host 0x188 w =
    let u := if w.has 0 then stateOr s (execFabJoin s) else s
    if w.has 1 then stateOr u (execFabLeave u) else u := rfl

/-- The bits join and leave of FAB_CTL. -/
theorem bit_of_fabCtl {n : Nat} (h : bits v 0 2 = n) : bit v 0 = decide (n % 2 = 1) ∧ bit v 1 = decide (n / 2 = 1) := by
  simp only [bits] at h
  simp only [bit, decide_eq_decide]
  omega

theorem State.writeDev_join (hop : bits v 0 2 = 1) : s.writeDev .host 0x188 (.whole v) = stateOr s (execFabJoin s) := by
  obtain ⟨hjoin, hleave⟩ := bit_of_fabCtl hop
  rw [State.writeDev_fabCtl]
  simp [hjoin, hleave]

theorem State.writeDev_leave (hop : bits v 0 2 = 2) : s.writeDev .host 0x188 (.whole v) = stateOr s (execFabLeave s) := by
  obtain ⟨hjoin, hleave⟩ := bit_of_fabCtl hop
  rw [State.writeDev_fabCtl]
  simp [hjoin, hleave]
end

/-! ### What the write of a word does (R481-R483) -/

section
variable (s : State) (v : W64)

/-- The device registers whose write is one operation: the offset, and the state that a host's write of v leaves. -/
def State.devEffects : List (Nat × State) :=
  [(0x018, if bit v 0 then s.hostAck else s), (0x028, s.writeRcvCtl v), (0x040, s.writeLevee .host v), (0x050, s.writeFloor v),
    (0x088, s.writeGdefCtl v), (0x0A8, s.writeDeltaCtl (.whole v)), (0x0C8, s.writePoolCtl .host v),
    (0x100, s.writeIlv (BitVec.ofNat 32 (bits v 0 32))), (0x110, s.writeRprCtl v), (0x180, stateOr s (execFabCfgWrite v s)),
    (0x1A0, s.writeRtCtl v), (0x200, s.writeCap v), (0x208, s.writeWeirCfg v), (0x220, s.writeElog v)]

/-- The match of `writeDev` is split with its offset a variable: comparing both sides at a numeral makes the kernel unfold every
writer below it. -/
theorem State.writeDev_of_mem {o : Nat} {t : State} (h : (o, t) ∈ s.devEffects v) : s.writeDev .host o (.whole v) = t := by
  simp only [State.devEffects, List.mem_cons, Prod.mk.injEq, List.not_mem_nil, or_false] at h
  delta State.writeDev
  dsimp only
  split <;> simp_all

/-- The registers of a stream, likewise. -/
def State.streamEffects (i : StreamId) : List (Nat × State) :=
  [(0x10, s.writeJob i false v), (0x18, s.writeJob i true v), (0x40, s.writeSched i .prog v), (0x48, s.writeSched i .param v),
    (0x50, s.writeSched i .shape v), (0x80, s.writeTreeCtl i (.whole v)), (0xC0, s.writeRing (.cmd i) v),
    (0xC8, s.writeRing (.cpl i) v)]

theorem State.writeStream_of_mem {i : StreamId} {o : Nat} {t : State} (h : (o, t) ∈ s.streamEffects v i) :
    s.writeStream i o (.whole v) = t := by
  simp only [State.streamEffects, List.mem_cons, Prod.mk.injEq, List.not_mem_nil, or_false] at h
  delta State.writeStream
  dsimp only
  split <;> simp_all [State.writeRing]

variable {s v}

theorem State.devEffects_register {o : Nat} {t : State} (h : (o, t) ∈ s.devEffects v) :
    (o % 8 = 0 ∧ o < 0x1000) ∧ (s.devSlot o).isSome = true := by
  simp only [State.devEffects, List.mem_cons, Prod.mk.injEq, List.not_mem_nil, or_false] at h
  rcases h with ⟨rfl, -⟩ | ⟨rfl, -⟩ | ⟨rfl, -⟩ | ⟨rfl, -⟩ | ⟨rfl, -⟩ | ⟨rfl, -⟩ | ⟨rfl, -⟩ | ⟨rfl, -⟩ | ⟨rfl, -⟩ | ⟨rfl, -⟩ |
    ⟨rfl, -⟩ | ⟨rfl, -⟩ | ⟨rfl, -⟩ | ⟨rfl, -⟩ <;> exact ⟨by decide, rfl⟩

theorem exec_registerWrite_dev {o : Nat} {t : State} (hup : s.hostUp = true) (hrun : s.boot.phase = .running)
    (h : (o, t) ∈ s.devEffects v) : exec (.registerWrite .host (BitVec.ofNat 26 o) true v) s = .next t := by
  obtain ⟨hoff, hsome⟩ := State.devEffects_register h
  exact (Slot.LiesAt.write_whole (.dev hoff) hup (.inl hrun) hsome).trans (congrArg _ (s.writeDev_of_mem v h))

theorem State.streamEffects_register {i : StreamId} {o : Nat} {t : State} (h : (o, t) ∈ s.streamEffects v i) :
    (o % 8 = 0 ∧ o < 0x100) ∧ (s.streamSlot i o).isSome = true := by
  simp only [State.streamEffects, List.mem_cons, Prod.mk.injEq, List.not_mem_nil, or_false] at h
  rcases h with ⟨rfl, -⟩ | ⟨rfl, -⟩ | ⟨rfl, -⟩ | ⟨rfl, -⟩ | ⟨rfl, -⟩ | ⟨rfl, -⟩ | ⟨rfl, -⟩ | ⟨rfl, -⟩ <;> exact ⟨by decide, rfl⟩

theorem exec_registerWrite_stream {i : StreamId} {o k : Nat} {t : State} (hup : s.hostUp = true) (hrun : s.boot.phase = .running)
    (ho : o = 0x10000 + 0x100 * i.toNat + k) (h : (k, t) ∈ s.streamEffects v i) :
    exec (.registerWrite .host (BitVec.ofNat 26 o) true v) s = .next t := by
  obtain ⟨hoff, hsome⟩ := State.streamEffects_register h
  exact (Slot.LiesAt.write_whole (.stream i ho hoff) hup (.inl hrun) hsome).trans (congrArg _ (s.writeStream_of_mem v h))

variable (s v)

theorem State.writeCluster_noise (c : Nat) :
    s.writeCluster c 0x18 (.whole v) = if bit v 0 then stateOr s (execNoiseRestart (BitVec.ofNat 5 c) s) else s :=
  congrArg (fun b : Bool => if b then stateOr s (execNoiseRestart (BitVec.ofNat 5 c) s) else s) (Wr.has_whole v 0)

theorem State.writeCluster_fences (c : Nat) : s.writeCluster c 0x38 (.whole v) = s.clearFences c (BitVec.ofNat 16 (bits v 0 16)) := rfl

/-- A write of a cluster's selector is one of the selector of its counter. -/
theorem State.writeCluster_evtSel (c : ClusterId) (n : BitVec 4) :
    s.writeCluster c.toNat (0x200 + 8 * n.toNat) (.whole v) = s.writeSel (counterNo (.cluster c n)) v := by
  have hno : counterNo (.cluster c n) = 4096 + 16 * c.toNat + n.toNat := by
    rw [counterNo]
    omega
  rw [hno, s.writeCluster_sel _ n.isLt, State.writeEvt, if_neg Bool.false_ne_true, Wr.over_whole]

theorem State.writeArray_win : s.writeArray 0x6500 (.whole v) = s.writeWin v := by
  simp (disch := decide) only [State.writeArray, if_neg, if_pos, Wr.over_whole]

theorem State.writeArray_pend :
    s.writeArray 0x6300 (.whole v) = s.clearPend false v ∧ s.writeArray 0x6308 (.whole v) = s.clearPend true v := by
  constructor <;> simp (disch := decide) only [State.writeArray, if_neg, if_pos, Wr.over_whole]
end

/-! ### Operations of register sets, from the write to the row (R28, R29) -/

theorem RegOp.written_ops (q : RegOp) (s : State) : (q.written s).ops = s.ops := by
  cases q <;> rfl

section
variable {s : State} {q : RegOp} {carry : State → State}

theorem State.startOp_of_busy {start : State → State} (h : s.busy q.set = true) : s.startOp q start = s.regRefused := if_pos h

theorem State.startOp_of_free (h : s.busy q.set = false) :
    s.startOp q q.written = { q.written s with ops := s.ops ++ [q] } := by
  rw [State.startOp, if_neg (ne_true_of_eq_false h), q.written_ops]

/-- The outcome of a write that starts operation q: refused and counted while the set is busy, queued with its fields else. -/
theorem State.starts_of_startOp {r : Res} (h : r = .next (s.startOp q q.written)) :
    (s.busy q.set = true → CountsOne r s evRegWriteRefused) ∧
    (s.busy q.set = false → r = .next { q.written s with ops := s.ops ++ [q] }) :=
  ⟨fun hbusy => h.trans (congrArg _ (State.startOp_of_busy hbusy)), fun hfree => h.trans (congrArg _ (State.startOp_of_free hfree))⟩

theorem State.busy_of_running_none (h : s.running q.set = none) : s.busy q.set = false := by simp [State.busy, h]

theorem State.runOp_of_other {r : RegOp} (hrunning : s.running q.set = some r) (hne : r ≠ q) :
    s.runOp q q.written carry = s.regRefused := by
  simp [State.runOp, hrunning, hne]

theorem State.runOp_waits (hrunning : s.running q.set = some q) (hturn : s.turn q = false) : s.runOp q q.written carry = s := by
  simp [State.runOp, hrunning, hturn]

theorem State.runOp_carries (hrunning : s.running q.set = some q) (hturn : s.turn q = true) :
    s.runOp q q.written carry = carry { s with ops := s.ops.erase q } := by
  simp [State.runOp, hrunning, hturn]

theorem State.runOp_of_free (h : s.OpFree q) : s.runOp q q.written carry = carry (q.written s) := by
  obtain ⟨hnone, hturn⟩ := h
  simp [State.runOp, hnone, hturn]

theorem State.runOp_queues (hnone : s.running q.set = none) (hturn : s.turn q = false) :
    s.runOp q q.written carry = { q.written s with ops := s.ops ++ [q] } := by
  rw [← State.startOp_of_free (State.busy_of_running_none hnone)]
  simp [State.runOp, hnone, hturn]
end

/-- In RUNNING the row of an operation is runOp of it, whatever else the state holds. -/
theorem exec_opRow {i : Instr} {q : RegOp} (h : opRow i = some q) :
    ∃ carry, ∀ s : State, s.hostUp = true → s.boot.phase = .running → exec i s = .next (s.runOp q q.written carry) := by
  unfold opRow at h
  split at h
  case h_18 =>
    cases h
    exact ⟨_, fun s hup _ => congrArg _ (if_pos hup)⟩
  case h_19 => cases h
  all_goals
    cases h
    exact ⟨_, fun s _ hrun => next_unless_running hrun⟩

/-! ### The register map -/

/-- Settles O54: every offset named is located in its slot, a read of which gives its word and a write of which is its command; the
operations of the register sets follow `startOp` at their write and `runOp` at their row. -/
theorem registerAccesses : Obligations.RegisterAccesses := by
  unfold Obligations.RegisterAccesses
  intro s v hup wr gives word early f
  have haligned {off : BitVec 26} {size8 : Bool} (h : off.toNat % (if size8 then 8 else 4) = 0) :
      RegAcc.aligned ⟨off.toNat, size8⟩ = true := decide_eq_true h
  refine ⟨?misaligned, ?closed, ?noRegister, ?mapInfo, ?time, ?timeLow, ?timeHigh, ?bootStatus, ?faultStatus, ?coreSpare, ?pendLow,
    ?pendHigh, ?records, fun hrun => ⟨?slotStatus, ?rcvCtl, ?gdefStatus, ?deltaStatus, ?poolStatus, ?rprCtl, ?rtData, ?fabStatus,
    ?weirStatus, ?streams, ?cores, ?counters, ?ports, ?sensors, ?vaults, ?halves, ?commands, ?locked, ?starts, ?rows⟩⟩
  case misaligned =>
    intro off size8 hmis
    have hfalse : RegAcc.aligned ⟨off.toNat, size8⟩ = false := decide_eq_false hmis
    exact ⟨exec_registerWrite_misaligned hup hfalse, exec_registerRead_misaligned hup hfalse⟩
  case closed =>
    intro off size8 hal hphase hlate
    have hclosed : earlySlot (RegAcc.slot ⟨off.toNat, size8⟩) = false :=
      Bool.eq_false_iff.mpr fun hopen => hlate (early_of_earlySlot hopen)
    refine ⟨exec_registerRead_closed hup (haligned hal) hphase hclosed, _, ?_, rfl⟩
    rw [CountsOne, exec_registerWrite_closed hup (haligned hal) hphase hclosed]
    exact congrArg _ (apply_ite s.countDev _ _ _).symm
  case noRegister =>
    intro off size8 hal hrun hrange
    have hnone : RegAcc.slot ⟨off.toNat, size8⟩ = .none := slotOf_eq_none hrange
    exact ⟨exec_registerRead_none hup (haligned hal) (.inl hrun) hnone, exec_registerWrite_none hup (haligned hal) (.inl hrun) hnone⟩
  case mapInfo => exact Slot.LiesAt.givesWord (.dev (by decide)) hup (.inr rfl) rfl rfl
  case time => exact exec_registerRead_open hup rfl (.inr rfl)
  case timeLow => exact ⟨_, exec_registerRead_open hup rfl (.inr rfl), rfl, rfl⟩
  case timeHigh =>
    intro h hfrozen
    rw [exec_registerRead_open hup rfl (.inr rfl), State.hostRegRead_of_some rfl, State.regRead_time_high rfl rfl rfl hfrozen]
    rfl
  case bootStatus => exact Slot.LiesAt.givesWord (.dev (by decide)) hup (.inr rfl) rfl rfl
  case faultStatus => exact Slot.LiesAt.givesWord (.dev (by decide)) hup (.inr rfl) rfl rfl
  case coreSpare =>
    intro c hc
    exact Slot.LiesAt.givesWord (.cluster (k := 0x30) (by omega) hc (by decide)) hup (.inr rfl) rfl rfl
  case pendLow => exact Slot.LiesAt.givesWord (.array (k := 0x6300) rfl (by decide)) hup (.inr rfl) rfl rfl
  case pendHigh => exact Slot.LiesAt.givesWord (.array (k := 0x6308) rfl (by decide)) hup (.inr rfl) rfl rfl
  case records =>
    intro n j hn hj
    exact ⟨_, exec_registerRead_store hup hn hj, rfl, rfl, tget_tput_same .., fun x hx => tget_tput_other _ _ _ hx⟩
  case slotStatus | rcvCtl | gdefStatus | deltaStatus | poolStatus | rprCtl | rtData | fabStatus | weirStatus =>
    exact Slot.LiesAt.givesWord (.dev (by decide)) hup (.inl hrun) rfl rfl
  case streams =>
    intro i x
    have hword {o k : Nat} {y : W64} (ho : o = 0x10000 + 0x100 * i.toNat + k) (hk : k % 8 = 0 ∧ k < 0x100 ∧ k ≠ 0x60)
        (hval : s.streamSlot i k = some y) : s.GivesWord o y :=
      Slot.LiesAt.givesWord (.stream i ho ⟨hk.1, hk.2.1⟩) hup (.inl hrun) (decide_eq_true hk.2.2) hval
    exact ⟨hword (k := 0x00) rfl (by decide) rfl, hword (k := 0x28) (by omega) (by decide) rfl,
      hword (k := 0x20) (by omega) (by decide) rfl⟩
  case cores =>
    intro c hc
    exact Slot.LiesAt.givesWord (.core (k := 0) rfl hc (by decide)) hup (.inl hrun) rfl rfl
  case counters =>
    intro c hc j hj
    exact ⟨Slot.LiesAt.givesWord (.cluster (by omega) hc (by omega)) hup (.inl hrun) rfl (s.clusterSlot_ctr c hj),
      Slot.LiesAt.givesWord (.cluster (by omega) hc (by omega)) hup (.inl hrun) rfl (s.clusterSlot_ret c hj)⟩
  case ports =>
    intro p hp
    exact Slot.LiesAt.givesWord (.array (by omega) (by omega)) hup (.inl hrun) (decide_eq_true (by omega)) (s.arraySlot_port hp)
  case sensors =>
    intro x hx
    exact Slot.LiesAt.givesWord (.array (by omega) (by omega)) hup (.inl hrun) (decide_eq_true (by omega)) (s.arraySlot_sensor hx)
  case vaults =>
    intro k hk
    exact ⟨State.gives_vault_low hup hrun hk, _, exec_registerRead_vault hup hrun hk, rfl, tget_tput_same ..,
      fun j hj => tget_tput_other _ _ _ hj⟩
  case halves =>
    refine ⟨?_, ?_, fun i => ⟨?_, ?_⟩⟩
    · exact Slot.LiesAt.write_keeps (g := s.dev.rprData) (u := fun x => { s with dev := { s.dev with rprData := x } })
        (.dev (by decide)) hup hrun rfl fun _ => rfl
    · exact Slot.LiesAt.write_keeps (g := s.fab.rtData) (u := fun x => { s with fab := { s.fab with rtData := x } })
        (.dev (by decide)) hup hrun rfl fun _ => rfl
    · exact Slot.LiesAt.write_keeps (o := 0x10088 + 0x100 * i.toNat) (g := (s.sreg i).treeArg0)
        (u := fun x => s.setSreg i { s.sreg i with treeArg0 := x }) (.stream (k := 0x88) i (by omega) (by decide)) hup hrun rfl fun _ => rfl
    · exact Slot.LiesAt.write_keeps (o := 0x10090 + 0x100 * i.toNat) (g := (s.sreg i).treeArg1)
        (u := fun x => s.setSreg i { s.sreg i with treeArg1 := x }) (.stream (k := 0x90) i (by omega) (by decide)) hup hrun rfl fun _ => rfl
  case commands =>
    have dev {o : Nat} {c : Instr} {t u : State} (heff : t = u) (hexec : exec c s = .next u)
        (hmem : (o, t) ∈ s.devEffects v := by simp [State.devEffects]) : wr o v = exec c s := by
      rw [hexec, ← heff]
      exact exec_registerWrite_dev hup hrun hmem
    have array {o k : Nat} {c : Instr} {t : State} (ho : o = 0x60000 + k) (hk : k % 8 = 0 ∧ k < 0xD000)
        (hsome : (s.arraySlot k).isSome = true) (hwrite : s.writeArray k (.whole v) = t) (hexec : exec c s = .next t) :
        wr o v = exec c s :=
      Slot.LiesAt.write_eq_exec (.array ho hk) hup hrun hsome hwrite hexec
    obtain ⟨hpendLow, hpendHigh⟩ := s.writeArray_pend v
    refine ⟨fun hack => dev (show (if bit v 0 = true then s.hostAck else s) = _ from if_pos hack) (exec_hostAck hup),
      dev rfl (next_in_running hrun),
      dev rfl (next_in_running hrun),
      fun hop => dev (State.writeGdefCtl_refused hop) (next_stateOr ⟨_, rfl⟩),
      fun hop hmask => dev (State.writeDeltaCtl_refused hop hmask) (next_unless_running hrun),
      fun hop hdone => dev (State.writeRcvCtl_refused hop hdone) (exec_bootRcvOpRefused hup),
      dev rfl (next_in_running hrun),
      dev rfl (exec_fabCfgWrite v s),
      fun hop => Slot.LiesAt.write_eq_exec (.dev (by decide)) hup hrun rfl (State.writeDev_join hop) (exec_fabJoin s),
      fun hop => Slot.LiesAt.write_eq_exec (.dev (by decide)) hup hrun rfl (State.writeDev_leave hop) (exec_fabLeave s),
      fun hop => dev (State.writeRtCtl_read hop) (next_stateOr ⟨_, rfl⟩),
      fun hop => dev (State.writeRtCtl_write hop) (next_stateOr ⟨_, rfl⟩),
      fun hop => dev (State.writeRtCtl_refused hop) (next_stateOr ⟨_, rfl⟩),
      dev rfl (next_in_running hrun),
      dev rfl (next_in_running hrun),
      dev rfl (next_in_running hrun),
      array (k := 0x6500) rfl (by decide) rfl (s.writeArray_win v) (next_in_running hrun),
      array (k := 0x6300) rfl (by decide) rfl hpendLow (exec_irqPendClear hup),
      array (k := 0x6308) rfl (by decide) rfl hpendHigh (exec_irqPendClear hup),
      fun i => ?_, fun c => ?_, fun e he => ?_⟩
    · have stream {o k : Nat} {c : Instr} {t u : State} (ho : o = 0x10000 + 0x100 * i.toNat + k) (heff : t = u)
          (hexec : exec c s = .next u) (hmem : (k, t) ∈ s.streamEffects v i := by simp [State.streamEffects]) :
          wr o v = exec c s := by
        rw [hexec, ← heff]
        exact exec_registerWrite_stream hup hrun ho hmem
      exact ⟨stream rfl rfl (next_in_running hrun),
        stream rfl rfl (next_in_running hrun),
        stream rfl rfl (next_in_running hrun),
        stream rfl rfl (next_in_running hrun),
        stream rfl rfl (next_in_running hrun),
        stream rfl rfl (next_in_running hrun),
        stream rfl rfl (next_in_running hrun),
        fun hop => stream rfl (s.writeTreeCtl_refused i hop) (next_stateOr ⟨_, rfl⟩)⟩
    · have cluster {o k : Nat} {d : Instr} {t : State} (ho : o = 0x20000 + 0x1000 * c.toNat + k) (hk : k % 8 = 0 ∧ k < 0x1000)
          (hsome : (s.clusterSlot c.toNat k).isSome = true) (hwrite : s.writeCluster c.toNat k (.whole v) = t)
          (hexec : exec d s = .next t) : wr o v = exec d s :=
        Slot.LiesAt.write_eq_exec (.cluster ho c.isLt hk) hup hrun hsome hwrite hexec
      have hself : BitVec.ofNat 5 c.toNat = c := by simp
      exact ⟨fun hrestart => cluster rfl (by decide) rfl ((s.writeCluster_noise v c.toNat).trans ((if_pos hrestart).trans
          (congrArg (fun d => stateOr s (execNoiseRestart d s)) hself))) (next_stateOr ⟨_, rfl⟩),
        cluster rfl (by decide) rfl (s.writeCluster_fences v c.toNat) (next_in_running hrun),
        fun n => cluster (k := 0x200 + 8 * n.toNat) (by omega) (by omega)
          (Option.isSome_iff_exists.mpr ⟨_, s.clusterSlot_sel c.toNat n.isLt⟩)
          (s.writeCluster_evtSel v c n) (next_in_running hrun)⟩
    · have hself : BitVec.ofNat 4 e.toNat = e := by simp
      have hsome {k : Nat} (hk : k < 0x40) (h : (s.vidSlot e.toNat k).isSome = true) :
          (s.arraySlot (0x2000 + 0x40 * e.toNat + k)).isSome = true := (congrArg Option.isSome (s.arraySlot_engine he hk)).trans h
      exact ⟨array (k := 0x2000 + 0x40 * e.toNat + 0) (by omega) (by omega) (hsome (by decide) rfl)
          ((s.writeArray_vidRing he _).trans (congrArg (s.writeVidRing e.toNat) (Wr.over_whole v _)))
          (congrArg _ ((if_neg (by omega)).trans ((if_neg (not_not.mpr hrun)).trans (if_neg Bool.false_ne_true)))),
        array (k := 0x2000 + 0x40 * e.toNat + 0x10) (by omega) (by omega) (hsome (by decide) rfl)
          ((s.writeArray_vidDb he _).trans (congrArg (fun d => stateOr s (execVidDb d s)) hself)) (next_stateOr ⟨_, rfl⟩)⟩
  case locked =>
    intro hlock k hk
    have hwrite : s.slotWrite .host (.array (0xB000 + 8 * k)) (.whole v) = s.leveeDenied :=
      (s.writeArray_key hk _).trans (if_pos hlock)
    exact (Slot.LiesAt.write_whole (.array (by omega) (by omega)) hup (.inl hrun) (s.arraySlot_key_isSome hk)).trans
      (congrArg _ hwrite)
  case starts =>
    have dev {o : Nat} {t : State} {q : RegOp} (hstart : t = s.startOp q q.written)
        (hmem : (o, t) ∈ s.devEffects v := by simp [State.devEffects]) :=
      State.starts_of_startOp ((exec_registerWrite_dev hup hrun hmem).trans (congrArg _ hstart))
    exact ⟨fun hop => dev (State.writeGdefCtl_define hop),
      fun hop => dev (State.writeGdefCtl_remove hop),
      ⟨fun hop => dev (State.writeDeltaCtl_load hop),
        fun hop => dev (State.writeDeltaCtl_retire hop)⟩,
      ⟨fun hop => dev (State.writePoolCtl_define .host hop),
        fun hop => dev (State.writePoolCtl_remove .host hop),
        fun hop => dev (State.writePoolCtl_advance .host hop)⟩,
      fun hdone hop => dev (State.writeRprCtl_starts hdone hop),
      fun hop hdone => dev (State.writeRcvCtl_fetch hop hdone),
      fun i hlo hhi => State.starts_of_startOp ((exec_registerWrite_stream (i := i) (k := 0x80) hup hrun (by omega)
        (by simp [State.streamEffects])).trans (congrArg _ (s.writeTreeCtl_starts i hlo hhi)))⟩
  case rows =>
    intro i q hrow u
    obtain ⟨carry, hexec⟩ := exec_opRow hrow
    rw [hexec s hup hrun]
    refine ⟨fun r hr hne => ?_, fun hq hturn => ?_, fun hq hturn hfree hsame => ?_, fun hnone hturn => ?_⟩
    · exact congrArg _ (State.runOp_of_other hr hne)
    · exact congrArg _ (State.runOp_waits hq hturn)
    · rw [hexec u hup hrun, State.runOp_carries hq hturn, State.runOp_of_free hfree, hsame]
    · exact congrArg _ (State.runOp_queues hnone hturn)

end Sys2Proof.Machine
end
